-- ==== Sys2Proof/Word.lean ====
section
/-! DEFINITION. The word types of the KZ-64: bytes, 16-, 32- and 64-bit words, and the bits of an FP32 value. -/
namespace Sys2Proof

/-- One byte of a packet, of device memory or of a flash image. -/
abbrev Byte := BitVec 8

/-- A 16-bit word. -/
abbrev W16 := BitVec 16

/-- A 32-bit word: a BAR0 register, or a counter that saturates at 32 bits. -/
abbrev W32 := BitVec 32

/-- A 64-bit word: one word of a reply (R32), a step number, the job seed. -/
abbrev W64 := BitVec 64

/-- The bits of an FP32 value (R170). -/
abbrev F32 := BitVec 32

end Sys2Proof
end

