-- ==== Sys2Proof/Syntax.lean ====
section
/-! DEFINITION. The commands and events of the KZ-64: one constructor of Instr per row of the opcode table, with its operands. A row that is a Tuimi command
names the command in flight that it runs (id); a row that is an event carries what the event brings from outside the chip. -/
namespace Sys2Proof

/-- An expansion request of R93, as the record's fields. -/
structure ExpReq where
  node : Nat
  hop : Nat
  kind : Nat
  fanOut : Nat
  shard : Nat
  staleOk : Bool
  step : Nat
  key : Nat
  stream : Nat
  tag : Nat
  deriving DecidableEq, Repr, Inhabited

/-- One path-log entry of R89. -/
structure PathEntry where
  node : Nat
  edgeType : Nat
  parentPos : Nat
  edgePos : Nat
  deriving DecidableEq, Repr, Inhabited

/-- An expansion response of R95: the header's fields and its entries. -/
structure ExpResp where
  tag : Nat
  status : Byte
  detail : Nat
  stale : Bool
  entries : List PathEntry
  deriving DecidableEq, Repr, Inhabited

/-- A remote row request record of R114. -/
structure RowReq where
  node : Nat
  ftable : Nat
  pool : Bool
  last : Bool
  step : Nat
  tag : Nat
  deriving DecidableEq, Repr, Inhabited

/-- A row response of R115: header fields and the row's bytes. -/
structure RowResp where
  tag : Nat
  count : Nat
  status : Byte
  detail : Nat
  row : List Byte
  deriving DecidableEq, Repr, Inhabited

/-- A lookup request record of R282. via is the rank that forwarded it, if any, and part says that it belongs to a portion whose rows no longer lie with one owner (R305; the model's form, log entry 110). -/
structure LookupReq where
  key : Nat
  table : Nat
  last : Bool
  tenure : Nat
  pool : Nat
  step : Nat
  weight : F32
  tag : Nat
  via : Option Nat
  part : Bool
  deriving DecidableEq, Repr, Inhabited

/-- A lookup response of R283. via is the rank that forwarded the request, so that FORWARDED is set when there is one (R305; log entry 110). -/
structure LookupResp where
  tag : Nat
  count : Nat
  status : Byte
  detail : Nat
  asStored : Bool
  via : Option Nat
  owner : Nat
  tenure : Nat
  row : List Byte
  deriving DecidableEq, Repr, Inhabited

/-- A contribution record of R289. KIND is 0 row, 1 bag gradient, 2 replica pre-merge. For KIND 1, key holds the lookup TAG. -/
structure Contribution where
  key : Nat
  table : Nat
  kind : Nat
  tenure : Nat
  origin : Nat
  seq : Nat
  grad : List F32
  deriving DecidableEq, Repr, Inhabited

/-- A barrier flag or agreement of R381. UP false means down. KIND is 0 scatter, 1 update, 2 step boundary, 3 agreement. -/
structure Flag where
  src : Nat
  up : Bool
  step : Nat
  kind : Nat
  pace : Byte
  slowRank : Nat
  mask : W64
  deriving DecidableEq, Repr, Inhabited

/-- A piece of a collective (R375) with its payload. PROTO is 1 reduce-scatter, 2 all-gather, 3 all-to-all (the low digit of 0x010x). offset is in bytes; OFFSET holds it in units of 32, and beside the header's fields the
piece names its source and destination rank (log entry 70). -/
structure Piece where
  src : Nat
  dest : Nat
  proto : Nat
  step : Nat
  pace : Byte
  dim : Nat
  queue : Nat
  det : Bool
  collId : Nat
  offset : Nat
  shape : Byte
  poisoned : Bool
  data : List Byte
  deriving DecidableEq, Repr, Inhabited

/-- A halt cell of R387. -/
structure HaltCell where
  src : Nat
  hops : Nat
  origin : Nat
  cause : Byte
  status : Byte
  step : W32
  deriving DecidableEq, Repr, Inhabited

/-- A packet on a link (R344): its header's fields, and its payload cells as they travel, each the 36 symbols of a word (R330, R350). -/
structure Packet where
  dest : Nat
  src : Nat
  vc : Nat
  escape : Bool
  poisoned : Bool
  lastPart : Bool
  hops : Nat
  bytes : Nat
  batch : Nat
  part : Nat
  proto : Nat
  inline : List Byte
  words : List (List Byte)
  deriving DecidableEq, Repr, Inhabited

/-- A control slot of R342, after its word code has been checked. -/
structure CtlSlot where
  marker : W32
  lane : Nat
  width : Nat
  state : Nat
  nakValid : Bool
  narrowReq : Bool
  narrowAck : Bool
  rejoinReq : Bool
  ackSeq : Nat
  nakSeq : Nat
  credit : List Nat
  lost : Nat
  switchIn : Nat
  deriving DecidableEq, Repr, Inhabited

/-- What the end of a training attempt found (R338): the peer's handshake fields (chip ID, port, width code, rate, the lanes it judged fit), whether the lanes are reversed, and for each configured lane the corrected and the
uncorrectable cells of the test pattern and whether its polarity is inverted. Per-lane lists run from the port's base lane up. -/
structure TrainResult where
  peerId : Nat
  peerPort : Nat
  peerWidth : Nat
  peerHalf : Bool
  peerFit : List Bool
  reversed : Bool
  corrected : List Nat
  uncorrectable : List Nat
  inverted : List Bool
  deriving DecidableEq, Repr, Inhabited

/-- What a removed lane has shown on its own (R361): the corrected and uncorrectable cells of its 20 ms test pattern, and the cells and corrected cells of the 10 s after it. -/
structure LaneTest where
  lane : Nat
  testCorrected : Nat
  testUncorrectable : Nat
  cells : Nat
  corrected : Nat
  deriving DecidableEq, Repr, Inhabited

/-- A message of the authentication exchange of R357, as a port receives it. -/
inductive AuthMsg where
  | nonce (n : List Byte)
  | proof (signature : List Byte) (deviceKey : List Byte) (deviceCert : List Byte) (intermediate : List Byte) (rootKey : List Byte)
  deriving DecidableEq, Repr

/-- The types of an element that an add or a slice atomic works on (R415, R430). -/
inductive ElemTy where
  | int32 | int64 | uint32 | uint64 | fp32
  deriving DecidableEq, Repr, Inhabited

/-- The operations of R429. -/
inductive AtomOp where
  | min | max | swap | cas | add
  deriving DecidableEq, Repr, Inhabited

/-- An add request to a port's memory-side adder (R415): one sector of addends, and the mask of the elements to which it adds. -/
structure AddReq where
  addr : Nat
  ty : ElemTy
  mask : List Bool
  addends : List Byte
  deriving DecidableEq, Repr, Inhabited

/-- One element operation at a cache slice (R430). -/
structure AtomReq where
  addr : Nat
  op : AtomOp
  ty : ElemTy
  operand : Nat
  compare : Nat
  deriving DecidableEq, Repr, Inhabited

/-- A failure that a self-test found (R479), by the unit concerned. -/
inductive TestFailure where
  | bank (ridge bank : Nat)
  | unit (ridge : Nat)
  | spareRow (port channel row : Nat)
  | standIn (region : Nat)
  | reserve
  | pairMismatch (ridge pair : Nat)
  deriving DecidableEq, Repr

/-- One activity counter of R450, totalled over a 2 µs window: the island, the counter's position in that island's row, and its count. -/
structure Activity where
  island : Nat
  counter : Nat
  count : Nat
  deriving DecidableEq, Repr, Inhabited

/-- The inputs from which a pace tag is formed (R382): the clock and bubbles averaged over the last 100 µs, and the share of the slowdown due to each
CAUSE 1 to 6. -/
structure PaceInput where
  meanClockHz : Rat
  meanBubble : Rat
  shares : List Rat
  deriving DecidableEq, Repr

/-- What the boot step MEMORY finds at a GDDR-7 port (R393, R399, R400): the identification of its devices (density code, whether two share the port) and the least eye margin of its pins, in percent
of the unit interval, at each rate code 0 to 4. -/
structure PortTrain where
  port : Nat
  density : Nat
  clamshell : Bool
  margins : List Rat
  deriving DecidableEq, Repr, Inhabited

/-- How a boot step's work came out (R503, R507): whether it could complete, the ridges that failed their tests and retests, what the memory ports showed, the places of the
remap entries whose rows were repaired (R413), and CODE. -/
structure BootResult where
  ok : Bool
  failedElements : List Nat
  trains : List PortTrain
  repaired : List Nat
  code : W32
  deriving DecidableEq, Repr, Inhabited

/-- A PCIe configuration request (R552): a read or a write of the configuration word at an offset. -/
structure CfgReq where
  write : Bool
  offset : Nat
  value : W32
  deriving DecidableEq, Repr, Inhabited

/-- A row migrating to its new owner (R304): the record's bytes and the tenure the old owner held. -/
structure MigCopy where
  src : Nat
  table : Nat
  key : Nat
  tenure : Nat
  record : List Byte
  deriving DecidableEq, Repr, Inhabited

/-- A relocation notice of R304. -/
structure Relocation where
  table : Nat
  key : Nat
  owner : Nat
  tenure : Nat
  deriving DecidableEq, Repr, Inhabited

/-- The commands of the block: one constructor per row of the opcode table, in the table's order. -/
inductive Instr where
  /-- SYS_NOP (R67). Command that does nothing and replies OK. -/
  | sysNop (id : Nat)
  /-- SYS_QUEUE_CREATE (R34). Creates a submission or response queue with its size, ring offset and interrupt settings. -/
  | sysQueueCreate (id : Nat)
  /-- SYS_QUEUE_DELETE (R43). Deletes a queue once the packets already taken from it have completed, or refuses with BUSY. -/
  | sysQueueDelete (id : Nat)
  /-- SYS_QUEUE_FLUSH (R42). At the next packet boundary, discards the untaken packets of a submission queue or the waiting replies of a response queue. -/
  | sysQueueFlush (id : Nat)
  /-- SYS_INFO (R67). Replies with the enabled ridge count E. -/
  | sysInfo (id : Nat)
  /-- SYS_DEADLINES (R53). Replaces the family default deadlines and the barrier deadline. -/
  | sysDeadlines (id : Nat)
  /-- PLAN_LOAD (R64). Copies and checks a plan image into the plan store and divides the ridges among its branches. -/
  | planLoad (id : Nat)
  /-- PLAN_UNLOAD (R67). Removes a plan that is not running from the plan store. -/
  | planUnload (id : Nat)
  /-- STEP_RUN (R65). Requests a step of a plan, carrying the expected step number. -/
  | stepRun (id : Nat)
  /-- PLAN_BARRIER (R63). Step-level plan entry that waits at the scatter or update barrier. -/
  | planBarrier (id : Nat)
  /-- PLAN_AGREE (R61). Step-level plan entry that ORs masked condition bits across the job and writes the result back. -/
  | planAgree (id : Nat)
  /-- GRAPH_SHARD_SET (R75). Installs or replaces a CSR shard descriptor. -/
  | graphShardSet (id : Nat)
  /-- GRAPH_SHARD_CLEAR (R78). Removes an installed shard. -/
  | graphShardClear (id : Nat)
  /-- GRAPH_JOB (R582). Sets the job size N and the chip's own rank, discards the rank table and resets the collective grid. -/
  | graphJob (id : Nat)
  /-- GRAPH_SAMPLE (R85). Runs one hop of neighbourhood sampling, local and remote, and writes its path log. -/
  | graphSample (id : Nat)
  /-- GRAPH_ALIAS_REBUILD (R102). Marks a shard's alias table stale and starts or restarts a background rebuild into the shadow copy. -/
  | graphAliasRebuild (id : Nat)
  /-- GRAPH_ALIAS_CONFIG (R103). Sets the alias-rebuild floor as a share of GDDR-7 peak. -/
  | graphAliasConfig (id : Nat)
  /-- GRAPH_ALIAS_STATUS (R78). Reports the rebuild state, pass and remaining nodes of a shard's alias table. -/
  | graphAliasStatus (id : Nat)
  /-- GRAPH_FEATURE_SET (R108). Installs or replaces a feature table descriptor. -/
  | graphFeatureSet (id : Nat)
  /-- GRAPH_FEATURE_CLEAR (R110). Removes an installed feature table. -/
  | graphFeatureClear (id : Nat)
  /-- GRAPH_GATHER (R112). Gathers feature rows per entry or pools them per parent, locally and from remote owners. -/
  | graphGather (id : Nat)
  /-- GRAPH_AGGREGATE (R120). Folds the children of each parent into one FP32 row by sum, mean, weighted sum, maximum or attention. -/
  | graphAggregate (id : Nat)
  /-- GRAPH_AGGREGATE_BWD (R124). Computes the entry and weight or score gradients of an aggregation. -/
  | graphAggregateBwd (id : Nat)
  /-- GRAPH_SCATTER (R126). Applies per-entry contributions to destination rows in scratch, GDDR-7, the cache or remote embedding owners. -/
  | graphScatter (id : Nat)
  /-- MATRIX_ACC_OPEN (R144). Opens an accumulation group and reserves its carry stacks. -/
  | matrixAccOpen (id : Nat)
  /-- MATRIX_ACC_CLOSE (R149). Closes a group after its earlier commands, collapsing its stacks and writing the converted output. -/
  | matrixAccClose (id : Nat)
  /-- MATRIX_ACC_DISCARD (R150). Frees a group after its earlier commands without writing anything. -/
  | matrixAccDiscard (id : Nat)
  /-- MATRIX_ACC_STATUS (R154). Reports the pass count, state and LONG_SUM count of a group. -/
  | matrixAccStatus (id : Nat)
  /-- MATRIX_MATMUL (R138). Computes a matrix product on the tree arrays and accumulates it into a group. -/
  | matrixMatmul (id : Nat)
  /-- CFG_WIDE (R190). Sets WIDE_STATE and WIDE_REDUCE. -/
  | cfgWide (id : Nat)
  /-- CFG_SCALE_POOL (R184). Names the device-memory pool for ACT_GRAD scale histories. -/
  | cfgScalePool (id : Nat)
  /-- CFG_RATIO_SET (R200). Sets the band, stall count, flags and tag mask of the update-ratio monitor. -/
  | cfgRatioSet (id : Nat)
  /-- CFG_NUM_READ (R193). Writes the monitor tag records or the conversion counter sets, optionally clearing the counters. -/
  | cfgNumRead (id : Nat)
  /-- VEC_MAP (R205). Applies an elementwise chain of operations to X, Y and Z. -/
  | vecMap (id : Nat)
  /-- VEC_REDUCE (R206). Reduces rows or columns by pairwise sum, max, min, sum of squares or mean. -/
  | vecReduce (id : Nat)
  /-- VEC_NORM (R207). Applies layer norm or RMS norm and saves the row statistics. -/
  | vecNorm (id : Nat)
  /-- VEC_NORM_BWD (R207). Computes the input gradient of layer or RMS norm, or the gain-gradient product. -/
  | vecNormBwd (id : Nat)
  /-- VEC_SOFTMAX (R207). Computes a masked soft maximum per row, or its backward. -/
  | vecSoftmax (id : Nat)
  /-- VEC_LOSS (R207). Computes cross-entropy or squared-error loss per row and its scaled gradient. -/
  | vecLoss (id : Nat)
  /-- VEC_DROPOUT (R222). Drops and rescales elements by keyed random bits, forward or backward. -/
  | vecDropout (id : Nat)
  /-- VEC_INIT (R223). Writes uniform, normal or constant initial values keyed by logical index. -/
  | vecInit (id : Nat)
  /-- VEC_RANDOM_BITS (R218). Writes each element's keyed random element word. -/
  | vecRandomBits (id : Nat)
  /-- VEC_GUMBEL (R223). Writes per row the indices of the K largest scores perturbed by Gumbel noise. -/
  | vecGumbel (id : Nat)
  /-- FUNC_APPLY (R210). Evaluates a table pair's function on X. -/
  | funcApply (id : Nat)
  /-- FUNC_DERIV (R237). Multiplies Y by a table pair's derivative at the saved input. -/
  | funcDeriv (id : Nat)
  /-- FUNC_LOAD_PAIR (R211). Checks a pair image and multicasts it to every enabled ridge. -/
  | funcLoadPair (id : Nat)
  /-- FUNC_CLEAR_PAIR (R212). Clears a loaded pair once no running command names it. -/
  | funcClearPair (id : Nat)
  /-- FUNC_READ_PAIR (R213). Writes the image of an occupied pair or of the internal cosine. -/
  | funcReadPair (id : Nat)
  /-- VEC_RNG_SEED (R219). Sets the 64-bit job seed from the next step boundary. -/
  | vecRngSeed (id : Nat)
  /-- SPARSE_MATMUL (R255). Computes a product with curd operands into a group, optionally skimming the output. -/
  | sparseMatmul (id : Nat)
  /-- SPARSE_ACC_OPEN (R254). Opens an accumulation group with skimmer output fields. -/
  | sparseAccOpen (id : Nat)
  /-- SPARSE_SKIM (R264). Compresses a whole-form tensor into the curd form in one of four modes. -/
  | sparseSkim (id : Nat)
  /-- SPARSE_EXPAND (R272). Writes the whole form of a curd tensor. -/
  | sparseExpand (id : Nat)
  /-- SPARSE_CHECK (R272). Checks every tile of a curd tensor and reports the result without writing. -/
  | sparseCheck (id : Nat)
  /-- EMBED_TABLE_SET (R277). Installs an embedding table descriptor. -/
  | embedTableSet (id : Nat)
  /-- EMBED_TABLE_CLEAR (R277). Removes a table with its replicas, guest rows and relocation entries on this chip. -/
  | embedTableClear (id : Nat)
  /-- EMBED_POLICY (R302). Sets merge, replication, migration and log-area settings from the next boundary. -/
  | embedPolicy (id : Nat)
  /-- EMBED_LOOKUP (R281). Looks up bags of rows, serving portions locally, from replicas or from owners, and pools them. -/
  | embedLookup (id : Nat)
  /-- EMBED_LOOKUP_BWD (R288). Sends or expands per-portion gradients of an earlier lookup to the churns and pre-merge buffers. -/
  | embedLookupBwd (id : Nat)
  /-- EMBED_APPLY (R294). Updates each touched row of a table once from its merged accumulator. -/
  | embedApply (id : Nat)
  /-- UPDATE_SHARD_SET (R320). Installs a dense shard descriptor and sets its step counter. -/
  | updateShardSet (id : Nat)
  /-- UPDATE_SHARD_CLEAR (R320). Removes the dense shard of a layer tag. -/
  | updateShardClear (id : Nat)
  /-- UPDATE_HYPER_TABLE (R310). Names or removes the hyperparameter table. -/
  | updateHyperTable (id : Nat)
  /-- UPDATE_STEP_SET (R325). Sets every step counter of the chip. -/
  | updateStepSet (id : Nat)
  /-- UPDATE_RUN (R321). Applies the update rule to every element of a layer tag's shard. -/
  | updateRun (id : Nat)
  /-- CFG_LINK_PORTS (R334). Configures link ports, bringing changed ports down and training them again. -/
  | cfgLinkPorts (id : Nat)
  /-- CFG_LINK_ROUTE (R353). Loads route table entries. -/
  | cfgLinkRoute (id : Nat)
  /-- CFG_LINK_RANKS (R335). Maps the job's ranks to chip IDs. -/
  | cfgLinkRanks (id : Nat)
  /-- CFG_LINK_POLICY (R363). Sets VC weights, hop limit, escape wait, lane thresholds and spill area. -/
  | cfgLinkPolicy (id : Nat)
  /-- CFG_LINK_RETRAIN (R339). Brings a port down and trains it again at its configured or half rate. -/
  | cfgLinkRetrain (id : Nat)
  /-- COLL_CONFIG (R366). Sets the collective grid, deterministic reduce, chunk size and stage area. -/
  | collConfig (id : Nat)
  /-- COLL_REDUCE_SCATTER (R371). Sums a tensor across the job and delivers each chip its shard. -/
  | collReduceScatter (id : Nat)
  /-- COLL_ALL_GATHER (R371). Gathers every chip's shard into the whole tensor. -/
  | collAllGather (id : Nat)
  /-- COLL_ALL_REDUCE (R371). Reduce-scatter followed by all-gather over the same parts. -/
  | collAllReduce (id : Nat)
  /-- COLL_ALL_TO_ALL (R371). Exchanges one block between every pair of ranks. -/
  | collAllToAll (id : Nat)
  /-- MEM_INFO (R418). Writes the memory build record. -/
  | memInfo (id : Nat)
  /-- MEM_SHARE (R406). Sets the GDDR-7 requester class weights. -/
  | memShare (id : Nat)
  /-- MEM_POLICY (R417). Sets minimum refresh, remap threshold, PIN_REMAP and scrub period. -/
  | memPolicy (id : Nat)
  /-- MEM_REMAP_READ (R417). Writes a port's remap entries. -/
  | memRemapRead (id : Nat)
  /-- MEM_RETRAIN (R417). Retrains one GDDR-7 port. -/
  | memRetrain (id : Nat)
  /-- MEM_CACHE_SPLIT (R433). Writes back the caching region and applies a new direct-region size. -/
  | memCacheSplit (id : Nat)
  /-- MEM_CACHE_FLUSH (R433). Writes back every dirty line of the caching region. -/
  | memCacheFlush (id : Nat)
  /-- MEM_STACK_AREA (R585). Sets the size of each ridge's stack area. -/
  | memStackArea (id : Nat)
  /-- MEM_COPY (R434). Copies words with their check words between device addresses. -/
  | memCopy (id : Nat)
  /-- MEM_FILL (R434). Fills a range with a 32-byte pattern. -/
  | memFill (id : Nat)
  /-- MEM_ATOMIC (R435). Performs one minimum, maximum, swap, compare-and-swap or add and returns the old value. -/
  | memAtomic (id : Nat)
  /-- POWER_CAP (R454). Sets the runtime power cap and the core current limit. -/
  | powerCap (id : Nat)
  /-- POWER_CLOCK (R458). Sets the clock bounds and the PIN and PIN_GUARD flags. -/
  | powerClock (id : Nat)
  /-- POWER_HINT (R464). Announces a heavy phase so the estimator floors its class counters in the window. -/
  | powerHint (id : Nat)
  /-- HEALTH_POLICY (R476). Sets patrol periods, quarantine limit, test share and pin flags. -/
  | healthPolicy (id : Nat)
  /-- HEALTH_TEST (R478). Runs an intrusive self-test on named ridges, or one extra pass of a continuous test. -/
  | healthTest (id : Nat)
  /-- HEALTH_CLEAR_HALT (R491). Clears a halt, discarding transient state and applying pending quarantines. -/
  | healthClearHalt (id sinceHalt : Nat)
  /-- HEALTH_RETIRE (R480). Records a ridge for retirement at the next boot, or cancels the record. -/
  | healthRetire (id : Nat)
  /-- TELEM_RING (R481). Names the telemetry ring, rate and type mask and resets HEAD and TAIL. -/
  | telemRing (id : Nat)
  /-- TELEM_COUNTERS (R485). Writes the telemetry counter table, optionally clearing it. -/
  | telemCounters (id : Nat)
  /-- CTX_SIZE (R493). Writes the length of the context image. -/
  | ctxSize (id : Nat)
  /-- CTX_SAVE (R494). Writes a context image to device memory or streams it to a gateway. -/
  | ctxSave (id : Nat)
  /-- CTX_RESTORE (R499). Checks and restores a context image, setting step counters, seed, pairs and relocations. -/
  | ctxRestore (id : Nat)
  /-- CFG_STAEZ_READ (R525). Writes a Staez copy or the copy in force. -/
  | cfgStaezRead (id : Nat)
  /-- CFG_STAEZ_WRITE (R525). Writes a new Staez image over the invalid or older copy. -/
  | cfgStaezWrite (id : Nat)
  /-- CFG_CAIRN_READ (R525). Writes the cairn records of the most recent starts. -/
  | cfgCairnRead (id : Nat)
  /-- CFG_BOOT_CLEAR (R525). Clears step failure counts, sticky marks and retirement or port records for the next start. -/
  | cfgBootClear (id : Nat)
  /-- SEC_CERT_READ (R541). Writes the certificate records. -/
  | secCertRead (id : Nat)
  /-- SEC_QUOTE (R537). Writes a signed quote of the measurement slots for a nonce. -/
  | secQuote (id : Nat)
  /-- SEC_EXTEND (R536). Extends measurement slot 7 with a supplied value. -/
  | secExtend (id : Nat)
  /-- SEC_IMAGE_WRITE (R533). Verifies a firmware image and starts programming it into the other slot. -/
  | secImageWrite (id : Nat)
  /-- SEC_IMAGE_STATUS (R541). Reports the state of a firmware image write. -/
  | secImageStatus (id : Nat)
  /-- SEC_FUSE_COMMIT (R534). Raises the anti-rollback fuse counter to the running image's SVN. -/
  | secFuseCommit (id : Nat)
  /-- SEC_CUSTOMER_KEY (R535). Writes the customer key record and blows its hash fuses. -/
  | secCustomerKey (id : Nat)
  /-- SEC_DEBUG_CHALLENGE (R539). Writes a fresh debug-unlock nonce. -/
  | secDebugChallenge (id : Nat)
  /-- SEC_DEBUG_UNLOCK (R540). Verifies a debug token and unlocks debug, erasing the identity key. -/
  | secDebugUnlock (id : Nat)
  /-- JTAG_DEBUG_UNLOCK (R539). A debug token shifted in through the JTAG data register is verified as by SEC_DEBUG_UNLOCK. -/
  | jtagDebugUnlock (token : List Byte)
  /-- JTAG_CHIP_RESET (R566). The JTAG CHIP_RESET instruction gives a warm reset. -/
  | jtagChipReset
  /-- HST_SQ_DOORBELL (R35). A doorbell write moves a submission queue's tail, or is ignored with an error bit. -/
  | hstSqDoorbell (q : Nat) (value : W32)
  /-- TAKE_PACKET (R40). Firmware reserves a reply slot and takes a whole packet from a submission queue in its round-robin turn. -/
  | takePacket (q : Nat)
  /-- DEFERRED_START (R47). A deferred command starts at the step boundary, before the next step begins. -/
  | deferredStart (id : Nat)
  /-- COMMAND_COMPLETE (R33). A command finishes and its final reply is written to its response queue and reply address. -/
  | commandComplete (id runTime : Nat)
  /-- COMMAND_DEADLINE (R52). A running command's deadline passes and it ends with TIMEOUT, its outputs poisoned. -/
  | commandDeadline (id : Nat)
  /-- POP_REPLY (R38). A read of a pop window removes and returns the oldest reply, or VALID 0 when empty. -/
  | popReply (q offset length : Nat)
  /-- RQ_STALL (R40). A submission queue has waited 1 s for response space; RQ_STALL sets and vector 63 signals. -/
  | rqStall (q : Nat)
  /-- RESPONSE_COALESCE_TIMER (R41). The coalescing time since the oldest waiting reply passes and the queue's vector signals. -/
  | responseCoalesceTimer (q : Nat)
  /-- STEP_BEGIN (R65). A waiting STEP.RUN begins its step once the previous boundary has passed, after tag and state checks. -/
  | stepBegin
  /-- PLAN_ENTRY_START (R57). A plan entry whose waits are met starts, or completes at once when its skip condition holds. -/
  | planEntryStart (entry : Nat)
  /-- PLAN_ENTRY_COMPLETE (R58). A plan entry ends; its condition bit is written and a fatal outcome raises the fault wave. -/
  | planEntryComplete (entry : Nat)
  /-- STEP_DEADLINE (R52). A step's deadline passes. -/
  | stepDeadline
  /-- HOP_COMPLETE (R98). Every local draw of a hop has finished and every expansion request is answered. -/
  | hopComplete (id : Nat)
  /-- BATCH_SEND_TIMER (R94). A request batch to one owner is sent 1 µs after its first request entered it. -/
  | batchSendTimer (owner : Nat)
  /-- EXPANSION_REQUEST (R96). An owner takes an expansion request and serves it, holds it for the next step, or answers STEP_MISMATCH. -/
  | expansionRequest (src : Nat) (r : ExpReq)
  /-- EXPANSION_RESPONSE (R97). A requester takes an expansion response and writes its entries or records the failure. -/
  | expansionResponse (src : Nat) (r : ExpResp)
  /-- ROW_REQUEST (R115). An owner takes a remote feature-row request or pool and answers with the row or its sum. -/
  | rowRequest (src : Nat) (rs : List RowReq)
  /-- ROW_RESPONSE (R116). A requester takes a feature-row response and combines it into the output. -/
  | rowResponse (src : Nat) (r : RowResp)
  /-- LOOKUP_REQUEST (R283). An owner takes a lookup portion, judges its tenure and answers with the row or pooled partial. -/
  | lookupRequest (src : Nat) (rs : List LookupReq)
  /-- LOOKUP_RESPONSE (R284). A requester takes a lookup response and combines the portion into its bag. -/
  | lookupResponse (src : Nat) (r : LookupResp)
  /-- CONTRIBUTION_RECEIVE (R290). An owner's churn takes a row contribution or pre-merge, adds or logs it, and acknowledges it. -/
  | contributionReceive (src : Nat) (c : Contribution)
  /-- CONTRIBUTION_ACK (R128). A sender takes an owner's acknowledgement of a contribution. -/
  | contributionAck (src tag : Nat) (status : Byte)
  /-- SCATTER_BARRIER_PASS (R19). The scatter barrier passes when every chip's contributions are acknowledged. -/
  | scatterBarrierPass
  /-- UPDATE_BARRIER_PASS (R19). The update barrier passes when every chip has completed stages 8a and 8b. -/
  | updateBarrierPass
  /-- SUBSCRIPTION_REQUEST (R299). An owner takes a subscription request and accepts it or refuses it at its limits. -/
  | subscriptionRequest (src table key : Nat)
  /-- MIGRATION_COPY (R304). A new owner takes a migrated row copy, writes the next tenure and acknowledges. -/
  | migrationCopy (m : MigCopy)
  /-- MIGRATION_ACK (R304). The old owner takes the acknowledgement and replaces the row with a forwarding entry. -/
  | migrationAck (src table key : Nat) (accepted : Bool)
  /-- RELOCATION_NOTICE (R304). A chip takes a relocation notice to apply at the next boundary. -/
  | relocationNotice (r : Relocation)
  /-- REPLICA_REFRESH (R301). A subscriber takes an owner's refresh multicast of updated weights. -/
  | replicaRefresh (src table key tenure : Nat) (weights : List Byte)
  /-- STEP_BOUNDARY (R19). The step boundary passes: step counters increment and boundary-deferred settings and actions apply. -/
  | stepBoundary
  /-- BARRIER_DEADLINE (R21). A barrier wait misses its deadline and raises the fault wave. -/
  | barrierDeadline
  /-- BARRIER_FLAG_RECEIVE (R380). A chip takes an up or down barrier or agreement flag and forwards, completes or mismatches it. -/
  | barrierFlagReceive (f : Flag) (waited : Nat)
  /-- COLL_PIECE_RECEIVE (R376). An engine takes a collective piece, matches and checks it, and adds, stores or forwards it. -/
  | collPieceReceive (p : Piece)
  /-- COLL_ENTRY_TRANSFER_START (R241). When a COLL entry's last wait is met its queue begins the transfer. -/
  | collEntryTransferStart (id : Nat)
  /-- COLL_COMPLETE (R378). A collective sends its last piece and receives all its data, and its queue moves on. -/
  | collComplete (id waited : Nat)
  /-- HALT_CELL_RECEIVE (R388). A chip takes a halt cell and halts and forwards it, or drops it. -/
  | haltCellReceive (port : Nat) (c : HaltCell)
  /-- HST_HALT_REQ (R391). Writing 1 halts the chip and raises the wave with CAUSE 0x09. -/
  | hstHaltReq (value : W32)
  /-- ALIAS_REBUILD_FINISH (R104). A background rebuild finishes and swaps at once when no step runs, or waits for the boundary. -/
  | aliasRebuildFinish (shard : Nat)
  /-- ALIAS_REBUILD_FAIL (R102). A rebuild meets an uncorrectable word and stops, leaving the shard failed. -/
  | aliasRebuildFail (shard nodesLeft : Nat)
  /-- DOMAIN_ON_DONE (R17). A ridge-matrix domain switched on for a command is on and the command starts. -/
  | domainOnDone (ridge : Nat)
  /-- MATRIX_DOMAIN_IDLE_OFF (R448). A tree array unused for 10 ms with no plan using it has its domain switched off. -/
  | matrixDomainIdleOff (ridge : Nat)
  /-- CELL_RECEIVE (R347). A port checks an arriving cell, corrects or discards it and requests a replay on error. -/
  | cellReceive (lane : Nat) (seq : Nat) (symbols : List Byte)
  /-- CONTROL_SLOT_RECEIVE (R342). A lane takes a control slot carrying acknowledgement, NAK, credits and narrow or rejoin requests. -/
  | controlSlotReceive (slotLane : Nat) (c : CtlSlot)
  /-- REPLAY_TIMER (R348). The oldest unacknowledged cell reaches 2.048 µs and the sender replays from it. -/
  | replayTimer (port : Nat)
  /-- LANE_LOSS_OF_LOCK (R359). Two missing markers or 1 µs without signal remove a lane and start narrowing. -/
  | laneLossOfLock (lane : Nat)
  /-- WIDTH_SWITCH (R359). At the named frame both ends switch to the new width and pause to restripe. -/
  | widthSwitch (port : Nat)
  /-- RESTRIPE_DONE (R359). After the 5 µs pause both ends replay from the last ACK_SEQ. -/
  | restripeDone (port : Nat)
  /-- LANE_MARGINAL (R360). A 1 s window shows a lane over its error thresholds and it is marked for removal. -/
  | laneMarginal (lane cells corrected uncorrectable : Nat)
  /-- LANE_REJOIN (R361). A removed lane clean for 10 s rejoins its port through REJOIN_REQ. -/
  | laneRejoin (t : LaneTest)
  /-- PACKET_RECEIVE (R354). A chip takes a packet and delivers it, forwards it by route, or discards it. -/
  | packetReceive (port : Nat) (p : Packet)
  /-- ESCAPE_WAIT (R354). An adaptive packet waiting ESCAPE_WAIT for credit sets ESCAPE and takes the lowest path. -/
  | escapeWait (port vc : Nat)
  /-- BATCH_REASSEMBLED (R346). All parts of a batch have arrived and its records are handed to their user. -/
  | batchReassembled (src vc tag : Nat)
  /-- CABLE_PRESENCE_CHANGE (R336). A group's filtered presence changes, starting training or bringing its ports down. -/
  | cablePresenceChange (group : Nat) (present : Bool)
  /-- TRAINING_ATTEMPT (R337). A port runs a training attempt through PLL, adaptation, test pattern and handshake. -/
  | trainingAttempt (port : Nat)
  /-- TRAINING_COMPLETE (R338). Training ends; the port takes its width and rate and enters UP or AUTH. -/
  | trainingComplete (port : Nat) (r : TrainResult)
  /-- TRAINING_DEADLINE (R339). A training attempt reaches 500 ms and fails; retry after 100 ms or FAILED after three. -/
  | trainingDeadline (port : Nat)
  /-- TRAINING_RETRY_TIMER (R339). 100 ms after a failed attempt the next attempt starts. -/
  | trainingRetryTimer (port : Nat)
  /-- AUTH_MESSAGE_RECEIVE (R357). A port in AUTH takes a nonce, signature or chain from its peer and signs or verifies. -/
  | authMessageReceive (port : Nat) (m : AuthMsg)
  /-- AUTH_TIMEOUT (R358). No exchange completes within 100 ms and the port enters AUTH_FAILED or UP unauthenticated. -/
  | authTimeout (port : Nat)
  /-- GATEWAY_ACK (R497). A saving chip takes a gateway acknowledgement and may complete the save. -/
  | gatewayAck (chip tag offset : Nat) (error : Bool)
  /-- GATEWAY_READ_DATA (R497). A restoring chip takes image data from a gateway. -/
  | gatewayReadData (chip tag offset : Nat) (last error : Bool) (data : List Byte)
  /-- PACE_TAG_TICK (R382). Every 10 µs the chip forms its pace tag from the last 100 µs. -/
  | paceTagTick (i : PaceInput)
  /-- ESTIMATOR_TICK (R455). Every 2 µs the estimate is formed and the bubble share set on every ridge. -/
  | estimatorTick (counts : List Activity)
  /-- CALIBRATION_TICK (R451). Every 100 µs rail power is read and the estimator gain updated. -/
  | calibrationTick (amps volts shareWatts : Rat) (ok disturbed : Bool)
  /-- GOVERNOR_TICK (R458). Every 50 µs the governor chooses a target clock and moves towards it. -/
  | governorTick
  /-- RAIL_SETTLED (R459). AVSBus reports the raised set point and the clock is raised. -/
  | railSettled
  /-- DROOP_DETECT (R461). A droop detector fires and the ridge clock stretches to 4/3 of its period. -/
  | droopDetect (ridge : Nat)
  /-- DROOP_STRETCH_END (R461). 64 consecutive cycles above threshold end a stretch. -/
  | droopStretchEnd (ridge : Nat)
  /-- GUARD_WINDOW (R463). A stretch-share window ends and GUARD is raised or lowered. -/
  | guardWindow (long : Bool) (share : Rat)
  /-- JUNCTION_SENSOR_READ (R466). Every 50 µs the junction sensors are read and the thermal limit updated. -/
  | junctionSensorRead (readings : List (Option Rat))
  /-- THERMAL_TRIP (R467). A comparator detects 115 °C and starts the trip sequence. -/
  | thermalTrip (sensor : Nat) (temp : Byte)
  /-- TRIP_POWER_OFF (R467). 10 µs after the trip THERM_TRIP_N falls and the domains switch off. -/
  | tripPowerOff
  /-- RAIL_FAULT (R488). A core or SRAM rail out of ±5 % for 100 µs raises the fault wave. -/
  | railFault
  /-- REFCLK_LOSS (R488). Loss of a reference clock raises the fault wave. -/
  | refclkLoss
  /-- STEWARD_HEARTBEAT_TIMEOUT (R488). A steward silent for 1 ms raises the fault wave. -/
  | stewardHeartbeatTimeout
  /-- MEM_TEMP_READ (R408). Every 1 ms a port reads its device temperatures and adjusts refresh. -/
  | memTempRead (port : Nat) (reading : Option Rat)
  /-- MEM_TIMING_SAMPLE (R401). Every 1 ms a port samples its read margin and schedules or starts a retrain. -/
  | memTimingSample (port : Nat) (margin : Rat)
  /-- MEM_PORT_RETRAIN_DONE (R401). A 50 µs port retrain ends and waiting accesses resume. -/
  | memPortRetrainDone (port : Nat) (ok : Bool) (margin : Rat)
  /-- MEM_WRITE_BATCH_SEND (R404). A channel sends its held writes when 64 wait, the oldest is 2 µs old, or a read needs one. -/
  | memWriteBatchSend (channel : Nat)
  /-- ADD_BUFFER_EVICT (R416). A sector held 2 µs or evicted leaves the add buffer. -/
  | addBufferEvict (port sector : Nat)
  /-- MEMORY_SIDE_ADD (R415). A port takes an add request and adds it atomically into its sector. -/
  | memorySideAdd (id : Nat) (r : AddReq)
  /-- SLICE_ATOMIC (R430). A cache slice performs an atomic in arrival order and returns the old value. -/
  | sliceAtomic (id : Nat) (r : AtomReq)
  /-- ROW_REMAP (R411). A chosen row is copied to its nearest free spare and accesses released to it. -/
  | rowRemap (port : Nat)
  /-- REMAP_FLASH_WRITE (R413). The management core writes a remap to the row-remap record. -/
  | remapFlashWrite
  /-- GDDR_SCRUB (R414). Patrol scrubbing reads and repairs a GDDR-7 row on schedule. -/
  | gddrScrub (port channel row : Nat)
  /-- SCRATCH_PATROL (R473). Patrol scrubbing reads and repairs a scratch word, poisoning uncorrectables and flagging banks. -/
  | scratchPatrol (ridge word : Nat)
  /-- CACHE_PATROL (R473). Patrol scrubbing reads and repairs a cache word. -/
  | cachePatrol (slice word : Nat)
  /-- QUARANTINE_COPY_DONE (R474). The stand-in copy of a quarantined bank completes and the waiting step begin proceeds. -/
  | quarantineCopyDone
  /-- SELF_TEST_DONE (R479). A self-test ends, writes its reply and applies the consequence of each failure. -/
  | selfTestDone (id : Nat) (failures : List TestFailure)
  /-- IMAGE_WRITE_DONE (R533). A background image programming reads back and writes a trial descriptor or fails. -/
  | imageWriteDone (ok : Bool)
  /-- FLASH_SECTOR_ERASE_DONE (R518). The erase of the sector after the cairn head completes and a waiting record is written. -/
  | flashSectorEraseDone
  /-- HST_TELEM_TAIL (R481). A TAIL write frees ring space consumed by the job runtime. -/
  | hstTelemTail (value : W32)
  /-- IIQ_WRITE (R442). A writing side puts a word into an inter-island queue, held back while FULL. -/
  | iiqWrite (queue : Nat) (data : List Byte) (sop eop : Bool)
  /-- IIQ_READ (R443). A reading side takes a word, or gets VALID 0 at once while EMPTY, and decodes it. -/
  | iiqRead (queue : Nat)
  /-- IIQ_FLUSH (R444). A flush discards whole packets between the sides' packet boundaries and returns their count. -/
  | iiqFlush (queue : Nat)
  /-- WINDOW_READ (R557). A BAR2 memory-window read returns device memory or an error pattern. -/
  | windowRead (offset length : Nat)
  /-- WINDOW_WRITE (R557). A BAR2 memory-window write stores whole or merged words. -/
  | windowWrite (offset : Nat) (data : List Byte)
  /-- HST_RESET (R555). A keyed write gives a warm reset; an unkeyed write sets RESET_KEY. -/
  | hstReset (value : W32)
  /-- SERVICE_LOCATE_WRITE (R555). A write to HST_SERVICE LOCATE sets the locate indication. -/
  | serviceLocateWrite (locate : Bool)
  /-- PARK_CANCEL (R568). Writing 1 to PARK cancels a pending or active park. -/
  | parkCancel
  /-- MAILBOX_GO (R558). GO takes the packet in the mailbox request buffer, or sets MBOX_OVERRUN. -/
  | mailboxGo (value : W32)
  /-- MAILBOX_DONE (R558). A mailbox command finishes, its reply is written, BUSY clears and DONE sets. -/
  | mailboxDone (id runTime : Nat)
  /-- RC_READ (R7). A read of a read-to-clear register returns and clears its field. -/
  | rcRead (offset length : Nat)
  /-- REGISTER_WRITE (R7). A write to a register without a row of its own updates RW fields or clears W1C bits. -/
  | registerWrite (offset : Nat) (data : List Byte)
  /-- CONFIG_REQUEST (R552). A PCIe configuration request is completed, or retried before HOST has ended OK. -/
  | configRequest (r : CfgReq)
  /-- D3HOT_ENTRY (R551). Entering D3hot stops BAR access while the chip runs on. -/
  | d3hotEntry
  /-- D0_RETURN (R551). Returning to D0 restores BAR access with every register unchanged. -/
  | d0Return
  /-- MGT_ID (R562). Management read of identity. -/
  | mgtId
  /-- MGT_BOOT (R562). Management read of boot status and detail. -/
  | mgtBoot
  /-- MGT_TEMP (R562). Management read of temperatures. -/
  | mgtTemp
  /-- MGT_POWER (R562). Management read of power. -/
  | mgtPower
  /-- MGT_BOARD_CAP (R563). Management write of the board cap. -/
  | mgtBoardCap (write : Bool) (value : W16) (pecOk : Bool)
  /-- MGT_ESTOP (R563). Management emergency stop raising the fault wave with CAUSE 0x13. -/
  | mgtEstop (value : W16) (pecOk : Bool)
  /-- MGT_RESET (R562). Keyed management warm reset. -/
  | mgtReset (value : W16) (pecOk : Bool)
  /-- MGT_LOCATE (R562). Management write of the locate indication. -/
  | mgtLocate (write : Bool) (value : Byte) (pecOk : Bool)
  /-- MGT_ATTN (R562). Management W1C of ATTENTION and PARK, cancelling a park. -/
  | mgtAttn (write : Bool) (value : Byte) (pecOk : Bool)
  /-- MGT_ATTN_MASK (R564). Management write of the alert mask. -/
  | mgtAttnMask (write : Bool) (value : Byte) (pecOk : Bool)
  /-- MGT_BOOT_CLEAR (R563). Management form of CFG.BOOT_CLEAR. -/
  | mgtBootClear (data : List Byte) (pecOk : Bool)
  /-- MGT_STAEZ_DATA (R562). Writes 16 bytes into the Staez staging buffer. -/
  | mgtStaezData (unit : Byte) (data : List Byte) (pecOk : Bool)
  /-- MGT_STAEZ_COMMIT (R563). Runs CFG.STAEZ_WRITE on the staging buffer, or refuses while one is writing. -/
  | mgtStaezCommit (value : Byte) (pecOk : Bool)
  /-- MGT_STAEZ_STATUS (R562). Management read of the staging commit state. -/
  | mgtStaezStatus
  /-- MGT_CAIRN_LAST (R562). Reads the newest STEP_END record's first half and latches its second half. -/
  | mgtCairnLast
  /-- MGT_CAIRN_LAST_HI (R562). Reads the latched second half of the STEP_END record. -/
  | mgtCairnLastHi
  /-- MGT_ALERT_RELEASE (R564). 10 µs after the last unmasked attention bit clears, MGT_ALERT_N is released. -/
  | mgtAlertRelease
  /-- BUTTON_PRESS (R567). A filtered press of the service button is dated. -/
  | buttonPress
  /-- BUTTON_RELEASE (R567). A filtered release within 5 s of its press toggles LOCATE. -/
  | buttonRelease (heldMs : Nat)
  /-- BUTTON_HOLD (R567). A press held 5 s sets ATTENTION and PARK. -/
  | buttonHold
  /-- LED_SHIFT (R570). Every 10 ms the link LED bits are shifted out and latched. -/
  | ledShift
  /-- POWER_ON_RESET (R578). PWRON_RST_N low resets the chip, clearing everything but fuses and flash. -/
  | powerOnReset
  /-- PCIE_RESET (R578). PERST_N, a hot reset or a link-down resets the chip. -/
  | pcieReset
  /-- RESET_RELEASE (R501). Reset ends and a start begins with a BOOT record and step 1. -/
  | resetRelease
  /-- BOOT_STEP_START (R507). A boot step begins on the path its failure count selects, or the chip enters safe state. -/
  | bootStepStart (elapsed : Nat)
  /-- BOOT_STEP_END (R506). A boot step ends and its outcome updates the failure count and sticky marks. -/
  | bootStepEnd (r : BootResult) (elapsed : Nat)
  /-- BOOT_STEP_TIMEOUT (R503). A boot step's deadline passes and the step ends TIMEOUT. -/
  | bootStepTimeout (elapsed : Nat)
  /-- BOOT_POLICY_RESET (R503). 10 ms after a failed step an internal reset is asserted. -/
  | bootPolicyReset
  /-- BOOT_WATCHDOG (R503). A step running 2 s past its deadline without an end record resets the chip. -/
  | bootWatchdog
  /-- CORE_FAULT (R386). A fault of a dispatch core or management core raises the fault wave with CAUSE 0x0B. -/
  | coreFault
  /-- IIQ_POINTER_SYNC (R442). A Gray-coded pointer reaches the other side of an inter-island queue through its synchronisers, clearing FULL or EMPTY two or three edges after the change. -/
  | iiqPointerSync (queue : Nat) (toWriter : Bool)
  /-- DROOP_CLEARED (R468). Droop has stayed clear for 1 µs on every ridge, and a clock raise that was waiting for it proceeds. -/
  | droopCleared
  /-- SMBUS_CLOCK_TIMEOUT (R561). The management target releases the bus after MGT_SCL has been held low for 35 ms. -/
  | smbusClockTimeout
  /-- MGT_STAEZ_WRITE_DONE (R563). The Staez write started by MGT_STAEZ_COMMIT finishes, and MGT_STAEZ_STATUS leaves writing for done. -/
  | mgtStaezWriteDone
  /-- SUBSCRIPTION_REFUSED (R299). A chip receives an owner's refusal of its subscription and does not ask again for 64 steps. -/
  | subscriptionRefused (src table key : Nat)
  /-- UNSUBSCRIBE (R299). An owner receives an unsubscription for a dropped replica and stops refreshing that subscriber. -/
  | unsubscribe (src table key : Nat)
  deriving DecidableEq, Repr

end Sys2Proof
end

