-- ==== Sys2Proof/Config.lean ====
section
/-! DEFINITION. What one part or one build fixes and the manual leaves open: constants without a body, so that no proof can see their values. Each is named in the
assumption log. A constant that takes a Nat first is applied to the free-value counter of the state where a fresh value is needed. -/
namespace Sys2Proof

/-- A 32-bit value of which the manual says nothing (contents called undefined, R265, R271, R378): word n of the draw with the given counter. -/
opaque Config.freeWord : Nat → Nat → W32

/-- A sum of squares G, U or W (0 to 2) of a layer tag over the chips of a job (R196): the other chips' parts are not in one chip's state. The Nat is the free-value counter. -/
opaque Config.peerSum : Nat → Nat → Nat → F32

/-- The rank in arrival order of contribution n among those that meet at one place (R126, R291, R372). -/
opaque Config.arrivalKey : Nat → Nat → Nat

/-- Coefficient 0 to 7 of a segment of a built-in pair 0 to 7, or of the internal cosine as pair 16 (R209, R213, R223): the images are fixed, but not given. -/
opaque Config.builtinCoef : Nat → Nat → Nat → F32

/-- f or f′ of a MODE 1 pair at x where x × C lies beyond FP32 (R210): the manual states no reduction there. -/
opaque Config.beyondRange : F32 → F32 → Bool → F32

/-- PROTO of the record kinds that travel on virtual channels 1 to 4, 6 and 7 and for which the manual gives none (R344), by the number that `Sent.posts` has for the kind. -/
opaque Config.protoOf : Nat → W16

/-- The bytes of a record of those kinds whose layout the manual does not give (R299, R301, R304, R357, R196), from its fields. -/
opaque Config.openRecord : Nat → List Nat → List Byte

/-- ALIAS_POS and THRESHOLD that a rebuild writes for an entry of a list with the given weights (R102): the manual fixes no construction. -/
opaque Config.aliasPos : List F32 → Nat → Nat
opaque Config.aliasThreshold : List F32 → Nat → W32

/-- The column in row 0 to 3 of the hot-row sketch that a row of a table counts in (R298); taken modulo 16,384 where it is used. -/
opaque Config.sketchColumn : Nat → Nat → Nat → Nat

/-- ML-DSA-44 (FIPS 204, R527): the public key of a seed, a hedged signature by a seed (with a fresh draw), and the verification of a signature. -/
opaque Config.mldsaPublic : List Byte → List Byte
opaque Config.mldsaSign : Nat → List Byte → List Byte → List Byte
opaque Config.mldsaVerify : List Byte → List Byte → List Byte → Bool

/-- The subject key of an X.509 certificate, and whether a key signs it (R529, R530). -/
opaque Config.x509Key : List Byte → List Byte
opaque Config.x509SignedBy : List Byte → List Byte → Bool

/-- A fresh 32-byte random nonce (R357, R539), byte n of the draw with the given counter. -/
opaque Config.nonceByte : Nat → Nat → Byte

/-- The boot ROM version word, measured into slot 0 (R536). -/
opaque Config.romVersion : W32

/-- The fused weight in joules per event of an activity counter of an island (R450). -/
opaque Config.eventWeight : Nat → Nat → Rat

/-- The leakage of a power domain at a sensor temperature and a rail voltage (R450), in watts. -/
opaque Config.leakage : Nat → Rat → Rat → Rat

/-- Whether a counter of an island draws on VDD_CORE or VDD_SRAM, so that the gain of R451 multiplies it. -/
opaque Config.onCoreRails : Nat → Nat → Bool

/-- The count of an activity counter at full demand over 2 µs (R464). -/
opaque Config.fullCount : Nat → Nat → Nat

/-- The part's fused core-rail offset in millivolts (R457), held to its range of -25 to +25 where it is used. -/
opaque Config.railOffset : Rat

/-- The Vendor ID assigned to Polotte (R550). -/
opaque Config.vendorId : W16

end Sys2Proof
end

