-- ==== Sys2Proof/Machine/Bytes.lean ====
section
/-! DEFINITION. Bytes and bit fields: little-endian fields of packets and records (R5), CRC-32, sparse byte storage in canonical form, and small list helpers. -/
namespace Sys2Proof.Machine

/-- The number that little-endian bytes spell (R5). -/
def leNat : List Byte → Nat
  | [] => 0
  | b :: bs => b.toNat + 256 * leNat bs

/-- The field of n bytes at an offset of a packet, a record or an image; bytes beyond the end read as 0. -/
def field (bs : List Byte) (off n : Nat) : Nat := leNat ((bs.drop off).take n)

/-- n little-endian bytes of a number, its higher bits dropped. -/
def toLE : Nat → Nat → List Byte
  | 0, _ => []
  | n + 1, v => BitVec.ofNat 8 v :: toLE n (v / 256)

/-- Bits [hi:lo] of a number. -/
def bits (v hi lo : Nat) : Nat := v / 2 ^ lo % 2 ^ (hi + 1 - lo)

/-- Bit i of a number. -/
def bitAt (v i : Nat) : Bool := v.testBit i

/-- 1 for true, 0 for false. -/
def bnat (b : Bool) : Nat := if b then 1 else 0

/-- n zero bytes. -/
def zeros (n : Nat) : List Byte := List.replicate n 0

/-- The list cut or filled with zero bytes to a length. -/
def padTo (n : Nat) (bs : List Byte) : List Byte := bs.take n ++ zeros (n - bs.length)

/-- The list with the bytes at an offset replaced. -/
def splice (bs : List Byte) (off : Nat) (new : List Byte) : List Byte :=
  bs.take off ++ new ++ bs.drop (off + new.length)

/-- Whether every byte of a span is 0. -/
def allZero (bs : List Byte) (off n : Nat) : Bool := ((bs.drop off).take n).all (· == 0)

/-- The bit numbers below n that are set in a mask, ascending. -/
def bitsSet (mask n : Nat) : List Nat := (List.range n).filter (mask.testBit ·)

/-- The mask in which the listed bits are set. -/
def maskOf (ls : List Nat) : Nat := ls.foldl (fun m i => m ||| 2 ^ i) 0

/-- Round up to a multiple. -/
def roundUp (n m : Nat) : Nat := (n + m - 1) / m * m

/-- The quotient rounded up. -/
def ceilDiv (n m : Nat) : Nat := (n + m - 1) / m

/-- The least e with n ≤ 2^e. -/
def log2Up (n : Nat) : Nat := ((List.range 65).find? (fun e => n ≤ 2 ^ e)).getD 64

/-- One step of CRC-32 on one bit (IEEE 802.3 polynomial, reflected). -/
def crcBit (c : Nat) : Nat := if c % 2 = 1 then (c / 2) ^^^ 0xEDB88320 else c / 2

/-- CRC-32 after one more byte. -/
def crcByte (c : Nat) (b : Byte) : Nat :=
  crcBit (crcBit (crcBit (crcBit (crcBit (crcBit (crcBit (crcBit (c ^^^ b.toNat))))))))

/-- CRC-32 with the IEEE 802.3 polynomial (R55, R504). -/
def crc32 (bs : List Byte) : Nat := bs.foldl crcByte 0xFFFFFFFF ^^^ 0xFFFFFFFF

/-! ### Sparse byte storage -/

/-- The byte at an address of a cell list; an unlisted address reads as 0. -/
def cellGet : List Host.Cell → Nat → Byte
  | [], _ => 0
  | (k, b) :: cs, a => if k = a then b else cellGet cs a

/-- The bytes of a run of addresses. -/
def cellRead (cs : List Host.Cell) (a n : Nat) : List Byte :=
  let sub := cs.filter (fun c => decide (a ≤ c.1) && decide (c.1 < a + n))
  (List.range n).map (fun i => cellGet sub (a + i))

/-- The cells that a run of bytes occupies from an address on: those that are not 0. -/
def cellsOf : Nat → List Byte → List Host.Cell
  | _, [] => []
  | a, b :: bs => if b = 0 then cellsOf (a + 1) bs else (a, b) :: cellsOf (a + 1) bs

/-- The cell list with a run of bytes written. -/
def cellWrite (cs : List Host.Cell) (a : Nat) (bs : List Byte) : List Host.Cell :=
  cs.filter (fun c => decide (c.1 < a)) ++ cellsOf a bs ++ cs.filter (fun c => decide (a + bs.length ≤ c.1))

/-- The cell list without the cells of a run of addresses: those bytes read as 0. -/
def cellErase (cs : List Host.Cell) (a n : Nat) : List Host.Cell :=
  cs.filter (fun c => decide (c.1 < a)) ++ cs.filter (fun c => decide (a + n ≤ c.1))

/-- The canonical form: addresses strictly rising, and no cell equal to what an unlisted address reads as. -/
def cellsWf : List Host.Cell → Bool
  | [] => true
  | [(_, b)] => decide (b ≠ 0)
  | (k, b) :: (k', b') :: cs => decide (b ≠ 0) && decide (k < k') && cellsWf ((k', b') :: cs)

/-! ### Lists keyed by a number -/

/-- The list with every element that passes the test replaced. -/
def mapWhere {α : Type} (p : α → Bool) (f : α → α) (xs : List α) : List α :=
  xs.map (fun x => if p x then f x else x)

/-- The value kept under a key, with a default. -/
def assocGet {α β : Type} [BEq α] (xs : List (α × β)) (k : α) (d : β) : β :=
  ((xs.find? (fun e => e.1 == k)).map (·.2)).getD d

/-- The list with the value under a key set. -/
def assocSet {α β : Type} [BEq α] (xs : List (α × β)) (k : α) (v : β) : List (α × β) :=
  if xs.any (fun e => e.1 == k) then xs.map (fun e => if e.1 == k then (e.1, v) else e) else xs ++ [(k, v)]

/-- The element at a place, or the default. -/
def nth {α : Type} (xs : List α) (i : Nat) (d : α) : α := xs.getD i d

/-- The list with the element at a place replaced. -/
def setNth {α : Type} (xs : List α) (i : Nat) (x : α) : List α := xs.set i x

/-- The list cut into runs of n (the last may be shorter); fuel bounds the number of runs. -/
def chunksFuel {α : Type} : Nat → Nat → List α → List (List α)
  | 0, _, _ => []
  | f + 1, n, xs => if xs.isEmpty then [] else xs.take n :: chunksFuel f n (xs.drop n)

/-- The list cut into runs of n. -/
def chunks {α : Type} (n : Nat) (xs : List α) : List (List α) := chunksFuel (xs.length + 1) (max n 1) xs

/-- Insertion into a list sorted by a key, after equal keys. -/
def insertBy {α : Type} (le : α → α → Bool) (x : α) : List α → List α
  | [] => [x]
  | y :: ys => if le y x then y :: insertBy le x ys else x :: y :: ys

/-- Stable sort: equal elements keep their order. -/
def sortBy {α : Type} (le : α → α → Bool) (xs : List α) : List α := xs.foldl (fun acc x => insertBy le x acc) []

/-- Addition that stops at the largest 32-bit value (saturating counters). -/
def satAdd32 (c : W32) (n : Nat) : W32 := BitVec.ofNat 32 (min (c.toNat + n) 0xFFFFFFFF)

/-- Addition that stops at the largest 16-bit value. -/
def satAdd16 (c : W16) (n : Nat) : W16 := BitVec.ofNat 16 (min (c.toNat + n) 0xFFFF)

/-- The rational rounded towards zero and held to a range of whole numbers. -/
def ratClamp (q : Rat) (lo hi : Nat) : Nat := if q < 0 then lo else min (max q.floor.toNat lo) hi

end Sys2Proof.Machine
end

