-- ==== Sys2Proof/Machine/Fp.lean ====
section
/-! DEFINITION. FP32 arithmetic (R170, R180): exact on whole numbers, then rounded once to nearest even. Subnormals are kept, every NaN result is 0x7FC0_0000, and each result that is
an infinity or a NaN formed from finite inputs is counted. -/
namespace Sys2Proof.Machine

/-- The quiet NaN of every arithmetic result (R180). -/
def qNaN : F32 := 0x7FC00000

/-- A value of an IEEE format: a NaN, an infinity, or a sign with an exact magnitude m × 2^e. -/
inductive Fp where
  | nan
  | inf (neg : Bool)
  | fin (neg : Bool) (m : Nat) (e : Int)
  deriving DecidableEq, Repr

/-- The value that sign, exponent field and mantissa field spell in an IEEE format with eb exponent and mb mantissa bits (R170). -/
def fpDecode (eb mb v : Nat) : Fp :=
  let man := v % 2 ^ mb
  let ex := v / 2 ^ mb % 2 ^ eb
  let neg := bitAt v (eb + mb)
  let bias : Int := 2 ^ (eb - 1) - 1
  if ex = 2 ^ eb - 1 then (if man = 0 then .inf neg else .nan)
  else if ex = 0 then .fin neg man (1 - bias - mb)
  else .fin neg (2 ^ mb + man) (ex - bias - mb)

/-- The FP32 value of a word. -/
def f32Decode (a : F32) : Fp := fpDecode 8 23 a.toNat

/-- How a magnitude between two neighbours rounds: to nearest even, or up when the given random number is below the fraction (R221). -/
inductive Rounding where
  | nearest
  | stochastic (random width : Nat)
  deriving DecidableEq, Repr

/-- Magnitude m × 2^e rounded to k × 2^q, where q is the unit in the last place of a format with mb mantissa bits and least normal exponent emin. sticky says that the exact magnitude is
a little above m × 2^e. Answers (k, q, whether it was exact). -/
def roundMag (mb : Nat) (emin : Int) (rm : Rounding) (m : Nat) (e : Int) (sticky : Bool) : Nat × Int × Bool :=
  if m = 0 then (0, emin - mb, !sticky) else
  let q : Int := max (e + Nat.log2 m - mb) (emin - mb)
  if q ≤ e then (m * 2 ^ (e - q).toNat, q, !sticky)
  else
    let d := (q - e).toNat
    let k := m / 2 ^ d
    let r := m % 2 ^ d
    let up := match rm with
      | .nearest => decide (2 * r > 2 ^ d) || (decide (2 * r = 2 ^ d) && (sticky || k % 2 = 1))
      | .stochastic x w => decide (x < r * 2 ^ w / 2 ^ d)
    (if up then k + 1 else k, q, decide (r = 0) && !sticky)

/-- The bits of sign and magnitude k × 2^q in an IEEE format; a magnitude beyond the range becomes an infinity. -/
def fpEncode (eb mb : Nat) (neg : Bool) (k : Nat) (q : Int) : Nat :=
  let qmin : Int := 2 - 2 ^ (eb - 1) - mb
  let enc := (q - qmin).toNat * 2 ^ mb + k
  let top := (2 ^ eb - 1) * 2 ^ mb
  (if k = 0 then 0 else min enc top) + bnat neg * 2 ^ (eb + mb)

/-- The word of sign and exact magnitude, rounded once to nearest even at mb mantissa bits: 23 of FP32, 7 of BF16 (R205). -/
def atRound (mb : Nat) (neg : Bool) (m : Nat) (e : Int) (sticky : Bool) : F32 :=
  let r := roundMag mb (-126) .nearest m e sticky
  BitVec.ofNat 32 (fpEncode 8 mb neg r.1 r.2.1 * 2 ^ (23 - mb))

/-- The word of sign and exact magnitude, rounded to FP32. -/
def f32Round (neg : Bool) (m : Nat) (e : Int) (sticky : Bool) : F32 := atRound 23 neg m e sticky

/-- An FP32 zero, infinity. -/
def f32Zero (neg : Bool) : F32 := if neg then 0x80000000 else 0
def f32Inf (neg : Bool) : F32 := if neg then 0xFF800000 else 0x7F800000

/-- A finite word (neither an infinity nor a NaN). -/
def f32Finite (a : F32) : Bool := decide (a.toNat / 2 ^ 23 % 256 ≠ 255)

/-- A NaN word. -/
def f32IsNan (a : F32) : Bool := decide (a.toNat / 2 ^ 23 % 256 = 255) && decide (a.toNat % 2 ^ 23 ≠ 0)

/-- Either zero. -/
def f32IsZero (a : F32) : Bool := decide (a.toNat % 2 ^ 31 = 0)

/-- The sign bit. -/
def f32Neg (a : F32) : Bool := bitAt a.toNat 31

/-- Change of sign and magnitude: moves that compute nothing. -/
def f32Opp (a : F32) : F32 := a ^^^ 0x80000000
def f32Abs (a : F32) : F32 := a &&& 0x7FFFFFFF

/-- The word of an exact signed sum i × 2^e; a zero sum of operands with the given signs is +0 unless both are negative. -/
def atOfInt (mb : Nat) (i : Int) (e : Int) (na nb : Bool) : F32 :=
  if i = 0 then f32Zero (na && nb) else atRound mb (decide (i < 0)) i.natAbs e false
def f32OfInt (i : Int) (e : Int) (na nb : Bool) : F32 := atOfInt 23 i e na nb

/-- A signed magnitude as an integer at a lower exponent. -/
def scaled (neg : Bool) (m : Nat) (e lo : Int) : Int :=
  let v : Int := m * 2 ^ (e - lo).toNat
  if neg then -v else v

/-! Arithmetic on words, its result rounded once at w mantissa bits. -/

/-- a + b. -/
def atAdd (w : Nat) (a b : F32) : F32 :=
  match f32Decode a, f32Decode b with
  | .nan, _ => qNaN
  | _, .nan => qNaN
  | .inf x, .inf y => if x = y then f32Inf x else qNaN
  | .inf x, .fin _ _ _ => f32Inf x
  | .fin _ _ _, .inf y => f32Inf y
  | .fin na ma ea, .fin nb mb eb =>
    let lo := min ea eb
    atOfInt w (scaled na ma ea lo + scaled nb mb eb lo) lo na nb

/-- a − b. -/
def atSub (w : Nat) (a b : F32) : F32 := if f32IsNan b then qNaN else atAdd w a (f32Opp b)

/-- a × b. -/
def atMul (w : Nat) (a b : F32) : F32 :=
  match f32Decode a, f32Decode b with
  | .nan, _ => qNaN
  | _, .nan => qNaN
  | .inf x, .inf y => f32Inf (x != y)
  | .inf x, .fin y m _ => if m = 0 then qNaN else f32Inf (x != y)
  | .fin x m _, .inf y => if m = 0 then qNaN else f32Inf (x != y)
  | .fin na ma ea, .fin nb mb eb =>
    if ma * mb = 0 then f32Zero (na != nb) else atRound w (na != nb) (ma * mb) (ea + eb) false

/-- a × b + c, rounded once. -/
def atFma (w : Nat) (a b c : F32) : F32 :=
  match f32Decode a, f32Decode b, f32Decode c with
  | .nan, _, _ => qNaN
  | _, .nan, _ => qNaN
  | _, _, .nan => qNaN
  | .fin na ma ea, .fin nb mb eb, .fin nc mc ec =>
    let np := na != nb
    let lo := min (ea + eb) ec
    atOfInt w (scaled np (ma * mb) (ea + eb) lo + scaled nc mc ec lo) lo np nc
  | .fin _ _ _, .fin _ _ _, .inf z => f32Inf z
  | _, _, _ => atAdd w (atMul w a b) c

/-- a ÷ b. -/
def atDiv (w : Nat) (a b : F32) : F32 :=
  match f32Decode a, f32Decode b with
  | .nan, _ => qNaN
  | _, .nan => qNaN
  | .inf _, .inf _ => qNaN
  | .inf x, .fin y _ _ => f32Inf (x != y)
  | .fin x _ _, .inf y => f32Zero (x != y)
  | .fin na ma ea, .fin nb mb eb =>
    if mb = 0 then (if ma = 0 then qNaN else f32Inf (na != nb))
    else if ma = 0 then f32Zero (na != nb)
    else
      let q := ma * 2 ^ 64 / mb
      let r := ma * 2 ^ 64 % mb
      atRound w (na != nb) q (ea - eb - 64) (decide (r ≠ 0))

/-- The whole part of a square root, bit by bit from bit n − 1 down. -/
def isqrtBits : Nat → Nat → Nat → Nat
  | 0, _, acc => acc
  | n + 1, v, acc => let t := acc + 2 ^ n; isqrtBits n v (if t * t ≤ v then t else acc)

/-- The square root; of a negative number other than −0 it is NaN. -/
def atSqrt (w : Nat) (a : F32) : F32 :=
  match f32Decode a with
  | .nan => qNaN
  | .inf x => if x then qNaN else f32Inf false
  | .fin n m e =>
    if m = 0 then f32Zero n
    else if n then qNaN
    else
      let odd := e % 2
      let v := m * 2 ^ (60 + odd.toNat)
      let r := isqrtBits 48 v 0
      atRound w false r ((e - odd - 60) / 2) (decide (r * r ≠ v))

/-- FP32 arithmetic. -/
def f32Add (a b : F32) : F32 := atAdd 23 a b
def f32Sub (a b : F32) : F32 := atSub 23 a b
def f32Mul (a b : F32) : F32 := atMul 23 a b
def f32Fma (a b c : F32) : F32 := atFma 23 a b c
def f32Div (a b : F32) : F32 := atDiv 23 a b
def f32Sqrt (a : F32) : F32 := atSqrt 23 a

/-- The key by which finite and infinite words order: −0 and +0 are equal. -/
def f32Key (a : F32) : Int :=
  let m : Int := (a.toNat % 2 ^ 31 : Nat)
  if f32Neg a then -m else m

/-- a < b, false with a NaN. -/
def f32Lt (a b : F32) : Bool := !f32IsNan a && !f32IsNan b && decide (f32Key a < f32Key b)
def f32Le (a b : F32) : Bool := !f32IsNan a && !f32IsNan b && decide (f32Key a ≤ f32Key b)

/-- The larger and the smaller of two values; a NaN operand gives the quiet NaN (R180), and +0 counts as larger than −0 (IEEE 754 minimum and maximum, R205). -/
def f32Max (a b : F32) : F32 :=
  if f32IsNan a || f32IsNan b then qNaN
  else if f32Key a < f32Key b then b
  else if f32Key a = f32Key b then (if f32Neg a then b else a) else a
def f32Min (a b : F32) : F32 :=
  if f32IsNan a || f32IsNan b then qNaN
  else if f32Key b < f32Key a then b
  else if f32Key a = f32Key b then (if f32Neg a then a else b) else a

/-- The FP32 value nearest to a natural number, an integer and m × 2^e. -/
def f32OfNat (n : Nat) : F32 := if n = 0 then 0 else f32Round false n 0 false
def f32OfSigned (i : Int) : F32 := f32OfInt i 0 false false
def f32Pow2 (e : Int) : F32 := f32Round false 1 e false

/-- The exact rational value of a finite word (0 for a non-finite one). -/
def f32ToRat (a : F32) : Rat :=
  match f32Decode a with
  | .fin n m e =>
    let v : Rat := if 0 ≤ e then ((m * 2 ^ e.toNat : Nat) : Rat) else (m : Rat) / ((2 ^ (-e).toNat : Nat) : Rat)
    if n then -v else v
  | _ => 0

/-- floor(log2 |a|) of a finite non-zero word. -/
def f32Log2 (a : F32) : Int :=
  match f32Decode a with
  | .fin _ m e => e + Nat.log2 m
  | _ => 0

/-- The whole number nearest to a finite word, ties to even; 0 for a non-finite one. -/
def f32RoundInt (a : F32) : Int :=
  match f32Decode a with
  | .fin n m e =>
    let k : Nat := if 0 ≤ e then m * 2 ^ e.toNat else
      let d := (-e).toNat
      let k := m / 2 ^ d
      let r := m % 2 ^ d
      if 2 * r > 2 ^ d || (2 * r = 2 ^ d && k % 2 = 1) then k + 1 else k
    if n then -(k : Int) else k
  | _ => 0

/-- floor of a finite word. -/
def f32Floor (a : F32) : Int := (f32ToRat a).floor

/-! ### Counted arithmetic -/

/-- A computation that counts the FP32 results which are an infinity or a NaN formed from finite inputs (R180). -/
abbrev FpM := StateM Nat

/-- The result of an operation, counted against its inputs. -/
def counted (r : F32) (ins : List F32) : FpM F32 := fun n => (r, if !f32Finite r && ins.all f32Finite then n + 1 else n)

/-- Counted operations. -/
def addF (a b : F32) : FpM F32 := counted (f32Add a b) [a, b]
def subF (a b : F32) : FpM F32 := counted (f32Sub a b) [a, b]
def mulF (a b : F32) : FpM F32 := counted (f32Mul a b) [a, b]
def fmaF (a b c : F32) : FpM F32 := counted (f32Fma a b c) [a, b, c]
def divF (a b : F32) : FpM F32 := counted (f32Div a b) [a, b]
def sqrtF (a : F32) : FpM F32 := counted (f32Sqrt a) [a]
def maxF (a b : F32) : FpM F32 := counted (f32Max a b) [a, b]
def minF (a b : F32) : FpM F32 := counted (f32Min a b) [a, b]

/-- One level of a pairwise sum: neighbours are added, an odd last one moves up. -/
def pairLevel (op : F32 → F32 → FpM F32) : List F32 → FpM (List F32)
  | [] => pure []
  | [x] => pure [x]
  | x :: y :: xs => do
    let z ← op x y
    let zs ← pairLevel op xs
    pure (z :: zs)

/-- Pairwise fold level by level; fuel bounds the levels. -/
def pairFold (op : F32 → F32 → FpM F32) : Nat → List F32 → FpM (List F32)
  | 0, xs => pure xs
  | f + 1, xs => if xs.length ≤ 1 then pure xs else do
    let ys ← pairLevel op xs
    pairFold op f ys

/-- The pairwise sum of a list (0 of an empty one). -/
def pairSum (xs : List F32) : FpM F32 := do
  let r ← pairFold addF 64 xs
  pure (r.headD 0)

/-- The pairwise maximum of a list (0 of an empty one). -/
def pairMax (xs : List F32) : FpM F32 := do
  let r ← pairFold maxF 64 xs
  pure (r.headD 0)

/-- The pairwise minimum of a list (0 of an empty one). -/
def pairMin (xs : List F32) : FpM F32 := do
  let r ← pairFold minF 64 xs
  pure (r.headD 0)

end Sys2Proof.Machine
end

