-- ==== Sys2Proof/Machine/FuncPairs.lean ====
section
/-! DEFINITION. Function table pairs: the image (R209), its evaluation (R210), its checks (R211) and the built-in pairs (R213). The coefficients of built-in images are constants that the manual
does not give. -/
namespace Sys2Proof.Machine

/-- A pair as its image gives it. coef gives coefficient k (0 to 3 of f, 4 to 7 of f′) of a segment. -/
structure FPair where
  mode : Nat
  left : Nat
  right : Nat
  lo : F32
  hi : F32
  c : F32
  leftValue : F32
  leftSlope : F32
  rightValue : F32
  rightSlope : F32
  coef : Nat → Nat → F32

/-- A word of an image. -/
def word32 (bs : List Byte) (off : Nat) : F32 := BitVec.ofNat 32 (field bs off 4)

/-- The pair that an image holds (R209). -/
def pairOfImage (bs : List Byte) : FPair where
  mode := field bs 5 1
  left := field bs 6 1
  right := field bs 7 1
  lo := word32 bs 8
  hi := word32 bs 12
  c := word32 bs 16
  leftValue := word32 bs 20
  leftSlope := word32 bs 24
  rightValue := word32 bs 28
  rightSlope := word32 bs 32
  coef := fun i k => word32 bs (64 + 32 * i + 4 * k)

/-- MODE, LEFT, RIGHT, LO, HI, C, and the edge values and slopes of the built-in pairs 0 to 7 and of the internal cosine, 16 (R213, R223). A field that the manual does not give comes from the
constants beside the coefficients. -/
def builtinPair (id : Nat) : FPair :=
  let open_ (k : Nat) := Config.builtinCoef id 256 k
  let base : FPair := ⟨0, 0, 0, open_ 0, open_ 1, open_ 2, open_ 3, open_ 4, open_ 5, open_ 6, Config.builtinCoef id⟩
  match id with
  | 0 => { base with left := 0, right := 1, lo := 0xC1000000, hi := 0x41000000, leftValue := 0, rightValue := 0x41000000, rightSlope := 0x3F800000 }
  | 1 => { base with left := 0, right := 1, lo := 0xC1A00000, hi := 0x41A00000, leftValue := 0, rightValue := 0x41A00000, rightSlope := 0x3F800000 }
  | 2 => { base with left := 0, right := 0, lo := 0xC1000000, hi := 0x41000000, leftValue := 0xBF800000, rightValue := 0x3F800000 }
  | 3 => { base with left := 2, right := 0, lo := 0xC1800000, hi := 0x41800000, rightValue := 0x3F800000 }
  | 4 => { base with mode := 1, left := 0, right := 0, lo := 0xC2CE8F5C, hi := 0x42B175C3, c := 0x3FB8AA3B, leftValue := 0, rightValue := 0x7F800000 }
  | 5 => { base with mode := 2, c := 0x3F317218 }
  | 6 => { base with mode := 3 }
  | 7 => { base with left := 2, right := 1, lo := 0xC1800000, hi := 0x41800000, rightValue := 0x41800000, rightSlope := 0x3F800000 }
  | _ => { base with lo := 0, hi := 0x3F800000 }

/-- The image of a pair with its CRC (R209). -/
def imageOfPair (p : FPair) : List Byte :=
  let w (v : F32) := toLE 4 v.toNat
  let head := toLE 4 0x52494150 ++ toLE 1 1 ++ toLE 1 p.mode ++ toLE 1 p.left ++ toLE 1 p.right ++ w p.lo ++ w p.hi ++ w p.c
    ++ w p.leftValue ++ w p.leftSlope ++ w p.rightValue ++ w p.rightSlope
  let segs := (List.range 256).flatMap (fun i => (List.range 8).flatMap (fun k => w (p.coef i k)))
  let crc := crc32 (head ++ zeros 4 ++ zeros 24 ++ segs)
  head ++ toLE 4 crc ++ zeros 24 ++ segs

/-- Truncation of a rational number in [0, 1) to FP32 (R210). -/
def f32Trunc (q : Rat) : F32 :=
  let m := (q * 2 ^ 200).floor.toNat
  let r := roundMag 23 (-126) (.stochastic 0 0) m (-200) false
  BitVec.ofNat 32 (fpEncode 8 23 false r.1 r.2.1)

/-- A rational number rounded to nearest even. -/
def f32OfRat (q : Rat) : F32 :=
  let n := q.num.natAbs
  if n = 0 then 0 else
  let m := n * 2 ^ 300 / q.den
  f32Round (decide (q < 0)) m (-300) (decide (n * 2 ^ 300 % q.den ≠ 0))

/-- A cubic in t by Horner's rule with fused multiply-adds (R210). -/
def horner (c0 c1 c2 c3 t : F32) : FpM F32 := do
  let a ← fmaF t c3 c2
  let b ← fmaF t a c1
  fmaF t b c0

/-- The cubic of a segment: of f, or of f′. -/
def FPair.cubic (p : FPair) (deriv : Bool) (i : Nat) (t : F32) : FpM F32 :=
  let o := if deriv then 4 else 0
  horner (p.coef i o) (p.coef i (o + 1)) (p.coef i (o + 2)) (p.coef i (o + 3)) t

/-- Segment and t of a position w in [0, 256). -/
def segment (w : Rat) : Nat × F32 :=
  let i := w.floor.toNat
  (i, f32Trunc (w - i))

/-- v × 2^k, rounded once: the exact product, though 2^k alone may lie outside FP32 (R210). x is the input against which a non-finite result counts (R180). -/
def scaleTwo (x v : F32) (k : Int) : FpM F32 :=
  match f32Decode v with
  | .fin n m e => counted (if m = 0 then v else f32Round n m (e + k) false) [x]
  | _ => pure v

/-- Evaluation inside [LO, HI) in modes 0 and 1, and of modes 2 and 3 (R210), for a finite input that is not 0 or negative in modes 2 and 3. -/
def FPair.inside (p : FPair) (deriv : Bool) (x : F32) : FpM F32 := do
  match p.mode with
  | 0 =>
    let lo := f32ToRat p.lo
    let st := segment ((f32ToRat x - lo) * 256 / (f32ToRat p.hi - lo))
    p.cubic deriv st.1 st.2
  | 1 =>
    let u ← mulF x p.c
    if !f32Finite u then counted (Config.beyondRange x p.c deriv) [x] else
    let k := f32Floor u
    let st := segment ((f32ToRat u - k) * 256)
    let v ← p.cubic deriv st.1 st.2
    scaleTwo x v k
  | 2 =>
    let e := f32Log2 x
    let m := f32ToRat x / (if 0 ≤ e then ((2 ^ e.toNat : Nat) : Rat) else 1 / ((2 ^ (-e).toNat : Nat) : Rat))
    let st := segment ((m - 1) * 256)
    let v ← p.cubic deriv st.1 st.2
    if deriv then scaleTwo x v (-e) else do
      let ec ← mulF (f32OfSigned e) p.c
      addF v ec
  | _ =>
    let j := f32Log2 x / 2
    let m := f32ToRat x / (if 0 ≤ j then ((4 ^ j.toNat : Nat) : Rat) else 1 / ((4 ^ (-j).toNat : Nat) : Rat))
    let st := segment ((m - 1) * 256 / 3)
    let v ← p.cubic deriv st.1 st.2
    scaleTwo x v (if deriv then -(3 * j) else -j)

/-- The value of pair p at x, or of its derivative (R210). exp gives the built-in exp pair's f for the EXP edge rule. -/
def FPair.evalWith (p : FPair) (exp : F32 → FpM F32) (deriv : Bool) (x : F32) : FpM F32 :=
  if f32IsNan x then pure qNaN
  else if p.mode = 2 ∨ p.mode = 3 then
    if f32IsZero x then counted (if p.mode = 2 then f32Inf (!deriv) else f32Inf deriv) [x]
    else if f32Neg x then counted qNaN [x]
    else if !f32Finite x then pure (if p.mode = 2 then (if deriv then 0 else f32Inf false) else f32Zero deriv)
    else p.inside deriv x
  else
    let edge (rule : Nat) (value slope at_ : F32) : FpM F32 :=
      match rule with
      | 0 => if deriv then pure 0 else counted value [x]
      | 1 => if deriv then pure slope else do
          let d ← subF x at_
          let m ← mulF slope d
          addF value m
      | 2 => exp x
      | _ => counted qNaN [x]
    if f32Lt x p.lo then edge p.left p.leftValue p.leftSlope p.lo
    else if f32Lt x p.hi then p.inside deriv x
    else edge p.right p.rightValue p.rightSlope p.hi

/-- The built-in exp and ln (R213). -/
def expPair (x : F32) : FpM F32 := (builtinPair 4).evalWith (fun _ => pure qNaN) false x
def lnPair (x : F32) : FpM F32 := (builtinPair 5).evalWith expPair false x

/-- A pair's value at x, or its derivative. -/
def FPair.eval (p : FPair) (deriv : Bool) (x : F32) : FpM F32 := p.evalWith expPair deriv x

/-- An image passes the checks of R211. -/
def pairImageOk (bs : List Byte) : Bool :=
  let p := pairOfImage bs
  let fin (k : Nat) : Bool := f32Finite (word32 bs k)
  decide (field bs 0 4 = 0x52494150) && decide (field bs 4 1 = 1) && decide (p.mode ≤ 3) && decide (p.left ≤ 3) && decide (p.right ≤ 3)
    && (decide (2 ≤ p.mode) || (f32Finite p.lo && f32Finite p.hi && f32Lt p.lo p.hi))
    && (List.range 2048).all (fun k => fin (64 + 4 * k)) && fin 16 && fin 24 && fin 32
    && !f32IsNan p.leftValue && !f32IsNan p.rightValue
    && decide (crc32 (splice bs 36 (zeros 4)) = field bs 36 4)

end Sys2Proof.Machine
end

