-- ==== Sys2Proof/Machine/Formats.lean ====
section
/-! DEFINITION. The number formats of R170 to R175, widening (R174), conversion with block scales (R177 to R179), the recipes by tensor kind (R181, R183) and the choice of ACT_GRAD scales from a
history (R184 to R187). -/
namespace Sys2Proof.Machine

/-- Format codes (R139): 0 FP32, 1 BF16, 2 FP16, 3 E4M3, 4 E5M2, 5 E3M2, 6 E2M3, 7 E2M1. -/
def isMx (fmt : Nat) : Bool := decide (3 ≤ fmt) && decide (fmt ≤ 7)

/-- Bits of one element. -/
def fmtBits (fmt : Nat) : Nat := nth [32, 16, 16, 8, 8, 6, 6, 4] fmt 32

/-- Bytes of a row of elements. -/
def rowBytes (fmt cols : Nat) : Nat := ceilDiv (cols * fmtBits fmt) 8

/-- Exponent bits, mantissa bits and bias of an element format (R170). -/
def elemShape (fmt : Nat) : Nat × Nat × Int :=
  match fmt with
  | 3 => (4, 3, 7)
  | 4 => (5, 2, 15)
  | 5 => (3, 2, 3)
  | 6 => (2, 3, 1)
  | _ => (2, 1, 1)

/-- F of R177. -/
def elemF (fmt : Nat) : Int :=
  match fmt with
  | 3 => 8
  | 4 => 15
  | 5 => 4
  | _ => 2

/-- The value of an element code without its scale, and for a NaN or infinity what R170 says. -/
def elemDecode (fmt v : Nat) : Fp :=
  let sh := elemShape fmt
  let eb := sh.1
  let mb := sh.2.1
  let bias := sh.2.2
  let man := v % 2 ^ mb
  let ex := v / 2 ^ mb % 2 ^ eb
  let neg := bitAt v (eb + mb)
  if fmt = 3 ∧ ex = 15 ∧ man = 7 then .nan
  else if fmt = 4 ∧ ex = 31 then (if man = 0 then .inf neg else .nan)
  else if ex = 0 then .fin neg man (1 - bias - mb)
  else .fin neg (2 ^ mb + man) (ex - bias - mb)

/-- An element under its block scale byte, exactly (R173, R174): a scale byte 0xFF makes every element NaN. -/
def mxValue (fmt v : Nat) (scale : Byte) : Fp :=
  if scale = 0xFF then .nan else
  match elemDecode fmt v with
  | .fin n m e => .fin n m (e + scale.toNat - 127)
  | x => x

/-- The FP32 word of an element under its block scale (R174): a NaN element keeps its sign, an element of a block scaled 0xFF is 0x7FC0_0000. -/
def mxWiden (fmt v : Nat) (scale : Byte) : F32 :=
  if scale = 0xFF then qNaN else
  let neg := bitAt v (fmtBits fmt - 1)
  match elemDecode fmt v with
  | .fin n m e => if m = 0 then f32Zero n else f32Round n m (e + scale.toNat - 127) false
  | .inf n => f32Inf n
  | .nan => if neg then 0xFFC00000 else qNaN

/-- A BF16 or FP16 word widened to FP32; NaN payloads move along. -/
def bf16Widen (v : Nat) : F32 := BitVec.ofNat 32 (v * 2 ^ 16)
def fp16Widen (v : Nat) : F32 :=
  match fpDecode 5 10 v with
  | .nan => BitVec.ofNat 32 (bnat (bitAt v 15) * 2 ^ 31 + 0x7F800000 + v % 1024 * 2 ^ 13)
  | .inf n => f32Inf n
  | .fin n m e => if m = 0 then f32Zero n else f32Round n m e false

/-- The exact value of a 32- or 16-bit element. -/
def wordValue (fmt v : Nat) : Fp :=
  match fmt with
  | 0 => fpDecode 8 23 v
  | 1 => fpDecode 8 7 v
  | _ => fpDecode 5 10 v

/-- The FP32 word of a 32- or 16-bit element. -/
def wordWiden (fmt v : Nat) : F32 :=
  match fmt with
  | 0 => BitVec.ofNat 32 v
  | 1 => bf16Widen v
  | _ => fp16Widen v

/-- The element codes that a row's bytes hold (R172): element i of a run occupies the i-th field of the row's little-endian bit string. -/
def rowCodes (fmt cols : Nat) (bs : List Byte) : List Nat :=
  match fmt with
  | 0 => (chunks 4 (padTo (4 * cols) bs)).map leNat
  | 1 => (chunks 2 (padTo (2 * cols) bs)).map leNat
  | 2 => (chunks 2 (padTo (2 * cols) bs)).map leNat
  | 3 => (padTo cols bs).map (·.toNat)
  | 4 => (padTo cols bs).map (·.toNat)
  | 7 => ((padTo (ceilDiv cols 2) bs).flatMap (fun b => [b.toNat % 16, b.toNat / 16])).take cols
  | _ => ((chunks 3 (padTo (ceilDiv cols 4 * 3) bs)).flatMap
      (fun g => let v := leNat g; [v % 64, v / 64 % 64, v / 4096 % 64, v / 262144])).take cols

/-- The bytes of a row of element codes (R172). -/
def packCodes (fmt : Nat) (cs : List Nat) : List Byte :=
  match fmt with
  | 0 => cs.flatMap (toLE 4)
  | 1 => cs.flatMap (toLE 2)
  | 2 => cs.flatMap (toLE 2)
  | 3 => cs.flatMap (toLE 1)
  | 4 => cs.flatMap (toLE 1)
  | 7 => (chunks 2 cs).map (fun g => BitVec.ofNat 8 (nth g 0 0 + 16 * nth g 1 0))
  | _ => (chunks 4 cs).flatMap (fun g => toLE 3 (nth g 0 0 + 64 * nth g 1 0 + 4096 * nth g 2 0 + 262144 * nth g 3 0))

/-- Scale layouts (R175). -/
inductive Layout where
  | row | column | square
  deriving DecidableEq, Repr

/-- SP: the scale-row pitch. -/
def scalePitch (l : Layout) (cols : Nat) : Nat :=
  match l with
  | .column => roundUp cols 32
  | _ => roundUp (ceilDiv cols 32) 32

/-- The number of scale rows. -/
def scaleRows (l : Layout) (rows : Nat) : Nat :=
  match l with
  | .row => rows
  | _ => ceilDiv rows 32

/-- The bytes of a scale array. -/
def scaleBytes (l : Layout) (rows cols : Nat) : Nat := scaleRows l rows * scalePitch l cols

/-- The offset in the scale array of the scale of stored element (r, c). -/
def scaleOffset (l : Layout) (cols r c : Nat) : Nat :=
  match l with
  | .row => r * scalePitch l cols + c / 32
  | .column => r / 32 * scalePitch l cols + c
  | .square => r / 32 * scalePitch l cols + c / 32

/-- The exact values of a stored tensor: its rows' bytes and, for an MX format, its scale array. -/
def tensorValues (fmt cols : Nat) (l : Layout) (rows : List (List Byte)) (scales : List Byte) : List (List Fp) :=
  (rows.zipIdx).map (fun (bs, r) => ((rowCodes fmt cols bs).zipIdx).map (fun (v, c) =>
    if isMx fmt then mxValue fmt v (scales.getD (scaleOffset l cols r c) 0) else wordValue fmt v))

/-- The FP32 words of a stored tensor. -/
def tensorWords (fmt cols : Nat) (l : Layout) (rows : List (List Byte)) (scales : List Byte) : List (List F32) :=
  (rows.zipIdx).map (fun (bs, r) => ((rowCodes fmt cols bs).zipIdx).map (fun (v, c) =>
    if isMx fmt then mxWiden fmt v (scales.getD (scaleOffset l cols r c) 0) else wordWiden fmt v))

/-! ### Conversion -/

/-- The counts of a conversion (R192). -/
structure ConvCount where
  flush : Nat
  nonfinite : Nat
  miss : Nat
  deriving DecidableEq, Repr, Inhabited

/-- Sum of two counts. -/
def ConvCount.add (a b : ConvCount) : ConvCount := ⟨a.flush + b.flush, a.nonfinite + b.nonfinite, a.miss + b.miss⟩

/-- No counts. -/
def ConvCount.zero : ConvCount := ⟨0, 0, 0⟩

/-- FP32 to BF16 or FP16 (R179), or stochastically (R183); the code, a flush, and an infinity made from a finite value. A NaN keeps sign and payload and has its quiet bit set. -/
def toHalf (fmt : Nat) (rm : Rounding) (v : F32) : Nat × ConvCount :=
  let eb := if fmt = 1 then 8 else 5
  let mb := if fmt = 1 then 7 else 10
  match f32Decode v with
  | .nan => (bnat (f32Neg v) * 2 ^ 15 + (2 ^ eb - 1) * 2 ^ mb + (v.toNat % 2 ^ 23 / 2 ^ (23 - mb) ||| 2 ^ (mb - 1)), .zero)
  | .inf n => (bnat n * 2 ^ 15 + (2 ^ eb - 1) * 2 ^ mb, .zero)
  | .fin n m e =>
    let r := roundMag mb (2 - 2 ^ (eb - 1)) rm m e false
    let code := fpEncode eb mb n r.1 r.2.1
    let top := (2 ^ eb - 1) * 2 ^ mb
    (code, ⟨bnat (decide (m ≠ 0) && decide (r.1 = 0)), bnat (decide (code % 2 ^ 15 = top)), 0⟩)

/-- FP32 rounded to BF16 and widened again. -/
def roundBf16 (v : F32) : F32 := if f32IsNan v then qNaN else bf16Widen (toHalf 1 .nearest v).1

/-- The element nearest to v × 2^-X (R178), and whether a non-zero value became 0. -/
def toElem (fmt : Nat) (x : Int) (rm : Rounding) (v : F32) : Nat × Nat :=
  let sh := elemShape fmt
  let eb := sh.1
  let mb := sh.2.1
  let emin : Int := 1 - sh.2.2
  match f32Decode v with
  | .fin n m e =>
    let r := roundMag mb emin rm m (e - x) false
    let qmin := emin - mb
    let enc := if r.1 = 0 then 0 else (r.2.1 - qmin).toNat * 2 ^ mb + r.1
    (min enc (2 ^ (eb + mb) - 1) + bnat n * 2 ^ (eb + mb), bnat (decide (m ≠ 0) && decide (r.1 = 0)))
  | _ => (0, 0)

/-- e of R177 over the finite values of a block: none when all are zero. -/
def blockE (vs : List F32) : Option Int :=
  vs.foldl (fun acc v => if f32Finite v && !f32IsZero v then
      (match acc with
        | none => some (f32Log2 v)
        | some e => some (max e (f32Log2 v)))
    else acc) none

/-- X held to −127 to 127. -/
def clampX (x : Int) : Int := max (-127) (min 127 x)

/-- The scale chosen for a block: its byte, its exponent, and whether its elements are written as 0 because the block holds an infinity or a NaN. -/
structure BlockScale where
  byte : Byte
  x : Int
  bad : Bool
  deriving DecidableEq, Repr, Inhabited

/-- The scale byte of exponent x. -/
def scaleByteOf (x : Int) : Byte := BitVec.ofNat 8 (x + 127).toNat

/-- The scale of a block with exponent e under g guard bits (R177). -/
def exactScale (fmt : Nat) (g : Int) (vs : List F32) (e : Option Int) : BlockScale :=
  if vs.any (fun v => !f32Finite v) then ⟨0xFF, 0, true⟩
  else match e with
    | none => ⟨0, -127, false⟩
    | some e => let x := clampX (e + 1 - elemF fmt + g); ⟨scaleByteOf x, x, false⟩

/-- T of a recorded step (R185): the largest e_b of the step, if any block had one. -/
def stepMax (es : List (Option Int)) : Option Int :=
  es.foldl (fun acc e => match acc, e with
    | none, e => e
    | some a, none => some a
    | some a, some b => some (max a b)) none

/-- The rises between consecutive held steps, newest first, where both have a T (R186). -/
def stepRises : List (Option Int) → List Int
  | some new :: some old :: rest => (new - old) :: stepRises (some old :: rest)
  | _ :: rest => stepRises rest
  | [] => []

/-- The guard bits g (R186), from the held steps, newest first. -/
def guardBits (steps : List (List (Option Int))) : Int :=
  if steps.length < 16 then 3
  else match stepRises (steps.map stepMax) with
    | [] => 3
    | r :: rs => min 3 (max 0 (rs.foldl max r))

/-- P_b: the largest e_b held (R187). -/
def heldE (steps : List (List (Option Int))) (b : Nat) : Option Int := stepMax (steps.map (fun s => s.getD b none))

/-- The scale of ACT_GRAD block b and whether it was a miss (R187); without a history X = e + 1 − F + 3. -/
def actGradScale (fmt : Nat) (hist : Option (List (List (Option Int)))) (b : Nat) (vs : List F32) (e : Option Int) : BlockScale × Nat :=
  match hist with
  | none => (exactScale fmt 3 vs e, 0)
  | some steps =>
    let g := guardBits steps
    match heldE steps b, e with
    | some p, some e' =>
      if vs.any (fun v => !f32Finite v) then (exactScale fmt g vs e, 0)
      else if e' ≤ p + g then (let x := clampX (p + 1 - elemF fmt + g); (⟨scaleByteOf x, x, false⟩, 0))
      else (exactScale fmt g vs e, 1)
    | _, _ => (exactScale fmt g vs e, 0)

/-- The scale layout that a kind's recipe writes (R181). -/
def kindLayout (kind : Nat) : Layout :=
  match kind with
  | 0 => .square
  | 3 => .square
  | 4 => .square
  | _ => .row

/-- Whether a kind and format go together, and the reason of R182 if not: a reserved kind, EMBED_ROW or SCORE in a format that R181 does not allow it 0x16, WEIGHT_GRAD not FP32 0x15. -/
def kindReason (kind fmt : Nat) : Option Nat :=
  if 8 ≤ kind then some 0x16
  else if kind = 5 ∧ fmt ≠ 0 then some 0x15
  else if kind = 6 ∧ fmt ≠ 0 ∧ fmt ≠ 1 ∧ fmt ≠ 3 then some 0x16
  else if kind = 7 ∧ fmt ≠ 0 ∧ fmt ≠ 1 then some 0x16
  else none

/-- A converted tensor: the bytes of each row, the scale array, the counts, and the e_b of every block in row-major block order. -/
structure Converted where
  rows : List (List Byte)
  scales : List Byte
  count : ConvCount
  es : List (Option Int)
  deriving DecidableEq, Repr, Inhabited

/-- The values of block (i, j) of a tensor with blocks of bh rows. -/
def blockValues (bh : Nat) (vals : List (List F32)) (i j : Nat) : List F32 :=
  ((vals.drop (i * bh)).take bh).flatMap (fun r => (r.drop (32 * j)).take 32)

/-- Conversion of FP32 rows to a format under a kind's recipe. hist is the scale history of an ACT_GRAD entry that has one; rnd gives, for an element, its random number and width
where the writer supplies bits (R183). -/
def convertTensor (kind fmt cols : Nat) (hist : Option (List (List (Option Int)))) (rnd : Option (Nat → Nat → Nat × Nat)) (vals : List (List F32)) : Converted :=
  let mode (r c : Nat) : Rounding := match rnd with
    | some f => if kind = 6 then .stochastic (f r c).1 (f r c).2 else .nearest
    | none => .nearest
  if fmt = 0 then ⟨vals.map (fun r => r.flatMap (fun v => toLE 4 v.toNat)), [], .zero, []⟩
  else if !isMx fmt then
    let out := (vals.zipIdx).map (fun (row, r) => (row.zipIdx).map (fun (v, c) => toHalf fmt (mode r c) v))
    ⟨out.map (fun row => packCodes fmt (row.map (·.1))), [],
      out.foldl (fun a row => row.foldl (fun a p => a.add p.2) a) .zero, []⟩
  else
    let lay := kindLayout kind
    let bh := match lay with
      | .row => 1
      | _ => 32
    let nbr := ceilDiv vals.length bh
    let nbc := ceilDiv cols 32
    let blocks : List (List (BlockScale × Nat × Option Int)) := (List.range nbr).map (fun i =>
      let rowE := blockE (vals.getD i [])
      (List.range nbc).map (fun j =>
        let vs := blockValues bh vals i j
        let e := blockE vs
        if kind = 4 then (let r := actGradScale fmt hist (i * nbc + j) vs e; (r.1, r.2, e))
        else if kind = 6 then (exactScale fmt 0 vs rowE, 0, e)
        else (exactScale fmt 0 vs e, 0, e)))
    let enc := (vals.zipIdx).map (fun (row, r) =>
      let sc := blocks.getD (r / bh) []
      (row.zipIdx).map (fun (v, c) =>
        let b := (sc.getD (c / 32) default).1
        if b.bad then (0, 0) else toElem fmt b.x (mode r c) v))
    let sp := scalePitch lay cols
    ⟨enc.map (fun row => packCodes fmt (row.map (·.1))),
      blocks.flatMap (fun bs => padTo sp (bs.map (fun b => b.1.byte))),
      ⟨enc.foldl (fun a row => row.foldl (fun a p => a + p.2) a) 0,
        blocks.foldl (fun a bs => bs.foldl (fun a b => a + bnat b.1.bad) a) 0,
        blocks.foldl (fun a bs => bs.foldl (fun a b => a + b.2.1) a) 0⟩,
      blocks.flatMap (fun bs => bs.map (fun b => b.2.2))⟩

end Sys2Proof.Machine
end

