-- ==== Sys2Proof/Machine/State.lean ====
section
/-! DEFINITION. The state of the KZ-64 as plain data: every register, queue, table, buffer, counter and mode the manual names, in one structure per unit, and the queue of
the commands that wait. State.reset is the chip as a power-on reset leaves it, before RESET_RELEASE. -/
namespace Sys2Proof.Machine

/-- Reasons to stop with a fault. No meaning of this model raises one: where the manual gives a command no effect the command ends with a status, which is a next state.
The type is here because the interface asks for one. -/
inductive Fault where
  /-- Raised by nothing: kept so that the type has a value. Safe. -/
  | unraised
  deriving DecidableEq, Repr

/-- Reasons to refuse. -/
inductive Refusal where
  /-- Raised by an arm of exec whose command has no meaning yet. Safe: the run stops. -/
  | notModelled (mnemonic : String)
  deriving DecidableEq, Repr

/-- What a step answers. -/
abbrev Out (σ : Type) := Host.Outcome σ Fault Refusal

/-! ### Queues, replies and commands in flight -/

/-- A reply of R32, by its fields. -/
structure Reply where
  status : Byte
  subQueue : Byte
  sequence : W32
  note : Byte
  detail : BitVec 24
  index : W32
  tag : W64
  notes : W16
  skips : W16
  runTime : W32
  deriving DecidableEq, Repr, Inhabited

/-- A submission queue (R34, R35, R36): its ring, the tail last written to its doorbell, the head, the units by which HEAD may still be reported late (R39), and the delete command that waits on it. Positions are in 32-byte units. -/
structure SubQueue where
  num : Nat
  logSize : Nat
  offset : Nat
  tail : Nat
  tailWrap : Bool
  head : Nat
  headWrap : Bool
  lag : Nat
  stalled : Bool
  deleting : Option Nat
  deriving DecidableEq, Repr, Inhabited

/-- A response queue (R34, R38, R40, R41): its ring, its interrupt settings, the waiting replies oldest first, and the slots reserved for packets in execution. -/
structure RespQueue where
  num : Nat
  logSize : Nat
  offset : Nat
  irq : Bool
  coalCount : Nat
  coalTime : Nat
  replies : List Reply
  reserved : Nat
  sinceSignal : Nat
  deriving DecidableEq, Repr, Inhabited

/-- Where a command came from: a submission queue, the mailbox, or an entry of the running plan. -/
inductive Src where
  | queue (q : Nat)
  | mailbox
  | plan (entry : Nat)
  deriving DecidableEq, Repr, Inhabited

/-- How a command came out: STATUS, NOTE, DETAIL, INDEX, NOTES and SKIPS of its reply (R32). -/
structure Result where
  status : Byte
  note : Byte
  detail : BitVec 24
  index : W32
  notes : W16
  skips : W16
  deriving DecidableEq, Repr, Inhabited

/-- How far a command in flight has come: taken and not started, deferred to the boundary (R47), waiting for a domain to switch on (R17), running, or ended with its reply not yet written. -/
inductive Stage where
  | taken
  | deferred
  | waking
  | running
  | ended (r : Result)
  deriving DecidableEq, Repr, Inhabited

/-- A command in flight. The id orders the commands of one source in the order in which they were taken (R45); rq is the response queue in which the slot for its reply is reserved (R37, R40), 0 for a command
that has none. -/
structure Cmd where
  id : Nat
  src : Src
  pkt : List Byte
  stage : Stage
  rq : Nat
  deriving DecidableEq, Repr, Inhabited

/-- HST_QUEUE_ERR (R36), by its fields. -/
structure QueueErr where
  lastQ : BitVec 6
  rqStall : Bool
  popSize : Bool
  dbBack : Bool
  dbRange : Bool
  dbNoq : Bool
  rqMissing : Bool
  deriving DecidableEq, Repr, Inhabited

/-- The queues of the control island with the queue served last and the place in the turn of R44, HST_QUEUE_ERR, the queue memory, and the commands in flight. -/
structure Queues where
  subs : List SubQueue
  resps : List RespQueue
  lastServed : Nat
  turnBase : Nat
  turnPos : Nat
  err : QueueErr
  memory : List Host.Cell
  nextId : Nat
  cmds : List Cmd
  deriving DecidableEq, Repr, Inhabited

/-! ### Plans and steps -/

/-- One entry of a plan: the entry word of R56 and the packet that follows it. -/
structure PlanEntry where
  branch : Nat
  doneGroup : Nat
  waitMask : W16
  skip : Option (Bool × Nat)
  set : Option Nat
  noted : Bool
  pkt : List Byte
  deriving DecidableEq, Repr, Inhabited

/-- A branch of a plan (R24, R55). -/
structure Branch where
  weight : Nat
  prio : Nat
  ridges : List Nat
  deriving DecidableEq, Repr, Inhabited

/-- A plan in the plan store (R54, R64). -/
structure Plan where
  id : Nat
  length : Nat
  digest : List Byte
  deadlineMs : Nat
  branches : List Branch
  entries : List PlanEntry
  deriving DecidableEq, Repr, Inhabited

/-- How far an entry of the running step has come (R57). -/
inductive EntryState where
  | waiting
  | running (cmd : Nat)
  | done
  deriving DecidableEq, Repr, Inhabited

/-- The step that runs: the STEP.RUN command, the image its plan ID held when it began (R64), its deadline in microseconds (R52), the entries, the 64 condition bits (R58), the counts of R66, the barriers that
have passed, and the hyperparameter records read when it began (R311). -/
structure StepRun where
  cmd : Nat
  plan : Plan
  deadline : Nat
  entries : List EntryState
  cond : W64
  notes : W16
  skips : W16
  firstNote : Option (Byte × Nat)
  scatterPassed : Bool
  updatePassed : Bool
  hyper : List (Nat × List Byte)
  deriving DecidableEq, Repr, Inhabited

/-- A barrier this chip has reached (R380): its KIND, the plan entry's command if it has one, whether the chip's own part is done, the ranks whose up flags have come, whether its own
flag has been sent, what its flag carries (R381), and whether the down flag has come. -/
structure Barrier where
  kind : Nat
  cmd : Option Nat
  own : Bool
  ups : List Nat
  sentUp : Bool
  mask : W64
  pace : Byte
  slowRank : Nat
  passed : Bool
  deriving DecidableEq, Repr, Inhabited

/-- Plans, the running step, the chip step counter (R325), the deadlines of R52 in microseconds by table row, and the barrier in progress with the flags that came early. -/
structure Plans where
  store : List Plan
  step : Option StepRun
  stepNo : W64
  deadlines : List Nat
  barrierDeadline : Nat
  barrier : Option Barrier
  earlyFlags : List Flag
  deriving DecidableEq, Repr, Inhabited

/-! ### Graph storage and sampling -/

/-- The rebuild of a shard's alias table (R78, R102): none, running with its pass, finished and awaiting the swap, or failed with the nodes left. -/
inductive Rebuild where
  | idle
  | running (pass nodesLeft : Nat)
  | waiting
  | failed (nodesLeft : Nat)
  deriving DecidableEq, Repr, Inhabited

/-- An installed shard: its descriptor (R71) and its alias header (R102). -/
structure Shard where
  id : Nat
  hasWeights : Bool
  hasAlias : Bool
  presorted : Bool
  nodes : Nat
  offsets : Nat
  neighbours : Nat
  weights : Nat
  aliasA : Nat
  aliasB : Nat
  edges : Nat
  currentB : Bool
  stale : Bool
  rebuild : Rebuild
  deriving DecidableEq, Repr, Inhabited

/-- An installed feature table (R107). -/
structure FTable where
  id : Nat
  dtype : Nat
  rows : Nat
  width : Nat
  base : Nat
  stride : Nat
  deriving DecidableEq, Repr, Inhabited

/-- A failure of one item of a GRAPH or EMBED command (R583): its status and its DETAIL reason. -/
structure ItemFail where
  status : Byte
  reason : Nat
  deriving DecidableEq, Repr, Inhabited

/-- The state of a random walk that waits for a remote step (R85, R93). -/
structure Walk where
  slot : Nat
  cur : Nat
  emitted : List PathEntry
  deriving DecidableEq, Repr, Inhabited

/-- One parent of a hop (R85, R90): its place, logical position and node, whether it has been routed (served here, or its first request made), whether an expansion request is out for it and with which TAG, and
what has come of it: its entries, which a walk that fails keeps up to its failure (R97), and its failure. -/
structure HopParent where
  pos : Nat
  key : Nat
  node : Nat
  routed : Bool
  asked : Bool
  tag : Nat
  entries : Option (List PathEntry)
  fail : Option ItemFail
  walk : Option Walk
  deriving DecidableEq, Repr, Inhabited

/-- A hop in progress (R85, R98): its command, the chip's step number when it began, its parents, and what its header will say. -/
structure Hop where
  cmd : Nat
  step : Nat
  parents : List HopParent
  keySpan : Nat
  stale : Bool
  poisoned : Bool
  deriving DecidableEq, Repr, Inhabited

/-- One item of a gather or a lookup in progress: the rows of one owner for one output row. partial holds the FP32 partial, or the stored bytes of an unpooled row; counts as answered when it is some. -/
structure Portion where
  item : Nat
  owner : Nat
  server : Nat
  tag : Nat
  keys : List Nat
  weights : List F32
  isLocal : Bool
  viaReplica : Bool
  partRow : Option (List F32)
  stored : Option (List Byte)
  winners : List Nat
  fail : Option ItemFail
  deriving DecidableEq, Repr, Inhabited

/-- A gather (R112) or lookup (R281) that waits for its owners. -/
structure Gather where
  cmd : Nat
  items : Nat
  children : List Nat
  poisoned : Bool
  portions : List Portion
  deriving DecidableEq, Repr, Inhabited

/-- A request that an owner holds for its next step (R96). -/
inductive Held where
  | expansion (src : Nat) (r : ExpReq)
  | rows (src : Nat) (rs : List RowReq)
  | lookup (src : Nat) (rs : List LookupReq)
  deriving DecidableEq, Repr

/-- Graph engines: the job and rank table (R582), shards, feature tables, the rebuild floor (R103), hops and gathers in progress, held requests, and the next TAG for a request. -/
structure Graph where
  job : Option (Nat × Nat)
  ranks : Option (List Nat)
  shards : List Shard
  ftables : List FTable
  aliasFloor : Nat
  hops : List Hop
  gathers : List Gather
  held : List Held
  nextTag : Nat
  deriving DecidableEq, Repr

/-- A scatter or backward lookup that waits until every contribution has been applied (R128, R287): the requests at ports, at slices and at owners that are still out, whether an input named as a whole was
poisoned, and the failure of the lowest-numbered item so far (R583). -/
structure Scatter where
  cmd : Nat
  adds : List AddReq
  atomics : List AtomReq
  acks : List (Nat × Nat)
  poisoned : Bool
  fail : Option (Nat × ItemFail)
  deriving DecidableEq, Repr, Inhabited

/-! ### Accumulation groups -/

/-- The partial sums of one element of one slice: the carry stack of R155 with its top word, or the parked word of register mode (R161). -/
inductive Acc where
  | stack (levels : List F32) (top : F32)
  | parked (w : Option F32)
  deriving DecidableEq, Repr, Inhabited

/-- The skimmer fields of a group (R252). -/
structure Skim where
  mode : Nat
  cap : Nat
  twoWay : Bool
  threshold : F32
  desc : Nat
  mask : Nat
  deriving DecidableEq, Repr, Inhabited

/-- An accumulation group (R144): the ridge set it is open on (the branch, or none for all enabled ridges), its slot, the fields its opening fixed, its pass counts by slice and its partial sums by slice and element. -/
structure Group where
  set : Option Nat
  slot : Nat
  m : Nat
  n : Nat
  l : Nat
  s : Nat
  tileRows : Nat
  outFmt : Nat
  outKind : Nat
  out : Nat
  outPitch : Nat
  outScales : Nat
  skim : Option Skim
  transient : Bool
  poisoned : Bool
  passes : List Nat
  accs : List (List Acc)
  deriving DecidableEq, Repr, Inhabited

/-- The open groups, and the count of LONG_SUM closes of each group ID since reset (R154). -/
structure Matrix where
  groups : List Group
  longSums : List (Nat × W16)
  deriving DecidableEq, Repr, Inhabited

/-! ### Numerics -/

/-- A conversion counter set (R192): a plan entry's, or one of the two shared sets 0xFE and 0xFF. -/
structure CounterSet where
  plan : Nat
  entry : Nat
  flush : W32
  nonfinite : W32
  miss : W32
  deriving DecidableEq, Repr, Inhabited

/-- The scale history of a plan entry (R184, R185): the blocks of its output, for which its pool space was assigned, and of each of the last 16 steps, newest first, the e of every block (none for a block of zeros) and the largest of them. -/
structure History where
  plan : Nat
  entry : Nat
  blocks : Nat
  steps : List (List (Option Int))
  deriving DecidableEq, Repr, Inhabited

/-- The settings of the update-ratio monitor (R200); maskInBox is the place of the mask in the mailbox data buffer, where a mailbox packet named that (R560). -/
structure RatioCfg where
  low : F32
  high : F32
  stallN : Nat
  enable : Bool
  global : Bool
  tagMask : Nat
  maskInBox : Option Nat
  deriving DecidableEq, Repr, Inhabited

/-- A monitored layer tag (R195 to R199): the sums of the step in progress, its state, its zero-run counter, and the values last judged. -/
structure TagMon where
  tag : Nat
  g : F32
  u : F32
  w : F32
  seen : Bool
  high : Bool
  low : Bool
  alarm : Bool
  zeroRun : W32
  lastStep : W32
  ratio : F32
  uNorm : F32
  wNorm : F32
  gNorm : F32
  deriving DecidableEq, Repr, Inhabited

/-- Precision bits and their pending change (R189, R190), the scale pool (R191), histories and counter sets, the numeric registers (R194), and the monitor. -/
structure Numerics where
  wideState : Bool
  wideReduce : Bool
  pendingReduce : Option Bool
  poolAddr : Nat
  poolSize : Nat
  histories : List History
  sets : List CounterSet
  missBit : Bool
  nonfiniteBit : Bool
  ratioBit : Bool
  stallBit : Bool
  eventCode : Byte
  eventTag : BitVec 12
  nonfinite : W32
  flush : W32
  miss : W32
  ratio : RatioCfg
  pendingRatio : Option RatioCfg
  tags : List TagMon
  deriving DecidableEq, Repr, Inhabited

/-! ### Vector unit -/

/-- Loaded function pairs 8 to 15 by their images (R209), and the job seed with its pending change (R219). -/
structure Vector where
  pairs : List (Nat × List Byte)
  seed : W64
  pendingSeed : Option W64
  deriving DecidableEq, Repr, Inhabited

/-! ### Embedding tables -/

/-- An installed embedding table (R273) with its step counter (R325). -/
structure ETable where
  id : Nat
  dtype : Nat
  key : Nat
  rule : Nat
  width : Nat
  layerTag : Nat
  rows : Nat
  blockRows : Nat
  base : Nat
  stride : Nat
  guestRows : Nat
  guestBase : Nat
  counter : W64
  deriving DecidableEq, Repr, Inhabited

/-- A logged contribution (R292): its source rank, ORIGIN and SEQ, and its values. -/
structure MergeLog where
  src : Nat
  origin : Nat
  seq : Nat
  grad : List F32
  deriving DecidableEq, Repr, Inhabited

/-- The churn's accumulator of a touched row (R290): its entry's address in the merge area, where the sum stands after a 32-byte header, and its log under deterministic merge. -/
structure Accum where
  table : Nat
  key : Nat
  addr : Nat
  log : List MergeLog
  deriving DecidableEq, Repr, Inhabited

/-- A replica of a hot row (R300): the WEIGHTS area and tenure, its pre-merge buffer, and a refresh held back by ONE_STALE (R301). -/
structure Replica where
  table : Nat
  key : Nat
  tenure : Nat
  weights : List Byte
  premerge : List MergeLog
  nextWeights : Option (List Byte)
  deriving DecidableEq, Repr, Inhabited

/-- A forwarding entry of an old owner (R304). -/
structure Forward where
  table : Nat
  key : Nat
  owner : Nat
  tenure : Nat
  lastStep : W32
  deriving DecidableEq, Repr, Inhabited

/-- An occupied guest slot (R274). -/
structure Guest where
  table : Nat
  key : Nat
  slot : Nat
  deriving DecidableEq, Repr, Inhabited

/-- A lookup in the lookup log (R286): its portions, which EMBED.LOOKUP_BWD replays once the lookup has ended without a failure. -/
structure LookupLog where
  table : Nat
  lookup : Nat
  pool : Nat
  bags : Nat
  counts : List Nat
  portions : List Portion
  whole : Bool
  deriving DecidableEq, Repr, Inhabited

/-- A portion in the serve log (R286), with the tenures that its request carried; or one that was forwarded, with the new owner and the tenure there (R305). -/
structure ServeLog where
  src : Nat
  table : Nat
  tag : Nat
  pool : Nat
  keys : List Nat
  weights : List F32
  winners : List Nat
  tenures : List Nat
  moved : Option (Nat × Nat)
  deriving DecidableEq, Repr, Inhabited

/-- A row of the tracker's top list (R298). -/
structure TopRow where
  table : Nat
  key : Nat
  count : Nat
  source : Nat
  majority : Nat
  deriving DecidableEq, Repr, Inhabited

/-- The settings of EMBED.POLICY (R302). -/
structure EmbedPolicy where
  detMerge : Bool
  oneStale : Bool
  pinRepl : Bool
  pinOwner : Bool
  migMax : Nat
  replOn : F32
  replOff : F32
  migOn : F32
  replMax : Nat
  relocMax : Nat
  merge : Nat
  mergeSize : Nat
  serveLog : Nat
  serveLogSize : Nat
  deriving DecidableEq, Repr, Inhabited

/-- Embedding tables and hot rows. subs lists (table, key, subscriber); refused lists the rows not to be asked for again and the step until which (R299); migrated the rows that moved of late (R303);
migrating the rows whose acknowledgement is awaited. -/
structure Embed where
  tables : List ETable
  policy : EmbedPolicy
  pendingPolicy : Option EmbedPolicy
  accums : List Accum
  replicas : List Replica
  reloc : List Relocation
  pendingReloc : List Relocation
  forwards : List Forward
  guests : List Guest
  lookupLogs : List LookupLog
  serveLogs : List ServeLog
  subs : List (Nat × Nat × Nat)
  asked : List (Nat × Nat × Nat)
  refused : List (Nat × Nat × W64)
  migrated : List (Nat × Nat × W64)
  migrating : List (Nat × Nat × Nat)
  notices : List Relocation
  sketch : List ((Nat × Nat) × Nat)
  top : List TopRow
  issueCount : Nat
  deriving DecidableEq, Repr, Inhabited

/-! ### Update engines -/

/-- A dense shard (R319) with its step counter (R325). -/
structure DShard where
  tag : Nat
  elements : Nat
  first : Nat
  records : Nat
  grad : Nat
  mask : Nat
  counter : W64
  deriving DecidableEq, Repr, Inhabited

/-- An update that has written its records and whose command has not completed: its shard's tag, or 4,096 plus its table, and the old bytes of each run of records it wrote (R327). The model's own record. -/
structure Flight where
  cmd : Nat
  unit : Nat
  old : List (Nat × List Byte)
  deriving DecidableEq, Repr, Inhabited

/-- Installed dense shards, the hyperparameter table's address (R310), and the updates under way (R327). -/
structure Update where
  shards : List DShard
  hyper : Option Nat
  flights : List Flight
  deriving DecidableEq, Repr, Inhabited

/-! ### Links -/

/-- The state of a port, coded as LNK_PORT_STATUS_p STATE (R364). -/
inductive PortState where
  | none | down | training | handshake | auth | up | failed | authFailed
  deriving DecidableEq, Repr, Inhabited

/-- A stored cell of a replay buffer (R348): its sequence and its 36 symbols. -/
structure SentCell where
  seq : W32
  symbols : List Byte
  deriving DecidableEq, Repr, Inhabited

/-- The collective to which a packet of this chip belongs: its reduce queue with that queue's priority, and its number (R26, R378). -/
structure Reduce where
  queue : Nat
  prio : Nat
  collId : Nat
  deriving DecidableEq, Repr, Inhabited

/-- A packet that waits for egress on a port (R354): the credit count it needs; the port and the buffer in which its cells still lie, for a packet that came over a link (R352); the collective, for a piece of this
chip's own. -/
structure Waiting where
  pkt : Packet
  buffer : Nat
  held : Option (Nat × Nat)
  reduce : Option Reduce
  deriving DecidableEq, Repr, Inhabited

/-- A cell that has arrived ahead of its turn and waits for the cells before it (R332): its sequence, its lane, its symbols. -/
structure EarlyCell where
  seq : W32
  lane : Nat
  symbols : List Byte
  deriving DecidableEq, Repr, Inhabited

/-- A link port: its configuration (R331, R333), its state (R364), its lanes and those of its peer, and the state of its retry, credit, training and authentication. trying: a training attempt runs. cause: what asked it to
train, as CAUSE of R482. deal: the place in the round of lanes at which the next cell is dealt (R332). skew: cells ahead of their turn. rx: the packet in reception and its payload cells to come; whole: packets received whole.
ackSeq: the last acknowledgement received, ackSent: the last one sent (R348). occupied: cells that lie in each receive buffer; freed: cells freed and not yet returned; owed: the cells of buffer 12 in flight, by credit count, in the order sent (R352). lastReduce: the reduce queue served last (R26). -/
structure Port where
  num : Nat
  cfgWidth : Nat
  cfgHalf : Bool
  authMode : Nat
  state : PortState
  lanes : List Nat
  half : Bool
  peer : W16
  peerWidth : Nat
  authenticated : Bool
  joined : Bool
  peerNum : Nat
  reversed : Bool
  attempts : Nat
  trying : Bool
  cause : Nat
  retryHalf : Bool
  deal : Nat
  skew : List EarlyCell
  nextSeq : W32
  expectSeq : W32
  ackSeq : W32
  ackSent : W32
  nak : Option W32
  discarding : Bool
  replayBuf : List SentCell
  replays : Nat
  replayFrom : W32
  paused : Bool
  narrowTo : Option (List Nat)
  removing : Option Nat
  switchIn : Nat
  narrowAck : Bool
  credits : List Nat
  owed : List (Nat × Nat)
  occupied : List Nat
  freed : List Nat
  lastReduce : Nat
  egress : List Waiting
  deficit : List Nat
  turn : Nat
  rx : Option (Packet × Nat)
  whole : List Packet
  nonce : List Byte
  peerNonce : List Byte
  provedSelf : Bool
  verifiedPeer : Bool
  deriving DecidableEq, Repr, Inhabited

/-- A lane (R338, R360, R361, R364): whether its polarity is inverted, whether it has been removed from its port, whether a change waits for the boundary, and its counters. -/
structure Lane where
  num : Nat
  inverted : Bool
  removed : Bool
  pendingRemove : Bool
  pendingRejoin : Bool
  corr : W32
  uncorr : BitVec 24
  lockLoss : Byte
  deriving DecidableEq, Repr, Inhabited

/-- A part of a batch in reassembly: its PART, its bytes, and the place in the spill area where it does not fit the area of the shared cache (R346). -/
structure BatchPart where
  part : Nat
  bytes : List Byte
  spilled : Option Nat
  deriving DecidableEq, Repr, Inhabited

/-- A batch whose records have been handed to their user (R346): the chip that sent it, its virtual channel, the record kind, INLINE and POISONED, and the bytes of the records. -/
structure Delivered where
  src : Nat
  vc : Nat
  proto : Nat
  inline : List Byte
  poisoned : Bool
  bytes : List Byte
  deriving DecidableEq, Repr, Inhabited

/-- A batch being reassembled (R346). -/
structure Reasm where
  src : Nat
  vc : Nat
  tag : Nat
  proto : Nat
  inline : List Byte
  parts : List BatchPart
  lastPart : Option Nat
  poisoned : Bool
  deriving DecidableEq, Repr, Inhabited

/-- The settings of CFG.LINK_POLICY (R363). -/
structure LinkPolicy where
  weights : List Nat
  hopLimit : Nat
  escapeWait : Nat
  pinWidth : Bool
  marginal : F32
  uncorrLimit : Nat
  spill : Nat
  spillSize : Nat
  deriving DecidableEq, Repr, Inhabited

/-- The Hexvis links: ports, lanes, presence (R336, R364), routes (R353) with the entries that wait for the boundary, policy, reassembly and the batches handed over, the next batch tag of each destination (R345), how many
of the chip's messages have been cut into packets, and what the telemetry counters of R485 hold per port. -/
structure Link where
  ports : List Port
  lanes : List Lane
  present : W16
  changed : W16
  noPath : W16
  hopLimitDrops : W16
  routes : List (Nat × W32)
  pendingRoutes : List (Nat × W32)
  policy : LinkPolicy
  pendingPolicy : Option LinkPolicy
  reasm : List Reasm
  delivered : List Delivered
  nextBatch : List (Nat × Nat)
  posted : Nat
  replayCounts : List (Nat × W32)
  replayedCells : List (Nat × W32)
  escapes : List (Nat × W32)
  deriving DecidableEq, Repr, Inhabited

/-! ### Collectives, pace and halt -/

/-- An accumulator of a reduction stage (R371, R372): the stage's place in its part's order, the destination rank, and the first unit of its chunk within the shard; the chip's own contribution once it
is there, and the arrivals in their order, each with its coordinate. -/
structure CollAcc where
  stage : Nat
  dest : Nat
  unit : Nat
  own : Option (List Byte)
  terms : List (Nat × List Byte)
  deriving DecidableEq, Repr, Inhabited

/-- A chunk that a collective has: reduced at a stage (kind 0), gathered (kind 1) or exchanged (kind 2), with the rank it comes from, the rank whose data it is, its first unit, and its bytes. -/
structure CollGot where
  kind : Nat
  stage : Nat
  src : Nat
  dest : Nat
  unit : Nat
  data : List Byte
  deriving DecidableEq, Repr, Inhabited

/-- A collective in progress (R376, R378): its command, the byte ranges of its outputs, its reduce queue and number, whether its transfer has begun, its accumulators, what it has, whether an input was poisoned, and its failure. -/
structure Coll where
  cmd : Nat
  outs : List (Nat × Nat)
  queue : Nat
  collId : Nat
  started : Bool
  accs : List CollAcc
  got : List CollGot
  poisoned : Bool
  fail : Option ItemFail
  deriving DecidableEq, Repr, Inhabited

/-- A piece held in reassembly for a collective that has not begun (R346, R376), with its place in the spill area where it does not fit the area of the shared cache. -/
structure EarlyPiece where
  piece : Piece
  spilled : Option Nat
  deriving DecidableEq, Repr, Inhabited

/-- The collective grid and its settings (R366), the collectives of this step by queue, the pieces held for collectives that have not started (R376). -/
structure Colls where
  dims : List Nat
  det : Bool
  chunkKiB : Nat
  stage : Nat
  stageSize : Nat
  nextId : List (Nat × Nat)
  jobs : List Coll
  early : List EarlyPiece
  deriving DecidableEq, Repr, Inhabited

/-- Pace and wait counters (R385), what of them the step summary of the running step will say (R483), and halt registers (R391). -/
structure HaltPace where
  ownTag : Byte
  slowRank : W16
  slowTag : Byte
  paceStep : W32
  waits : List W32
  stepWaits : List W32
  topTag : Byte
  halted : Bool
  hops : BitVec 7
  cause : Byte
  origin : W16
  status : Byte
  port : BitVec 6
  self : Bool
  step : W32
  dropped : W32
  deriving DecidableEq, Repr, Inhabited

/-! ### GDDR-7 -/

/-- A remap entry of a port (R411, R417). -/
structure Remap where
  channel : Nat
  row : Nat
  spare : Nat
  deriving DecidableEq, Repr, Inhabited

/-- A memory port (R392, R419): status, temperature and refresh state (R407, R408; refresh is the rate that the temperature asks for, lastTemp the previous plausible reading), timing (R401), correction counts (R410) most recent first, remaps and remap queue (R411), spares marked bad, the add buffer (R416), and its counters. -/
structure MemPort where
  num : Nat
  present : Bool
  refresh : Nat
  sensorFault : Bool
  implausible : Nat
  plausible : Nat
  lastTemp : Option Rat
  retraining : Bool
  retrainPending : Bool
  trainedMargin : Rat
  measuredMargin : Rat
  remapFull : Bool
  remaps : List Remap
  badSpares : List Remap
  remapQueue : List (Nat × Nat)
  remapDrops : W32
  counts : List ((Nat × Nat) × Nat)
  addBuffer : List Nat
  corr : W32
  poison : W16
  uncorr : W16
  deriving DecidableEq, Repr, Inhabited

/-- A line of the caching region (R425), by its GDDR-7 line number; pinned when it holds an accumulator (R427). -/
structure CLine where
  line : Nat
  dirty : Bool
  pinned : Bool
  deriving DecidableEq, Repr, Inhabited

/-- The GDDR-7 system: build (R393), ports, requester weights (R406), policy (R409, R417), and MEM_EVENT (R419). -/
structure Gddr where
  density : Nat
  clamshell : Bool
  rate : Nat
  ports : List MemPort
  weights : List Nat
  pendingWeights : Option (List Nat)
  minRefresh : Nat
  threshold : Nat
  pinRemap : Bool
  scrubPeriod : Nat
  lastPort : BitVec 5
  evRemapFull : Bool
  evRemap : Bool
  evRetrain : Bool
  evSensor : Bool
  evUncorr : Bool
  deriving DecidableEq, Repr, Inhabited

/-! ### On-chip memory -/

/-- A word of an inter-island queue with its packet tags: 36 symbols in the positions of R436, the four check bytes first. -/
structure QWord where
  symbols : List Byte
  sop : Bool
  eop : Bool
  deriving DecidableEq, Repr, Inhabited

/-- An inter-island queue (R441 to R444): log2 of its depth, the words it holds (oldest first), the (n + 1)-bit pointers, each side's synchronised copy of the other's pointer, the flags, whether its words are
formed by the producing unit (R445), the reading island (R14), the writes held back while FULL, whether each side is inside a packet, a packet whose rest is being discarded (R445), a flush that waits for the
writer's packet boundary with the count of its last discard, the last read's word (none for VALID 0), and whether that word was uncorrectable. -/
structure Iiq where
  num : Nat
  logDepth : Nat
  store : List QWord
  wptr : Nat
  rptr : Nat
  wptrAtReader : Nat
  rptrAtWriter : Nat
  full : Bool
  empty : Bool
  producerWords : Bool
  island : Nat
  heldBack : List QWord
  midWrite : Bool
  midRead : Bool
  dropping : Bool
  flushing : Bool
  discarded : Nat
  lastRead : Option QWord
  uncorrected : Bool
  deriving DecidableEq, Repr, Inhabited

/-- The error counters of one place of R439. -/
structure ErrCount where
  corr : W32
  poison : W16
  uncorr : W16
  deriving DecidableEq, Repr, Inhabited

/-- Device memory and on-chip memory: the bytes as encoded, in canonical form; the words in error, by word address, with the xor on each symbol position (0 to 3 check bytes, 4 to 35 data bytes, R436); the
cache split (R424), the stack area (R585), the caching region's lines (most recently used first), the sectors whose writes a channel holds (R404), by address, oldest first, the check bursts that the channels' controllers hold (R398), by GDDR-7 line, most recently used first, quarantines and stand-in regions (R169, R474), and counters (R440). -/
structure Memory where
  cells : List Host.Cell
  errs : List (Nat × List (Nat × Byte))
  direct : Nat
  stack : Nat
  lines : List CLine
  held : List Nat
  bursts : List Nat
  quarantine : List (Option (Nat × Nat))
  withdrawn : List Nat
  flagged : List (Nat × Nat)
  bankCorr : List ((Nat × Nat) × Nat)
  copying : List (Nat × Nat)
  scratch : List (Nat × ErrCount)
  slices : List (Nat × ErrCount)
  queueCorr : W32
  queueUncorr : W16
  lastIsland : Byte
  iiqs : List Iiq
  deriving DecidableEq, Repr, Inhabited

/-! ### Ridges and power -/

/-- A physical ridge: enabled, its ridge-matrix domain, register mode (R160), and droop stretch (R461). -/
structure Ridge where
  num : Nat
  enabled : Bool
  matrixOn : Bool
  waking : Bool
  registerMode : Bool
  stretching : Bool
  droops : W32
  deriving DecidableEq, Repr, Inhabited

/-- A junction sensor (R465). -/
structure Sensor where
  last : Option Rat
  implausible : Nat
  plausible : Nat
  faulted : Bool
  deriving DecidableEq, Repr, Inhabited

/-- A power hint (R464): class, LEVEL in percent, and the microseconds until its window starts and until it ends. -/
structure Hint where
  cls : Nat
  level : Nat
  lead : Nat
  remain : Nat
  deriving DecidableEq, Repr, Inhabited

/-- Power, clock and thermal state (R454 to R471). Powers are in watts, voltages in volts, temperatures in °C; GUARD in millivolts. pEst is the last estimate, estWindow the last 50 (100 µs),
pUnb the estimate and ridgeDyn the ridges' dynamic power without bubbles (R455), lastCounts the counters behind them, overAmps the watts that R456 adds in the next window. -/
structure Power where
  cap : Nat
  icc : Nat
  staezCap : Nat
  boardCap : Option Nat
  fMin : Nat
  fMax : Nat
  pin : Bool
  pinGuard : Bool
  freq : Nat
  target : Nat
  raiseTo : Option Nat
  railReported : Bool
  droop : Bool
  rail : Rat
  gain : Rat
  calFallback : Bool
  calBad : Nat
  calGood : Nat
  lastAmps : Option Rat
  lastReadings : List Rat
  lastEst : Rat
  guard : Nat
  bubble : Rat
  pEst : Rat
  estWindow : List Rat
  pUnb : Rat
  ridgeDyn : Rat
  lastCounts : List Activity
  measured : Rat
  overAmps : Rat
  sensors : List Sensor
  tj : Rat
  hottest : Nat
  throttle : Bool
  limit : Bool
  thermalCode : Nat
  hints : List Hint
  cause : Nat
  evCapUnmet : Bool
  evGuard : Bool
  evSensor : Bool
  evCal : Bool
  evLimit : Bool
  evThrottle : Bool
  deriving DecidableEq, Repr, Inhabited

/-! ### Health, telemetry, context images -/

/-- A telemetry record as produced (R482): type, island, step, sequence, ACTION, CAUSE and body. -/
structure TelemRec where
  ty : Nat
  island : Nat
  step : W32
  seq : W16
  action : Byte
  cause : Byte
  body : List Byte
  deriving DecidableEq, Repr, Inhabited

/-- The counters kept in telemetry that no other unit's state holds (R485). -/
structure TelemCounts where
  weightFaults : List (Nat × W32)
  discards : List (Nat × W32)
  wraps : W32
  longSums : W32
  replicasRefused : W32
  subsRefused : W32
  deriving DecidableEq, Repr, Inhabited

/-- Health settings (R476), the self-tests in progress by command, code and logical ridges (R478), the pair mismatches found so far with the copies that wait for the boundary (R479), the error summary's own bits and enables (R500), the telemetry ring (R481) with the units by which HEAD may still be reported late (R39), and counters. -/
structure Health where
  scratchPeriod : Nat
  cachePeriod : Nat
  quarLimit : Nat
  testShare : Nat
  pinQuar : Bool
  pinRetire : Bool
  testing : List (Nat × Nat × List Nat)
  mismatched : List Nat
  recopy : List (Nat × Nat)
  telemDrop : Bool
  testFail : Bool
  quarantined : Bool
  poison : Bool
  enableHi : Byte
  enableLo : BitVec 2
  ring : Option (Nat × Nat × Nat × W64)
  head : W32
  headLag : Nat
  tail : W32
  drop : W32
  seq : W16
  counts : TelemCounts
  deriving DecidableEq, Repr, Inhabited

/-- A context save or restore that streams to or from a gateway (R497): its command, gateway chip and TAG, the image, and how far the gateway has come. -/
structure Stream where
  cmd : Nat
  save : Bool
  chip : Nat
  tag : Nat
  image : List Byte
  acked : Nat
  deriving DecidableEq, Repr, Inhabited

/-! ### Fuses, flash and boot -/

/-- The fuses (R527, R555, R10). -/
structure Fuses where
  idSeed : List Byte
  rootHash : List Byte
  fwKeyHash : List Byte
  custKeyHash : List Byte
  custRequired : Bool
  svn : Nat
  stepping : Byte
  disabled : List Nat
  deriving DecidableEq, Repr, Inhabited

/-- A cairn record (R504), by its fields. KIND 4 carries its step mask in detailA. -/
structure CairnRec where
  kind : Nat
  step : Nat
  path : Nat
  outcome : Nat
  bootSeq : W32
  fails : W16
  resetCause : Nat
  slot : Nat
  trial : Bool
  elapsed : W64
  detailA : W64
  detailB : W32
  code : W32
  rate : Nat
  ridgeCount : Nat
  deriving DecidableEq, Repr, Inhabited

/-- A sector of the cairn ring (R517): its sequence and the records after its SECTOR record, oldest first. -/
structure CairnSector where
  seq : W32
  recs : List CairnRec
  deriving DecidableEq, Repr, Inhabited

/-- The retirement record (R520). -/
structure Retirement where
  seq : W32
  ridgesRetired : W64
  ridgesPending : W64
  portsAbsent : W32
  sticky : W16
  linksHalf : W64
  linksDown : W64
  deriving DecidableEq, Repr, Inhabited

/-- The boot descriptor (R516). -/
structure BootDesc where
  seq : W32
  active : Bool
  trial : Bool
  deriving DecidableEq, Repr, Inhabited

/-- An entry of the row-remap record (R521). -/
structure FlashRemap where
  port : Nat
  channel : Nat
  row : Nat
  spare : Nat
  released : Bool
  spareBad : Bool
  deriving DecidableEq, Repr, Inhabited

/-- The serial flash (R514): boot descriptor, firmware slots, Staez copies, cairn ring (oldest sector first), the sector after the head and whether it is erased (R518), retirement record, row-remap record with its generation,
certificate records (kind, body), and the writes that wait. -/
structure Flash where
  desc : BootDesc
  slotA : List Byte
  slotB : List Byte
  staez0 : List Byte
  staez1 : List Byte
  cairn : List CairnSector
  nextErased : Bool
  cairnWaiting : List CairnRec
  retire : Retirement
  remapGen : W32
  remapUsed : Nat
  remaps : List FlashRemap
  remapWaiting : List FlashRemap
  certs : List (Nat × List Byte)
  deriving DecidableEq, Repr, Inhabited

/-- HST_BOOT_STATUS STATE (R526). -/
inductive BootState where
  | booting | ready | safe
  deriving DecidableEq, Repr, Inhabited

/-- Boot: whether reset is asserted and its RESET_CAUSE, whether the boot policy's reset is due (R503), the state of R526, the step in progress with its path, the outcome registers, the step that has ended OK, and what SETTINGS and FIRMWARE found. -/
structure Boot where
  inReset : Bool
  resetCause : Nat
  policyReset : Bool
  state : BootState
  step : Nat
  running : Bool
  path : Nat
  fails : Nat
  endedOk : List Nat
  slot : Bool
  trial : Bool
  bootSeq : W32
  outcome : Byte
  code : Byte
  ridgeCount : Nat
  portCount : Nat
  chipId : W16
  staez : List Byte
  imageSvn : Nat
  imageHeader : List Byte
  deriving DecidableEq, Repr, Inhabited

/-! ### Security -/

/-- The state of a firmware image write (R533, R541): idle, writing (the source, its length, and ACTIVATE), done or failed. -/
inductive ImageWrite where
  | idle
  | writing (image : List Byte) (activate : Bool)
  | done (bytes : Nat)
  | failed (bytes : Nat)
  deriving DecidableEq, Repr, Inhabited

/-- Security: the measurement slots (R536), the debug challenge (R539), the unlock level (R540), the identity key (R528, R542) and the image write. -/
structure Sec where
  slots : List (List Byte)
  challenge : Option (List Byte)
  level : Nat
  keyReady : Bool
  image : ImageWrite
  deriving DecidableEq, Repr, Inhabited

/-! ### Host interface, management bus and board pins -/

/-- The completion of the last host read or configuration request: data, the poisoned (EP) bit, Unsupported Request, Request Retry Status. -/
structure HostResp where
  data : List Byte
  ep : Bool
  unsupported : Bool
  retry : Bool
  deriving DecidableEq, Repr, Inhabited

/-- The host interface (R551 to R558): HST_SERVICE, HST_HOST_ERR, the window, the mailbox, the MSI-X table, the base address registers (R550), the PCIe power state, the MSI-X vectors signalled (newest last), and the last completion. -/
structure HostIf where
  locate : Bool
  attention : Bool
  parked : Bool
  park : Bool
  button : Bool
  buttonIgnored : Bool
  buttonHeld : Bool
  mboxOverrun : Bool
  resetKey : Bool
  bar0Size : Bool
  winRange : Bool
  winUncorr : Bool
  windowLo : BitVec 4
  windowHi : W32
  mboxReq : List Host.Cell
  mboxData : List Host.Cell
  mboxLen : BitVec 10
  mboxBusy : Bool
  mboxDone : Bool
  mboxReply : Option Reply
  msixTable : List Host.Cell
  bar0 : W64
  bar2 : W64
  d3hot : Bool
  signals : List Nat
  resp : HostResp
  deriving DecidableEq, Repr, Inhabited

/-- The management bus (R561 to R564): alert mask, staging buffer with the state of its commit, the cairn latch, the last answer (none for a write), whether the last transaction was acknowledged, and MGT_ALERT_N. -/
structure Mgt where
  mask : Byte
  staging : List Byte
  stagingState : Nat
  stagingReason : Byte
  stagingWrite : Option (List Byte)
  cairnHi : List Byte
  answer : Option (List Byte)
  acked : Bool
  alertLow : Bool
  deriving DecidableEq, Repr, Inhabited

/-- What a console line reports (R565). -/
inductive UartWhat where
  | bootStep (step outcome : Nat)
  | halt (cause : Byte)
  | policy (step path : Nat)
  deriving DecidableEq, Repr

/-- A console line. -/
structure UartLine where
  bootSeq : W32
  elapsed : W64
  what : UartWhat
  deriving DecidableEq, Repr

/-- PWR_TRIP (R471), which a reset other than a power-on reset keeps, and THERM_TRIP_N (R467, R579). -/
structure Trip where
  tripped : Bool
  sensor : Byte
  temp : Byte
  pending : Option (Nat × Byte)
  pinLow : Bool
  deriving DecidableEq, Repr, Inhabited

/-- A message that the chip sends: the records of the links chapters by kind, each with the rank or chip it goes to. -/
inductive Sent where
  | expansion (owner : Nat) (rs : List ExpReq)
  | expansionAnswer (dest : Nat) (r : ExpResp)
  | rows (owner : Nat) (rs : List RowReq)
  | rowAnswer (dest : Nat) (r : RowResp)
  | lookup (owner : Nat) (rs : List LookupReq)
  | lookupAnswer (dest : Nat) (r : LookupResp)
  | contributions (owner : Nat) (cs : List Contribution)
  | contributionAnswer (dest tag : Nat) (status : Byte)
  | forwarded (owner src : Nat) (c : Contribution)
  | forwardedLookup (owner src : Nat) (rs : List LookupReq)
  | subscribe (owner table key : Nat)
  | subscriptionRefused (dest table key : Nat)
  | unsubscribe (owner table key : Nat)
  | migration (dest : Nat) (m : MigCopy)
  | migrationAnswer (dest table key : Nat) (accepted : Bool)
  | relocation (r : Relocation)
  | refresh (dests : List Nat) (table key tenure : Nat) (weights : List Byte)
  | monitorSums (tags : List (Nat × F32 × F32 × F32))
  | flag (dest : Nat) (f : Flag)
  | piece (dest : Nat) (p : Piece)
  | halt (port : Nat) (c : HaltCell)
  | auth (port : Nat) (m : AuthMsg)
  | gatewayData (chip tag offset : Nat) (last : Bool) (data : List Byte)
  | gatewayRead (chip tag offset lengthMiB : Nat)
  | ledWord (w : W32)
  deriving DecidableEq, Repr

/-- What leaves the lanes of a port: a control slot on a lane (R342), cells dealt over lanes, new ones or replayed ones (R332, R348), a handshake frame (R338). -/
inductive Wire where
  | slot (port lane : Nat) (c : CtlSlot)
  | cells (port : Nat) (cells : List (Nat × SentCell))
  | handshake (port lane chip width : Nat) (half : Bool)
  deriving DecidableEq, Repr

/-- A batch of requests or contributions to one owner that has not been sent (R94, R114, R126, R282). -/
inductive OpenBatch where
  | expansion (owner : Nat) (rs : List ExpReq)
  | rows (owner : Nat) (rs : List RowReq)
  | lookup (owner : Nat) (rs : List LookupReq)
  | contributions (owner : Nat) (cs : List Contribution)
  deriving DecidableEq, Repr

/-- What leaves the chip: the messages of its units (newest last), what its lanes carry, open batches, console lines. -/
structure Outside where
  sent : List Sent
  wire : List Wire
  batches : List OpenBatch
  uart : List UartLine
  deriving DecidableEq, Repr

/-- The state of the chip. free is the model's own counter: each draw of a value the manual leaves open advances it. pending is the queue of the commands that wait, first in, first out. -/
structure State where
  pending : List Instr
  queues : Queues
  plans : Plans
  graph : Graph
  scatters : List Scatter
  matrix : Matrix
  num : Numerics
  vec : Vector
  embed : Embed
  update : Update
  link : Link
  coll : Colls
  halt : HaltPace
  gddr : Gddr
  mem : Memory
  ridges : List Ridge
  power : Power
  health : Health
  streams : List Stream
  fuses : Fuses
  flash : Flash
  boot : Boot
  sec : Sec
  host : HostIf
  mgt : Mgt
  trip : Trip
  out : Outside
  free : Nat
  deriving DecidableEq, Repr

/-! ### The state after reset -/

/-- The Staez image as the vendor writes it (R523), without its CRC. -/
def vendorStaezBody : List Byte :=
  toLE 4 0x5A454154 ++ toLE 2 1 ++ toLE 2 512 ++ toLE 4 1 ++ zeros 4 ++ toLE 2 0xFFFF ++ zeros 2 ++ toLE 4 0x14000206 ++ zeros 4 ++ toLE 2 900 ++ zeros 482

/-- The vendor's Staez image (R523): its CRC is that of the image with the field 0. -/
def vendorStaez : List Byte := splice vendorStaezBody 12 (toLE 4 (crc32 vendorStaezBody))

/-- The flash as the vendor leaves it: the Staez image in copy 0, blank records, no firmware image (DESIGN CHOICE, log 12). -/
def Flash.vendor : Flash where
  desc := ⟨0, false, false⟩
  slotA := []
  slotB := []
  staez0 := vendorStaez
  staez1 := []
  cairn := []
  nextErased := true
  cairnWaiting := []
  retire := ⟨0, 0, 0, 0, 0, 0, 0⟩
  remapGen := 0
  remapUsed := 0
  remaps := []
  remapWaiting := []
  certs := []

/-- Fuses: ridges 60 to 63 disabled at shipment, stepping 1, hashes of zeros (DESIGN CHOICE, log 13). -/
def Fuses.vendor : Fuses where
  idSeed := zeros 32
  rootHash := zeros 32
  fwKeyHash := zeros 32
  custKeyHash := zeros 32
  custRequired := false
  svn := 0
  stepping := 1
  disabled := [60, 61, 62, 63]

/-- An empty inter-island queue. -/
def Iiq.empty0 (num island : Nat) (formed : Bool) : Iiq where
  num := num
  logDepth := 4
  store := []
  wptr := 0
  rptr := 0
  wptrAtReader := 0
  rptrAtWriter := 0
  full := false
  empty := true
  producerWords := formed
  island := island
  heldBack := []
  midWrite := false
  midRead := false
  dropping := false
  flushing := false
  discarded := 0
  lastRead := none
  uncorrected := false

/-- The inter-island queues: for each island i other than the cols (R14), queue 2i from it to the cols and queue 2i + 1 back. The data words of ridges, memory ports and link groups carry check words of
the producing unit (R350, R397); those of the control and management islands are formed by the sending block (DESIGN CHOICE, log 78). -/
def resetIiqs : List Iiq :=
  ((List.range 107).filter (· ≠ 64)).flatMap (fun i =>
    let formed := !(decide (i = 65) || decide (i = 66))
    [Iiq.empty0 (2 * i) 64 formed, Iiq.empty0 (2 * i + 1) i formed])

/-- A memory port before its training. -/
def MemPort.blank (n : Nat) : MemPort where
  num := n
  present := false
  refresh := 0
  sensorFault := false
  implausible := 0
  plausible := 0
  lastTemp := none
  retraining := false
  retrainPending := false
  trainedMargin := 0
  measuredMargin := 0
  remapFull := false
  remaps := []
  badSpares := []
  remapQueue := []
  remapDrops := 0
  counts := []
  addBuffer := []
  corr := 0
  poison := 0
  uncorr := 0

/-- A ridge before the boot step RIDGES: it runs in register mode until its scratch has passed test (R160). -/
def Ridge.blank (n : Nat) : Ridge where
  num := n
  enabled := false
  matrixOn := false
  waking := false
  registerMode := true
  stretching := false
  droops := 0

/-- A lane that nothing has happened to. -/
def Lane.blank (n : Nat) : Lane where
  num := n
  inverted := false
  removed := false
  pendingRemove := false
  pendingRejoin := false
  corr := 0
  uncorr := 0
  lockLoss := 0

/-- No queue exists before READY (R34). -/
def Queues.reset : Queues where
  subs := []
  resps := []
  lastServed := 0
  turnBase := 0
  turnPos := 0
  err := ⟨0, false, false, false, false, false, false⟩
  memory := []
  nextId := 0
  cmds := []

/-- No plan; the deadlines of R52. -/
def Plans.reset : Plans where
  store := []
  step := none
  stepNo := 0
  deadlines := [100000, 50000, 20000, 200000, 1000000, 10000, 10000000, 300000000, 1000000, 1000000, 100000, 10000000]
  barrierDeadline := 200000
  barrier := none
  earlyFlags := []

/-- No job, shard or table; the rebuild floor of R103. -/
def Graph.reset : Graph where
  job := none
  ranks := none
  shards := []
  ftables := []
  aliasFloor := 2
  hops := []
  gathers := []
  held := []
  nextTag := 0

/-- Wide precision on (R189); the two shared counter sets (R192, R193); the monitor as R200 states. -/
def Numerics.reset : Numerics where
  wideState := true
  wideReduce := true
  pendingReduce := none
  poolAddr := 0
  poolSize := 0
  histories := []
  sets := [⟨0xFE, 0, 0, 0, 0⟩, ⟨0xFF, 0, 0, 0, 0⟩]
  missBit := false
  nonfiniteBit := false
  ratioBit := false
  stallBit := false
  eventCode := 0
  eventTag := 0
  nonfinite := 0
  flush := 0
  miss := 0
  ratio := ⟨0x33800000, 0x3D000000, 64, true, false, 0, none⟩
  pendingRatio := none
  tags := []

/-- The settings of R302. -/
def EmbedPolicy.reset : EmbedPolicy where
  detMerge := false
  oneStale := false
  pinRepl := false
  pinOwner := false
  migMax := 64
  replOn := 0x40800000
  replOff := 0x40000000
  migOn := 0x42000000
  replMax := 4096
  relocMax := 262144
  merge := 0
  mergeSize := 0
  serveLog := 0
  serveLogSize := 0

/-- No embedding table. -/
def Embed.reset : Embed where
  tables := []
  policy := EmbedPolicy.reset
  pendingPolicy := none
  accums := []
  replicas := []
  reloc := []
  pendingReloc := []
  forwards := []
  guests := []
  lookupLogs := []
  serveLogs := []
  subs := []
  asked := []
  refused := []
  migrated := []
  migrating := []
  notices := []
  sketch := []
  top := []
  issueCount := 0

/-- No port, no presence (R571); the policy of R363, MARGINAL the FP32 value nearest to 10^-4. -/
def Link.reset : Link where
  ports := []
  lanes := (List.range 64).map Lane.blank
  present := 0
  changed := 0
  noPath := 0
  hopLimitDrops := 0
  routes := []
  pendingRoutes := []
  policy := ⟨[4, 2, 4, 2, 1], 64, 10, false, 0x38D1B717, 16, 0, 0⟩
  pendingPolicy := none
  reasm := []
  delivered := []
  nextBatch := []
  posted := 0
  replayCounts := []
  replayedCells := []
  escapes := []

/-- The grid of R366. -/
def Colls.reset : Colls where
  dims := [1]
  det := false
  chunkKiB := 64
  stage := 0
  stageSize := 0
  nextId := []
  jobs := []
  early := []

/-- Pace and halt registers at 0 (R385, R391). -/
def HaltPace.reset : HaltPace where
  ownTag := 0
  slowRank := 0
  slowTag := 0
  paceStep := 0
  waits := [0, 0, 0, 0, 0]
  stepWaits := [0, 0, 0, 0, 0]
  topTag := 0
  halted := false
  hops := 0
  cause := 0
  origin := 0
  status := 0
  port := 0
  self := false
  step := 0
  dropped := 0

/-- No port present; the weights of R406, the settings of R417, the scrub period an hour (R414). -/
def Gddr.reset : Gddr where
  density := 2
  clamshell := true
  rate := 0
  ports := (List.range 24).map MemPort.blank
  weights := [16, 16, 16, 16, 4, 1]
  pendingWeights := none
  minRefresh := 0
  threshold := 8
  pinRemap := false
  scrubPeriod := 3600
  lastPort := 0
  evRemapFull := false
  evRemap := false
  evRetrain := false
  evSensor := false
  evUncorr := false

/-- Memory with nothing listed; DIRECT 8 (R424) and STACK 8 (R585). -/
def Memory.reset : Memory where
  cells := []
  errs := []
  direct := 8
  stack := 8
  lines := []
  held := []
  bursts := []
  quarantine := [none, none, none, none]
  withdrawn := []
  flagged := []
  bankCorr := []
  copying := []
  scratch := []
  slices := []
  queueCorr := 0
  queueUncorr := 0
  lastIsland := 0
  iiqs := resetIiqs

/-- Power, clock and thermal state: caps of R454, ICC_LIMIT of R456, clock bounds of R458, the rail at 0.75 V (R573), the gain at 1. -/
def Power.reset : Power where
  cap := 900
  icc := 1100
  staezCap := 900
  boardCap := none
  fMin := 48
  fMax := 120
  pin := false
  pinGuard := false
  freq := 0
  target := 0
  raiseTo := none
  railReported := false
  droop := false
  rail := 3 / 4
  gain := 1
  calFallback := false
  calBad := 0
  calGood := 0
  lastAmps := none
  lastReadings := []
  lastEst := 0
  guard := 0
  bubble := 0
  pEst := 0
  estWindow := []
  pUnb := 0
  ridgeDyn := 0
  lastCounts := []
  measured := 0
  overAmps := 0
  sensors := List.replicate 168 ⟨none, 0, 0, false⟩
  tj := 0
  hottest := 0
  throttle := false
  limit := false
  thermalCode := 132
  hints := []
  cause := 0
  evCapUnmet := false
  evGuard := false
  evSensor := false
  evCal := false
  evLimit := false
  evThrottle := false

/-- The settings of R476 and the registers of R500. -/
def Health.reset : Health where
  scratchPeriod := 8
  cachePeriod := 4
  quarLimit := 64
  testShare := 10
  pinQuar := false
  pinRetire := false
  testing := []
  mismatched := []
  recopy := []
  telemDrop := false
  testFail := false
  quarantined := false
  poison := false
  enableHi := 0xFF
  enableLo := 3
  ring := none
  head := 0
  headLag := 0
  tail := 0
  drop := 0
  seq := 0
  counts := ⟨[], [], 0, 0, 0, 0⟩

/-- In reset, after a power-on reset (R578); the registers of R526 at 0. -/
def Boot.reset : Boot where
  inReset := true
  resetCause := 0
  policyReset := false
  state := .booting
  step := 0
  running := false
  path := 0
  fails := 0
  endedOk := []
  slot := false
  trial := false
  bootSeq := 0
  outcome := 0
  code := 0
  ridgeCount := 0
  portCount := 0
  chipId := 0xFFFF
  staez := []
  imageSvn := 0
  imageHeader := []

/-- Measurement slots of zeros, no challenge, locked (R536, R539). -/
def Sec.reset : Sec where
  slots := List.replicate 8 (zeros 32)
  challenge := none
  level := 0
  keyReady := false
  image := .idle

/-- The registers of R555 and R558; MSI-X entries masked, as the PCIe standard resets them (PRESUMED, log 14). -/
def HostIf.reset : HostIf where
  locate := false
  attention := false
  parked := false
  park := false
  button := false
  buttonIgnored := false
  buttonHeld := false
  mboxOverrun := false
  resetKey := false
  bar0Size := false
  winRange := false
  winUncorr := false
  windowLo := 0
  windowHi := 0x20
  mboxReq := []
  mboxData := []
  mboxLen := 0
  mboxBusy := false
  mboxDone := false
  mboxReply := none
  msixTable := (List.range 64).map (fun i => (16 * i + 12, 1))
  bar0 := 0
  bar2 := 0
  d3hot := false
  signals := []
  resp := ⟨[], false, false, false⟩

/-- The management bus at rest (R561, R562). -/
def Mgt.reset : Mgt where
  mask := 0
  staging := zeros 512
  stagingState := 0
  stagingReason := 0
  stagingWrite := none
  cairnHi := zeros 32
  answer := none
  acked := false
  alertLow := false

/-- The chip as a power-on reset leaves it, before the release of reset (R578): its first boot step has not begun, its queue of commands is empty, its memory lists nothing. -/
def State.reset : State where
  pending := []
  queues := Queues.reset
  plans := Plans.reset
  graph := Graph.reset
  scatters := []
  matrix := ⟨[], []⟩
  num := Numerics.reset
  vec := ⟨[], 0, none⟩
  embed := Embed.reset
  update := ⟨[], none, []⟩
  link := Link.reset
  coll := Colls.reset
  halt := HaltPace.reset
  gddr := Gddr.reset
  mem := Memory.reset
  ridges := (List.range 64).map Ridge.blank
  power := Power.reset
  health := Health.reset
  streams := []
  fuses := Fuses.vendor
  flash := Flash.vendor
  boot := Boot.reset
  sec := Sec.reset
  host := HostIf.reset
  mgt := Mgt.reset
  trip := ⟨false, 0, 0, none, false⟩
  out := ⟨[], [], [], []⟩
  free := 0

end Sys2Proof.Machine
end

