-- ==== Sys2Proof/Machine/WordCode.lean ====
section
/-! DEFINITION. The word code of R436 and R437 over GF(2^8), and the poison pattern of R438. -/
namespace Sys2Proof.Machine

/-- Multiplication by α = 2 in GF(2^8) with x^8 + x^4 + x^3 + x^2 + 1. -/
def gfDouble (a : Nat) : Nat := if a < 128 then 2 * a else (2 * a - 256) ^^^ 0x1D

/-- Multiplication in GF(2^8), over the low n bits of b. -/
def gfMulBits : Nat → Nat → Nat → Nat
  | 0, _, _ => 0
  | n + 1, a, b => (if b % 2 = 1 then a else 0) ^^^ gfMulBits n (gfDouble a) (b / 2)

/-- Multiplication in GF(2^8). -/
def gfMul (a b : Nat) : Nat := gfMulBits 8 a b

/-- α^k. -/
def gfPow : Nat → Nat
  | 0 => 1
  | k + 1 => gfDouble (gfPow k)

/-- The syndrome S_k = C(α^k) of the listed symbols (R437). -/
def syndrome (k : Nat) (syms : List (Nat × Byte)) : Nat :=
  syms.foldl (fun a s => a ^^^ gfMul s.2.toNat (gfPow (k * s.1))) 0

/-- What decoding finds (R437). -/
inductive WordState where
  | clean
  | corrected (pos : Nat) (err : Byte)
  | uncorrectable
  deriving DecidableEq, Repr, Inhabited

/-- The state of the word whose listed symbols are not 0 (or of its error pattern: the code is linear). -/
def wordState (syms : List (Nat × Byte)) : WordState :=
  let s0 := syndrome 0 syms
  let s1 := syndrome 1 syms
  let s2 := syndrome 2 syms
  let s3 := syndrome 3 syms
  if s0 = 0 ∧ s1 = 0 ∧ s2 = 0 ∧ s3 = 0 then .clean
  else match (List.range 36).find? (fun l => s0 ≠ 0 && s1 = gfMul s0 (gfPow l) && s2 = gfMul s0 (gfPow (2 * l)) && s3 = gfMul s0 (gfPow (3 * l))) with
    | some l => .corrected l (BitVec.ofNat 8 s0)
    | none => .uncorrectable

/-- The coefficients g0 to g3 of g(x) = (x + 1)(x + α)(x + α²)(x + α³) (R436); g4 is 1. -/
def genPoly : List Nat :=
  (List.range 4).foldl (fun g k =>
    let r := gfPow k
    (List.range (g.length + 1)).map (fun i => (if i = 0 then 0 else nth g (i - 1) 0) ^^^ gfMul r (nth g i 0))) [1]

/-- The four check bytes q0 to q3 of 32 data bytes: the remainder of the data polynomial times x^4 by g (R436). -/
def checkBytes (data : List Byte) : List Byte :=
  let g := genPoly
  let rem := data.reverse.foldl (fun (r : List Nat) b =>
    let top := nth r 3 0 ^^^ b.toNat
    (List.range 4).map (fun i => (if i = 0 then 0 else nth r (i - 1) 0) ^^^ gfMul top (nth g i 0))) [0, 0, 0, 0]
  rem.map (BitVec.ofNat 8 ·)

/-- The 36 symbols of a word: check bytes first, then data (R436). -/
def wordSymbols (data : List Byte) : List Byte := checkBytes data ++ data

/-- The symbols of a word with their positions. -/
def positions (syms : List Byte) : List (Nat × Byte) := (syms.zipIdx).map (fun p => (p.2, p.1))

/-- A decoded word: its state and its 32 data bytes, corrected where a single symbol was wrong. -/
def decodeWord (syms : List Byte) : WordState × List Byte :=
  let st := wordState (positions syms)
  match st with
  | .corrected l e => (st, (syms.set l (syms.getD l 0 ^^^ e)).drop 4)
  | _ => (st, syms.drop 4)

/-- The poison pattern: eight times 0x7FE5_5AA5 (R438). -/
def poisonWord : List Byte := (List.replicate 8 [0xA5, 0x5A, 0xE5, 0x7F]).flatten

/-- A word that reads as poisoned. -/
def isPoison (data : List Byte) : Bool := data == poisonWord

end Sys2Proof.Machine
end

