-- ==== Sys2Proof/Machine/Ops.lean ====
section
/-! DEFINITION. The shared operations: ridge numbering, the address windows and map (R396, R420), reading and writing device memory under the word code, counters and chosen rows, poisoning,
telemetry records, the fault wave and the halt of a chip, barrier-independent queries, and the error summary. -/
namespace Sys2Proof.Machine

/-! ### Ridges -/

/-- The physical numbers of the enabled ridges, ascending: logical ridge r is the r-th (R9). -/
def State.enabled (s : State) : List Nat := (s.ridges.filter (·.enabled)).map (·.num)

/-- E, the count of enabled ridges. -/
def State.E (s : State) : Nat := s.enabled.length

/-- The physical number of a logical ridge: commands and plans name ridges by logical number alone (R11). -/
def State.physical (s : State) (r : Nat) : Nat := s.enabled.getD r 0

/-- The logical number of a physical ridge. -/
def State.logical (s : State) (p : Nat) : Nat := s.enabled.idxOf p

/-- A physical ridge's record. -/
def State.ridge? (s : State) (p : Nat) : Option Ridge := s.ridges.find? (fun r => r.num == p)

/-- The state with a physical ridge's record changed. -/
def State.updRidge (s : State) (p : Nat) (f : Ridge → Ridge) : State :=
  { s with ridges := mapWhere (fun r => r.num == p) f s.ridges }

/-! ### Steps and modes -/

/-- A step runs on this chip. -/
def State.stepRunning (s : State) : Bool := s.plans.step.isSome

/-- The chip is halted (R48). -/
def State.isHalted (s : State) : Bool := s.halt.halted

/-- Any plan is loaded. -/
def State.planLoaded (s : State) : Bool := !s.plans.store.isEmpty

/-- The chip ID in force: of the Staez image (R523). -/
def State.chipId (s : State) : W16 := s.boot.chipId

/-- Job size N and own rank (0 of 0 without a job). -/
def State.jobN (s : State) : Nat := (s.graph.job.getD (0, 0)).1
def State.rank (s : State) : Nat := (s.graph.job.getD (0, 0)).2

/-- The chip belongs to a job and has the rank table it needs (R582). -/
def State.jobReady (s : State) : Bool :=
  match s.graph.job with
  | none => false
  | some (n, _) => decide (n = 1) || s.graph.ranks.isSome

/-- The chip ID of a rank; this chip's own for its own rank. -/
def State.rankChip (s : State) (r : Nat) : Nat :=
  if r = s.rank then s.chipId.toNat else (s.graph.ranks.getD []).getD r 0xFFFF

/-- The rank of a chip ID, if it is one of the job's. -/
def State.chipRank (s : State) (c : Nat) : Option Nat := (s.graph.ranks.getD []).findIdx? (· == c)

/-- A fresh value that the manual leaves open: the free counter, and the state with it advanced. -/
def State.draw (s : State) : Nat × State := (s.free, { s with free := s.free + 1 })

/-! ### Messages, interrupts -/

/-- Undefined contents: n bytes that the manual leaves open (R265, R271). -/
def freeBytes (draw n : Nat) : List Byte :=
  ((List.range (ceilDiv n 4)).flatMap (fun i => toLE 4 (Config.freeWord draw i).toNat)).take n

/-- A message leaves the chip. -/
def State.send (s : State) (m : Sent) : State := { s with out := { s.out with sent := s.out.sent ++ [m] } }

/-- An MSI-X vector is signalled. -/
def State.signal (s : State) (v : Nat) : State := { s with host := { s.host with signals := s.host.signals ++ [v] } }

/-! ### The GDDR-7 build and address map -/

/-- Present ports, ascending. -/
def State.presentPorts (s : State) : List Nat := (s.gddr.ports.filter (·.present)).map (·.num)

/-- C, the present channels (R394, R395). -/
def State.channels (s : State) : Nat := 4 * s.presentPorts.length

/-- Raw bytes of a channel: density in Gbit of each device, one or two devices per port, four channels (R392, R394). -/
def State.rawPerChannel (s : State) : Nat :=
  (nth [16, 24, 32] s.gddr.density 32) * 2 ^ 27 * (if s.gddr.clamshell then 2 else 1) / 4

/-- P and U of R394. -/
def State.physRows (s : State) : Nat := s.rawPerChannel / 2304
def State.usableRows (s : State) : Nat := s.physRows - s.physRows / 128

/-- Usable capacity in bytes (R394). -/
def State.capacity (s : State) : Nat := s.channels * s.usableRows * 2048

/-- The bases of the three windows (R420). -/
def scratchBase : Nat := 0x1000000000
def directBase : Nat := 0x1800000000
def gddrBase : Nat := 0x2000000000

/-- Bytes of scratch in use per ridge. -/
def scratchBytes : Nat := 0x1800000

/-- The direct region's size in bytes (R424). -/
def State.directBytes (s : State) : Nat := 8 * s.mem.direct * 2 ^ 20

/-- The reason for which R420 refuses a range of n bytes at an address, if it does: 0x94 scratch, 0x93 direct region, 0x90 GDDR-7, 0x97 no window. -/
def State.rangeReason (s : State) (a n : Nat) : Option Nat :=
  let last := a + max n 1
  if a < scratchBase then some 0x97
  else if a < directBase then
    let r := (a - scratchBase) / 0x2000000
    if decide (r < s.E) && decide (last ≤ scratchBase + r * 0x2000000 + scratchBytes) then none else some 0x94
  else if a < gddrBase then (if last ≤ directBase + s.directBytes then none else some 0x93)
  else if last ≤ gddrBase + s.capacity then none else some 0x90

/-- The address lies in GDDR-7, in the direct region, in scratch. -/
def inGddr (a : Nat) : Bool := decide (gddrBase ≤ a)
def inDirect (a : Nat) : Bool := decide (directBase ≤ a) && decide (a < gddrBase)
def inScratch (a : Nat) : Bool := decide (scratchBase ≤ a) && decide (a < directBase)

/-- Port, channel and physical row, before remapping, of a GDDR-7 address (R396). -/
def State.gddrPlace (s : State) (a : Nat) : Nat × Nat × Nat :=
  let c := max s.channels 1
  let line := (a - gddrBase) / 256
  let ch := line % c
  let r := line / c / 8
  (s.presentPorts.getD (ch / 4) 0, ch % 4, r + r / 127)

/-- Where a sector of GDDR-7 lies within its row (R396, R397): the bank of the row, the burst of its data, the burst of its check word and the first of that word's four bytes there. -/
structure SectorPlace where
  port : Nat
  channel : Nat
  row : Nat
  bank : Nat
  dataBurst : Nat
  checkBurst : Nat
  checkByte : Nat
  deriving DecidableEq, Repr, Inhabited

/-- The bank of a physical row (R396). -/
def bankOfRow (p : Nat) : Nat := (p % 16) ^^^ (p / 128 % 16)

/-- The physical row after remapping (R396, R411). -/
def State.remapRow (s : State) (port ch p : Nat) : Nat :=
  match s.gddr.ports.find? (fun m => m.num == port) with
  | none => p
  | some m => ((m.remaps.find? (fun e => e.channel == ch && e.row == p)).map (·.spare)).getD p

/-- The place of the sector at a GDDR-7 address (R396): port, channel, physical row after remapping, bank, data burst 0 to 63, check burst 64 to 71, and the bytes of that burst that hold its check word. -/
def State.sectorPlace (s : State) (a : Nat) : SectorPlace :=
  let g := s.gddrPlace a
  let off := a - gddrBase
  let cl := off / 256 / max s.channels 1
  let p := s.remapRow g.1 g.2.1 g.2.2
  ⟨g.1, g.2.1, p, bankOfRow p, 8 * (cl % 8) + off / 32 % 8, 64 + cl % 8, 4 * (off / 32 % 8)⟩

/-- The slice that holds an address of the direct region, or a GDDR-7 line (R424, R425). -/
def sliceOf (a : Nat) : Nat :=
  if inGddr a then
    let l := (a - gddrBase) / 256
    (l ^^^ (l / 8) ^^^ (l / 64)) % 8
  else (a - directBase) / 256 % 8

/-- The scratch bank of a scratch address (R421). -/
def bankOf (a : Nat) : Nat := (a - scratchBase) % 0x2000000 / 128 % 16

/-! ### Decoded reads -/

/-- What a read of a range found: its bytes, and the addresses of the 32-byte words that were corrected, poisoned and uncorrectable. -/
structure ReadRes where
  data : List Byte
  corrected : List Nat
  poisoned : List Nat
  uncorr : List Nat
  deriving DecidableEq, Repr, Inhabited

/-- One 32-byte word as its reader sees it. -/
def Memory.readWord (m : Memory) (wa : Nat) (raw : List Byte) : WordState × List Byte :=
  match m.errs.find? (fun e => e.1 == wa) with
  | none => (.clean, raw)
  | some (_, es) =>
    let bad := es.foldl (fun d p => if 4 ≤ p.1 then d.set (p.1 - 4) (d.getD (p.1 - 4) 0 ^^^ p.2) else d) raw
    match wordState es with
    | .corrected l e => (.corrected l e, if 4 ≤ l then bad.set (l - 4) (bad.getD (l - 4) 0 ^^^ e) else bad)
    | st => (st, bad)

/-- The words of a range of bytes: the address of each 32-byte word and what its reader sees. -/
def Memory.readWords (m : Memory) (a n : Nat) : List (Nat × WordState × List Byte) :=
  let first := a / 32 * 32
  let k := if n = 0 then 0 else (a + n + 31) / 32 - a / 32
  ((chunks 32 (cellRead m.cells first (32 * k))).zipIdx).map (fun (raw, i) =>
    let wa := first + 32 * i
    let r := m.readWord wa raw
    (wa, r.1, r.2))

/-- A word's state is uncorrectable, corrected. -/
def WordState.isBad : WordState → Bool
  | .uncorrectable => true
  | _ => false
def WordState.isFixed : WordState → Bool
  | .corrected _ _ => true
  | _ => false

/-- The read of n bytes at an address. -/
def Memory.read (m : Memory) (a n : Nat) : ReadRes :=
  let ws := m.readWords a n
  { data := ((ws.flatMap (·.2.2)).drop (a % 32)).take n
    corrected := (ws.filter (fun w => w.2.1.isFixed)).map (·.1)
    poisoned := (ws.filter (fun w => !w.2.1.isBad && isPoison w.2.2)).map (·.1)
    uncorr := (ws.filter (fun w => w.2.1.isBad)).map (·.1) }

/-- A read of the chip's memory. -/
def State.read (s : State) (a n : Nat) : ReadRes := s.mem.read a n

/-- Two reads together. -/
def ReadRes.append (x y : ReadRes) : ReadRes :=
  ⟨x.data ++ y.data, x.corrected ++ y.corrected, x.poisoned ++ y.poisoned, x.uncorr ++ y.uncorr⟩

/-- Nothing read. -/
def ReadRes.empty : ReadRes := ⟨[], [], [], []⟩

/-- Every word was clean or corrected, and none poisoned. -/
def ReadRes.good (r : ReadRes) : Bool := r.poisoned.isEmpty && r.uncorr.isEmpty

/-! ### Writes -/

/-- What a write met in the words that it covers only in part (R421): the words it had to leave poisoned, and the words it overwrote with poison because they were uncorrectable. -/
structure WriteRes where
  poisoned : List Nat
  uncorr : List Nat
  corrected : List Nat
  deriving DecidableEq, Repr, Inhabited

/-- Nothing met. -/
def WriteRes.none : WriteRes := ⟨[], [], []⟩
def WriteRes.append (x y : WriteRes) : WriteRes := ⟨x.poisoned ++ y.poisoned, x.uncorr ++ y.uncorr, x.corrected ++ y.corrected⟩

/-- The memory with whole words at 32-byte addresses replaced: their errors are gone. -/
def Memory.putWords (m : Memory) (a : Nat) (bs : List Byte) : Memory :=
  { m with
    cells := cellWrite m.cells a bs
    errs := m.errs.filter (fun e => decide (e.1 < a) || decide (a + bs.length ≤ e.1)) }

/-- A write within one word: whole, or merged (R421). -/
def Memory.writeWord (m : Memory) (wa off : Nat) (bs : List Byte) : Memory × WriteRes :=
  if bs.length = 32 then (m.putWords wa bs, .none)
  else
    let r := m.readWord wa (cellRead m.cells wa 32)
    if r.1.isBad then (m.putWords wa poisonWord, ⟨[], [wa], []⟩)
    else if isPoison r.2 then (m, ⟨[wa], [], []⟩)
    else (m.putWords wa (splice r.2 off bs), ⟨[], [], if r.1.isFixed then [wa] else []⟩)

/-- A write of any run of bytes: the first and last words may be partial. -/
def Memory.write (m : Memory) (a : Nat) (bs : List Byte) : Memory × WriteRes :=
  if bs.isEmpty then (m, .none) else
  let head := if a % 32 = 0 then [] else bs.take (32 - a % 32)
  let rest := bs.drop head.length
  let body := rest.take (rest.length / 32 * 32)
  let tail := rest.drop body.length
  let a1 := a + head.length
  let r1 := if head.isEmpty then (m, WriteRes.none) else m.writeWord (a / 32 * 32) (a % 32) head
  let m2 := if body.isEmpty then r1.1 else r1.1.putWords a1 body
  let r3 := if tail.isEmpty then (m2, WriteRes.none) else m2.writeWord (a1 + body.length) 0 tail
  (r3.1, r1.2.append r3.2)

/-- Every word of a range overwritten with the poison pattern (R489). -/
def Memory.poison (m : Memory) (a n : Nat) : Memory :=
  if n = 0 then m else
  let first := a / 32 * 32
  let k := (a + n + 31) / 32 - a / 32
  m.putWords first ((List.replicate k poisonWord).flatten)

/-! ### The caching region -/

/-- The set of a line in its slice (R425). -/
def Memory.lineSet (m : Memory) (l : Nat) : Nat × Nat :=
  let sets := (28 * 2 ^ 20 - 7 * 2 ^ 19 - m.direct * 2 ^ 20) / 4096
  ((l ^^^ (l / 8) ^^^ (l / 64)) % 8, if sets = 0 then 0 else l / 8 % sets)

/-- The 32-byte sectors of a range. -/
def sectorsOf (a n : Nat) : List Nat :=
  if n = 0 then [] else (List.range ((a + n + 31) / 32 - a / 32)).map (fun i => 32 * (a / 32 + i))

/-- The address of a GDDR-7 line. -/
def lineAddr (l : Nat) : Nat := gddrBase + 256 * l

/-- Writes of sectors wait at their channels (R404). -/
def Memory.hold (m : Memory) (ws : List Nat) : Memory :=
  if ws.isEmpty then m else { m with held := m.held ++ ws.filter (fun w => !m.held.contains w) }

/-- A line leaves the caching region: it is written back if dirty (R425). -/
def Memory.evict (m : Memory) (c : CLine) : Memory :=
  let m1 := { m with lines := m.lines.filter (fun d => d.line != c.line) }
  if c.dirty then m1.hold (sectorsOf (lineAddr c.line) 256) else m1

/-- A line becomes the most recently used; one that is not held is allocated when asked, in place of the least recently used way that is not pinned (R425, R426). The lines of replicas are counted apart, by
their bytes (R427). -/
def Memory.touch (m : Memory) (alloc write : Bool) (l : Nat) : Memory :=
  match m.lines.find? (fun c => c.line == l) with
  | some c => { m with lines := { c with dirty := c.dirty || write } :: m.lines.filter (fun d => d.line != l) }
  | none =>
    if !alloc then m else
    let set := m.lineSet l
    let same := m.lines.filter (fun c => m.lineSet c.line == set)
    let m1 := match if same.length < 16 then none else (same.filter (fun c => !c.pinned)).getLast? with
      | none => m
      | some v => m.evict v
    { m1 with lines := ⟨l, write, false⟩ :: m1.lines }

/-- The GDDR-7 lines that a range covers. -/
def linesOf (a n : Nat) : List Nat :=
  if !inGddr a || n = 0 then [] else
  let f := (a - gddrBase) / 256
  (List.range ((a - gddrBase + n + 255) / 256 - f)).map (· + f)

/-- Requester classes 0 and 2 and atomics allocate (R426). -/
def allocates (cls : Nat) : Bool := decide (cls = 0) || decide (cls = 2)

/-- The caching region after an access of a requester class to a range; sectors written past it wait at their channels. -/
def Memory.access (m : Memory) (cls : Nat) (write : Bool) (a n : Nat) : Memory :=
  let m1 := (linesOf a n).foldl (fun m l => m.touch (allocates cls) write l) m
  if write && inGddr a then m1.hold ((sectorsOf a n).filter (fun w => !m1.lines.any (fun c => c.line == (w - gddrBase) / 256))) else m1

/-- The check burst of a line is used (R397, R398): its channel's controller holds the 64 that were used last. Each line has one check burst, which the line's number names; c is the number of channels. -/
def Memory.useBurst (c : Nat) (m : Memory) (l : Nat) : Memory :=
  let rest := m.bursts.filter (· != l)
  let own := rest.filter (fun k => k % c == l % c)
  { m with bursts := l :: (if own.length < 64 then rest else match own.getLast? with
    | some k => rest.filter (· != k)
    | none => rest) }

/-- Channels read or write lines: their check bursts are used. -/
def State.useBursts (s : State) (ls : List Nat) : State := { s with mem := ls.foldl (Memory.useBurst (max s.channels 1)) s.mem }

/-- An access of a requester class to a range: the caching region follows it, and the lines that it does not hold are read from their channels, but for those that are only written past it (R398, R425, R426). -/
def State.access (s : State) (cls : Nat) (write : Bool) (a n : Nat) : State :=
  let missed := if write && !allocates cls then [] else (linesOf a n).filter (fun l => !s.mem.lines.any (·.line == l))
  ({ s with mem := s.mem.access cls write a n }).useBursts missed

/-! ### Telemetry -/

/-- The header and body of a record in the ring (R482): the cycle count is a free value. -/
def TelemRec.bytes (r : TelemRec) (draw i : Nat) : List Byte :=
  toLE 2 r.ty ++ toLE 1 (r.body.length / 32) ++ toLE 1 r.island ++ toLE 4 r.step.toNat ++ toLE 4 (Config.freeWord draw i).toNat ++ toLE 4 (Config.freeWord draw (i + 1)).toNat
    ++ toLE 2 r.seq.toNat ++ [r.action, r.cause] ++ zeros 12 ++ r.body

/-- A record is dropped and counted (R481). -/
def State.telemDropped (s : State) : State :=
  { s with health := { s.health with drop := satAdd32 s.health.drop 1, telemDrop := true, seq := s.health.seq + 1 } }

/-- A telemetry record is produced (R481): written at HEAD, after a pad record where it does not fit before the end of the ring, or dropped. Whether it would exceed TELEM_RATE depends on time: a free choice. -/
def State.telem (s : State) (ty island : Nat) (action cause : Nat) (body : List Byte) : State :=
  match s.health.ring with
  | none => s.telemDropped
  | some (base, n, _, mask) =>
    let units := 2 ^ n / 32
    let len := 1 + body.length / 32
    let pos := s.health.head.toNat % units
    let pad := if pos + len ≤ units then 0 else units - pos
    let used := (s.health.head - s.health.tail).toNat
    if !mask.getLsbD ty || decide (units < used + pad + len) then s.telemDropped
    else
      let (f, s) := s.draw
      if (Config.freeWord f 4).toNat % 2 = 1 then s.telemDropped else
      let stepNo := s.plans.stepNo.setWidth 32
      let padRec : TelemRec := ⟨0, island, stepNo, s.health.seq, 0, 0, zeros (32 * (pad - 1))⟩
      let rec1 : TelemRec := ⟨ty, island, stepNo, s.health.seq, BitVec.ofNat 8 action, BitVec.ofNat 8 cause, body⟩
      let m1 := if pad = 0 then s.mem else s.mem.putWords (base + 32 * pos) (padRec.bytes f 0)
      let at1 := base + 32 * ((pos + pad) % units)
      { s with
        mem := m1.putWords at1 (rec1.bytes f 2)
        health := { s.health with head := s.health.head + BitVec.ofNat 32 (pad + len), headLag := s.health.headLag + pad + len, seq := s.health.seq + 1 } }

/-- A decision record (R483, R484): the policy, the object and up to six values, by the management island. -/
def State.decision (s : State) (policy obj : Nat) (vals : List Nat) (action cause : Nat) : State :=
  s.telem 3 66 action cause (toLE 2 policy ++ zeros 2 ++ toLE 4 obj ++ padTo 24 (vals.flatMap (toLE 4)))

/-! ### Counts of reads -/

/-- The counters of one place changed. -/
def bumpErr (xs : List (Nat × ErrCount)) (k c p u : Nat) : List (Nat × ErrCount) :=
  let e := assocGet xs k ⟨0, 0, 0⟩
  assocSet xs k ⟨satAdd32 e.corr c, satAdd16 e.poison p, satAdd16 e.uncorr u⟩

/-- A port's record changed. -/
def State.updMemPort (s : State) (p : Nat) (f : MemPort → MemPort) : State :=
  { s with gddr := { s.gddr with ports := mapWhere (fun m => m.num == p) f s.gddr.ports } }

/-- A row is chosen for remapping (R410 to R412): queued behind at most 16 more, dropped and counted when the queue is full, or only logged with PIN_REMAP. -/
def State.chooseRow (s : State) (port ch row : Nat) : State :=
  match s.gddr.ports.find? (fun m => m.num == port) with
  | none => s
  | some m =>
    if s.gddr.pinRemap then s.decision 3 port [row, 0, assocGet m.counts (ch, row) 0] 1 0
    else if m.remapQueue.any (· == (ch, row)) then s
    else if m.remapQueue.length < 17 then s.updMemPort port (fun m => { m with remapQueue := m.remapQueue ++ [(ch, row)] })
    else (s.updMemPort port (fun m => { m with remapDrops := satAdd32 m.remapDrops 1 })).decision 3 port [row, 0, assocGet m.counts (ch, row) 0] 2 0

/-- One correction counted against a physical row: the port tracks 512 rows, most recently counted first (R410). -/
def State.countRow (s : State) (port ch row : Nat) : State :=
  match s.gddr.ports.find? (fun m => m.num == port) with
  | none => s
  | some m =>
    let c := assocGet m.counts (ch, row) 0 + 1
    let s := s.updMemPort port (fun m => { m with counts := (((ch, row), c) :: m.counts.filter (fun e => e.1 != (ch, row))).take 512 })
    if s.gddr.threshold ≤ c then s.chooseRow port ch row else s

/-- MEM_EVENT takes an event of a port (R419). -/
def State.memEvent (s : State) (port : Nat) (f : Gddr → Gddr) : State :=
  { s with gddr := { f s.gddr with lastPort := BitVec.ofNat 5 port } }

/-- A ridge is recorded for retirement at the next start (R169, R474, R479, R480, R520). -/
def State.retirePending (s : State) (phys test cause : Nat) : State :=
  ({ s with flash := { s.flash with retire := { s.flash.retire with
      seq := s.flash.retire.seq + 1
      ridgesPending := s.flash.retire.ridgesPending ||| (1 <<< phys : W64) } } }).decision 12 phys [test] 0 cause

/-- The values of a bank's decision record (R484): bank, corrections of this period, uncorrectable words of its ridge. -/
def State.bankValues (s : State) (phys bank : Nat) : List Nat :=
  [bank, assocGet s.mem.bankCorr (phys, bank) 0, (assocGet s.mem.scratch phys ⟨0, 0, 0⟩).uncorr.toNat]

/-- A bank is flagged for quarantine (R474), once; with PIN_QUAR the flag is only logged. -/
def State.flagBank (s : State) (phys bank : Nat) : State :=
  let s := { s with health := { s.health with quarantined := true } }
  if s.health.pinQuar then s.decision 11 phys (s.bankValues phys bank) 1 0
  else if s.mem.flagged.any (· == (phys, bank)) || s.mem.quarantine.any (· == some (phys, bank)) then s
  else ({ s with mem := { s.mem with flagged := s.mem.flagged ++ [(phys, bank)] } }).decision 11 phys (s.bankValues phys bank) 0 0

/-- The counts that follow from a corrected word (R439, R410, R474). -/
def State.noteCorrected (s : State) (wa : Nat) : State :=
  if inGddr wa then
    let (port, ch, p) := s.gddrPlace wa
    (s.updMemPort port (fun m => { m with corr := satAdd32 m.corr 1 })).countRow port ch (s.remapRow port ch p)
  else if inScratch wa then
    let ph := s.physical ((wa - scratchBase) / 0x2000000)
    let k := (ph, bankOf wa)
    let c := assocGet s.mem.bankCorr k 0 + 1
    let s := { s with mem := { s.mem with scratch := bumpErr s.mem.scratch ph 1 0 0, bankCorr := assocSet s.mem.bankCorr k c } }
    if c = s.health.quarLimit then s.flagBank ph (bankOf wa) else s
  else { s with mem := { s.mem with slices := bumpErr s.mem.slices (sliceOf wa) 1 0 0 } }

/-- The counts that follow from an uncorrectable word (R410, R439, R474). -/
def State.noteUncorr (s : State) (wa : Nat) : State :=
  if inGddr wa then
    let (port, ch, p) := s.gddrPlace wa
    (((s.updMemPort port (fun m => { m with uncorr := satAdd16 m.uncorr 1 })).memEvent port
      (fun g => { g with evUncorr := true })).chooseRow port ch (s.remapRow port ch p))
  else if inScratch wa then
    let ph := s.physical ((wa - scratchBase) / 0x2000000)
    ({ s with mem := { s.mem with scratch := bumpErr s.mem.scratch ph 0 0 1 } }).flagBank ph (bankOf wa)
  else { s with mem := { s.mem with slices := bumpErr s.mem.slices (sliceOf wa) 0 0 1 } }

/-- The counts that follow from a poisoned word. -/
def State.notePoisoned (s : State) (wa : Nat) : State :=
  let s := { s with health := { s.health with poison := true } }
  if inGddr wa then
    let (port, _, _) := s.gddrPlace wa
    s.updMemPort port (fun m => { m with poison := satAdd16 m.poison 1 })
  else if inScratch wa then
    { s with mem := { s.mem with scratch := bumpErr s.mem.scratch (s.physical ((wa - scratchBase) / 0x2000000)) 0 1 0 } }
  else { s with mem := { s.mem with slices := bumpErr s.mem.slices (sliceOf wa) 0 1 0 } }

/-- A corrected word is written back (R410, R439). -/
def Memory.repair (m : Memory) (wa : Nat) : Memory :=
  let r := m.readWord wa (cellRead m.cells wa 32)
  if r.1.isFixed then m.putWords wa r.2 else m

/-- Everything that a demand read leaves behind: the lines it touched, corrected words repaired and counted, poisoned and uncorrectable words counted. -/
def State.noteRead (s : State) (cls a n : Nat) : State :=
  let r := s.read a n
  let s := s.access cls false a n
  let s := r.corrected.foldl (fun s wa => ({ s with mem := s.mem.repair wa }).noteCorrected wa) s
  let s := r.poisoned.foldl State.notePoisoned s
  r.uncorr.foldl State.noteUncorr s

/-- Several reads, each an address and a length. -/
def State.noteReads (s : State) (cls : Nat) (rs : List (Nat × Nat)) : State := rs.foldl (fun s r => s.noteRead cls r.1 r.2) s

/-- Several reads without their counts: the union of what they found. -/
def State.readAll (s : State) (rs : List (Nat × Nat)) : ReadRes := rs.foldl (fun a r => a.append (s.read r.1 r.2)) .empty

/-- A write by a command, with the counts that follow. -/
def State.store (s : State) (cls a : Nat) (bs : List Byte) : State × WriteRes :=
  let r := s.mem.write a bs
  let s := ({ s with mem := r.1 }).access cls true a bs.length
  let s := r.2.corrected.foldl State.noteCorrected s
  let s := r.2.poisoned.foldl State.notePoisoned s
  (r.2.uncorr.foldl State.noteUncorr s, r.2)

/-- Several writes in order. -/
def State.storeAll (s : State) (cls : Nat) (ws : List (Nat × List Byte)) : State × WriteRes :=
  ws.foldl (fun acc w => let r := acc.1.store cls w.1 w.2; (r.1, acc.2.append r.2)) (s, .none)

/-- Output ranges marked poisoned (R489). -/
def State.poisonRanges (s : State) (cls : Nat) (rs : List (Nat × Nat)) : State :=
  rs.foldl (fun s r => ({ s with mem := s.mem.poison r.1 r.2 }).access cls true r.1 r.2) s

/-! ### Status codes, results -/

/-- The status codes of R49. -/
def stOK : Byte := 0x00
def stNote : Byte := 0x01
def stBadOpcode : Byte := 0x10
def stBadParam : Byte := 0x11
def stBadAlign : Byte := 0x12
def stNoResource : Byte := 0x13
def stBusy : Byte := 0x14
def stDeferred : Byte := 0x15
def stTimeout : Byte := 0x20
def stOverfull : Byte := 0x30
def stIndexRange : Byte := 0x31
def stTenureStale : Byte := 0x32
def stStepMismatch : Byte := 0x33
def stLongSum : Byte := 0x34
def stPoisoned : Byte := 0x40
def stUncorrected : Byte := 0x41
def stAuthFail : Byte := 0x50
def stHalted : Byte := 0x60

/-- DETAIL with a reason in [55:48] and a value in [47:32] (R32). -/
def detailOf (reason low : Nat) : BitVec 24 := BitVec.ofNat 24 (reason % 256 * 65536 + low % 65536)

/-- A result with a status and DETAIL. -/
def resOf (st : Byte) (reason low : Nat) : Result := ⟨st, 0, detailOf reason low, 0, 0, 0⟩

/-- Completed. -/
def resOK : Result := ⟨0, 0, 0, 0, 0, 0⟩

/-- Completed with a value in INDEX. -/
def resIndex (n : Nat) : Result := ⟨0, 0, 0, BitVec.ofNat 32 (min n 0xFFFFFFFF), 0, 0⟩

/-- BAD_PARAM with a reason and the byte offset of the field. -/
def badParam (reason off : Nat) : Result := resOf stBadParam reason off
def badAlign (off : Nat) : Result := resOf stBadAlign 0 off

/-- A status alone. -/
def resStatus (st : Byte) : Result := resOf st 0 0

/-- The status of a result is not a success. -/
def Result.failed (r : Result) : Bool := r.status != stOK && r.status != stNote

/-- The status that reads of operands leave: UNCORRECTED before POISONED. -/
def readStatus (r : ReadRes) : Option Result :=
  if !r.uncorr.isEmpty then some (resStatus stUncorrected)
  else if !r.poisoned.isEmpty then some (resStatus stPoisoned) else none

/-- The status that partial writes leave (R421). -/
def writeStatus (w : WriteRes) : Option Result :=
  if !w.uncorr.isEmpty then some (resStatus stUncorrected)
  else if !w.poisoned.isEmpty then some (resStatus stPoisoned) else none

/-! ### Commands in flight -/

/-- The command with an id. -/
def State.cmd? (s : State) (id : Nat) : Option Cmd := s.queues.cmds.find? (fun c => c.id == id)

/-- The state with the stage of a command changed. -/
def State.setStage (s : State) (id : Nat) (st : Stage) : State :=
  { s with queues := { s.queues with cmds := mapWhere (fun c => c.id == id) (fun c => { c with stage := st }) s.queues.cmds } }

/-- Of these physical ridges, those whose ridge-matrix domain is off. -/
def State.switchedOff (s : State) (ph : List Nat) : List Nat :=
  ph.filter (fun p => match s.ridge? p with
    | some r => !r.matrixOn
    | none => false)

/-- The command waits until the domains of these physical ridges are on (R17, R447). -/
def State.wakeFor (s : State) (id : Nat) (ph : List Nat) : State :=
  (ph.foldl (fun s p => s.updRidge p (fun r => { r with waking := true })) s).setStage id .waking

/-- The opcode of a packet. -/
def opcodeOf (pkt : List Byte) : Nat := field pkt 0 2

/-- The flags of R29. -/
def flagFence (p : List Byte) : Bool := bitAt (field p 2 1) 7
def flagNoDefer (p : List Byte) : Bool := bitAt (field p 2 1) 6
def flagStaleOk (p : List Byte) : Bool := bitAt (field p 2 1) 5
def flagAccOpen (p : List Byte) : Bool := bitAt (field p 2 1) 4
def flagAccClose (p : List Byte) : Bool := bitAt (field p 2 1) 3
def flagQuiet (p : List Byte) : Bool := bitAt (field p 2 1) 2

/-- INDEX of a STEP.RUN in which no entry failed or noted (R32). -/
def noEntry : W32 := 0xFFFFFFFF

/-- The result with the INDEX that R32 gives a STEP.RUN of which no entry has run. -/
def Result.forCmd (r : Result) (c : Cmd) : Result := if opcodeOf c.pkt = 0xF010 then { r with index := noEntry } else r

/-- A command ends with a result; its reply is written later. -/
def State.endCmd (s : State) (id : Nat) (r : Result) : State :=
  { s with queues := { s.queues with cmds := mapWhere (fun c => c.id == id) (fun c => { c with stage := .ended (r.forCmd c) }) s.queues.cmds } }

/-- The result of a STEP.RUN whose step has run: its counts, and the first entry that noted unless one failed (R32, R66). -/
def StepRun.result (st : StepRun) (r : Result) (failed : Option Nat) : Result :=
  { r with
    index := match failed, st.firstNote with
      | some e, _ => BitVec.ofNat 32 e
      | none, some n => BitVec.ofNat 32 n.2
      | none, none => noEntry
    notes := st.notes
    skips := st.skips }

/-- A command is still in execution or waits for it. -/
def Stage.live : Stage → Bool
  | .ended _ => false
  | _ => true

/-- A command runs. -/
def Stage.isRunning : Stage → Bool
  | .running => true
  | _ => false

/-- The command is a plan entry. -/
def Cmd.entry? (c : Cmd) : Option Nat :=
  match c.src with
  | .plan e => some e
  | _ => none

/-! ### The entries of a step -/

/-- The branches whose entries an entry sees (R57). -/
def seenBranches (branch : Nat) : List Nat := if branch = 0xFF then 0xFF :: List.range 8 else [branch, 0xFF]

/-- The fence groups that an entry waits for: those of its WAIT_MASK, all of them with FENCE. -/
def waitGroups (e : PlanEntry) : List Nat := if flagFence e.pkt then List.range 16 else bitsSet e.waitMask.toNat 16

/-- An entry of a step in its place. -/
def StepRun.entry (st : StepRun) (i : Nat) : PlanEntry := st.plan.entries.getD i default
def StepRun.entryState (st : StepRun) (i : Nat) : EntryState := st.entries.getD i .waiting

/-- The waits of an entry are met (R57): every earlier entry that it sees, of a fence group it waits for, has completed. -/
def StepRun.waitsMet (st : StepRun) (i : Nat) : Bool :=
  let e := st.entry i
  (List.range i).all (fun k => !(seenBranches e.branch).contains (st.entry k).branch || !(waitGroups e).contains (st.entry k).doneGroup || st.entryState k == .done)

/-- The entry's turn within its group has come (R57): none before it in its own branch and fence group waits, and fewer than 64 run. R242 says that the group is the fence group. -/
def StepRun.turn (st : StepRun) (i : Nat) : Bool :=
  let own := (List.range i).filter (fun k => (st.entry k).branch == (st.entry i).branch && (st.entry k).doneGroup == (st.entry i).doneGroup)
  own.all (fun k => st.entryState k != .waiting) && decide ((own.filter (fun k => st.entryState k != .done)).length < 64)

/-- The stage of an entry may start (R18): row updates (stage 8b) wait for the scatter barrier. The other stages wait as the plan's own waits state. -/
def StepRun.stageMet (st : StepRun) (i : Nat) : Bool := opcodeOf (st.entry i).pkt != 0x6020 || st.scatterPassed

/-- An entry runs, or could: the barrier's own entry is none such (R384). -/
def StepRun.runnable (st : StepRun) (barrier : Option Nat) : Bool :=
  (List.range st.entries.length).any (fun i => match st.entryState i with
    | .running id => barrier != some id
    | .waiting => st.waitsMet i && st.turn i && st.stageMet i
    | .done => false)

/-- The ridge clocks are gated (R384): the chip has sent its up flag, waits for the down flag, and has no runnable entry. -/
def State.ridgesGated (s : State) : Bool :=
  match s.plans.step, s.plans.barrier with
  | some st, some b => b.sentUp && !b.passed && !st.runnable b.cmd
  | _, _ => false

/-! ### The fault wave and the halt -/

/-- Families served on a halted chip: SYS, CFG, HEALTH, TELEM, SEC (R48), by the top digit of the opcode. -/
def haltServed (family : Nat) : Bool := family == 0 || family == 1 || family == 0xB || family == 0xE || family == 0xD

/-- The ports that are UP and whose peer is a rank of the job (R388). -/
def State.rankPorts (s : State) : List Nat :=
  (s.link.ports.filter (fun p => p.state == .up && (s.chipRank p.peer.toNat).isSome)).map (·.num)

/-- A command of a halting chip (R48, R389): a running command ends with HALTED, and so does one not started of a family that is not served on a halted chip. -/
def haltCmd (step : Option StepRun) (c : Cmd) : Cmd :=
  let halted : Result := match step with
    | some st => if st.cmd = c.id then st.result (resStatus stHalted) none else (resStatus stHalted).forCmd c
    | none => (resStatus stHalted).forCmd c
  match c.stage with
  | .running => { c with stage := .ended halted }
  | .ended _ => c
  | _ => if haltServed (opcodeOf c.pkt / 4096) then c else { c with stage := .ended halted }

/-- The updates under way as a halt leaves them (R327): of each run of records that such an update wrote, a free choice says whether it holds the new bytes or the old ones again. -/
def State.mixFlights (s : State) : State :=
  let live := s.update.flights.filter (fun f => (s.cmd? f.cmd).isSome)
  if live.isEmpty then { s with update := { s.update with flights := [] } }
  else
    let d := s.draw
    let back := ((live.reverse.flatMap (·.old)).zipIdx).filter (fun w => (Config.freeWord d.1 w.2).getLsbD 0)
    { d.2 with
      mem := back.foldl (fun m w => (m.write w.1.1 w.1.2).1) d.2.mem
      update := { d.2.update with flights := [] }
      queues := { d.2.queues with cmds := mapWhere (fun c => live.any (fun f => f.cmd == c.id)) (fun c => { c with stage := .ended ((resStatus stHalted).forCmd c) }) d.2.queues.cmds } }

/-- Byte ranges whose contents the manual leaves open become free values. -/
def State.openRanges (s : State) (rs : List (Nat × Nat)) : State :=
  rs.foldl (fun s r => let d := s.draw; { d.2 with mem := (d.2.mem.write r.1 (freeBytes d.1 r.2)).1 }) s

/-- The outputs of the collectives that a halt ends are undefined (R378). -/
def State.openColls (s : State) : State := s.openRanges (s.coll.jobs.flatMap (·.outs))

/-- A shard whose rebuilt alias table has become current (R104). -/
def Shard.swapped (x : Shard) : Shard := { x with currentB := !x.currentB, stale := false, rebuild := .idle }

/-- The swaps that a halt brings are logged as any swap is (R104, R484). -/
def State.logSwaps (s : State) (xs : List Shard) : State := (xs.filter (fun x => x.rebuild == .waiting)).foldl (fun s x => s.decision 10 x.id [x.nodes] 0 1) s

/-- A step ends without its boundary: the sums that its updates had reached are no step's (R195). -/
def Numerics.sumsCleared (n : Numerics) : Numerics := { n with tags := n.tags.map (fun t => { t with g := 0, u := 0, w := 0, seen := false }) }

/-- The chip halts (R48, R389): commands and step end, the entries of the step with it, groups are discarded, no barrier and no queue deletion waits, updates under way are left mixed (R327), the outputs of collectives are undefined (R378), and a finished
alias rebuild becomes current, as no step runs any more (R104). Its plans and settings stay. -/
def State.haltChip (s0 : State) (h : HaltPace) : State :=
  let s := s0.mixFlights.openColls
  ({ s with
    halt := h
    queues := { s.queues with
      cmds := (s.queues.cmds.filter (fun c => c.entry?.isNone)).map (haltCmd s.plans.step)
      subs := s.queues.subs.map (fun q => { q with deleting := none }) }
    plans := { s.plans with step := none, barrier := none, earlyFlags := [] }
    graph := { s.graph with hops := [], gathers := [], held := [], shards := mapWhere (fun x => x.rebuild == .waiting) Shard.swapped s.graph.shards }
    scatters := []
    matrix := { s.matrix with groups := [] }
    num := s.num.sumsCleared
    coll := { s.coll with jobs := [], early := [] }
    streams := []
    out := { s.out with batches := [] } } : State).logSwaps s.graph.shards

/-- A console line (R565); the time since the release of reset is a free value where the command does not bring it. -/
def State.consoleAt (s : State) (elapsed : W64) (w : UartWhat) : State :=
  { s with out := { s.out with uart := s.out.uart ++ [⟨s.boot.bootSeq, elapsed, w⟩] } }
def State.console (s : State) (w : UartWhat) : State :=
  let d := s.draw
  d.2.consoleAt (Config.freeWord d.1 0 ++ Config.freeWord d.1 1) w

/-- The halt telemetry record (R483): HST_HALT, HST_HALT_DETAIL, HST_HALT_STEP. -/
def haltWord (h : HaltPace) : Nat := bnat h.halted * 2 ^ 31 + h.hops.toNat * 2 ^ 24 + h.cause.toNat * 2 ^ 16 + h.origin.toNat
def haltDetailWord (h : HaltPace) : Nat := h.status.toNat * 2 ^ 24 + h.port.toNat * 2 ^ 18 + bnat h.self * 2 ^ 17
def haltBody (h : HaltPace) : List Byte := toLE 4 (haltWord h) ++ toLE 4 (haltDetailWord h) ++ toLE 4 h.step.toNat ++ zeros 20

/-- This chip detects a fatal fault: as origin it halts itself and sends a halt cell on every rank port (R388). A chip already halted stays as it is. -/
def State.raiseWave (s : State) (cause : Byte) (status : Byte) : State :=
  if s.halt.halted then s else
  let stepNo := s.plans.stepNo.setWidth 32
  let h := { s.halt with halted := true, hops := 0, cause := cause, origin := s.chipId, status := status, port := 0, self := true, step := stepNo }
  let cell : HaltCell := ⟨s.chipId.toNat, 1, s.chipId.toNat, cause, status, stepNo⟩
  let ports := s.rankPorts
  let s := s.haltChip h
  let s := s.telem 4 65 0 0 (haltBody h)
  let s := s.console (.halt cause)
  ports.foldl (fun s p => s.send (.halt p cell)) s

/-! ### Quarantine of scratch banks -/

/-- The words of a scratch bank that hold an error. -/
def State.bankErrs (s : State) (phys bank : Nat) : List Nat :=
  (s.mem.errs.map (·.1)).filter (fun wa => inScratch wa && decide (s.physical ((wa - scratchBase) / 0x2000000) = phys) && decide (bankOf wa = bank))

/-- A word is copied to a stand-in region: a corrected word corrected, an uncorrectable one as poisoned (R474). -/
def Memory.copyWord (m : Memory) (wa : Nat) : Memory :=
  if (m.readWord wa (cellRead m.cells wa 32)).1.isBad then m.putWords wa poisonWord else m.repair wa

/-- The first stand-in region that is free and in service. -/
def Memory.freeStandIn (m : Memory) : Option Nat :=
  (m.quarantine.zipIdx).findSome? (fun (q, i) => if q.isNone && !m.withdrawn.contains i then some i else none)

/-- A stand-in region is left for one more bank beside those already flagged (R169, R479). -/
def Memory.standInLeft (m : Memory) : Bool :=
  decide (m.flagged.length < ((m.quarantine.zipIdx).filter (fun (q, i) => q.isNone && !m.withdrawn.contains i)).length)

/-- A flagged bank is quarantined, its ridge entering register mode; without a free stand-in region the ridge is recorded for retirement unless PIN_RETIRE is set (R169, R474). -/
def State.quarantineBank (s : State) (b : Nat × Nat) : State :=
  let s := { s with mem := { s.mem with flagged := s.mem.flagged.filter (· != b) } }
  match s.mem.freeStandIn with
  | some i =>
    let m := (s.bankErrs b.1 b.2).foldl Memory.copyWord s.mem
    (({ s with mem := { m with quarantine := m.quarantine.set i (some b), copying := m.copying ++ [b] } }).updRidge b.1 (fun r => { r with registerMode := true })).decision 11 b.1 (s.bankValues b.1 b.2) 0 0
  | none =>
    if s.health.pinRetire then s.decision 12 b.1 [0] 1 0
    else if s.flash.retire.ridgesPending.getLsbD b.1 then s else s.retirePending b.1 0 0

/-- Flagged banks are quarantined when no step runs, the chip is not halted and no group is open (R474). -/
def State.serveQuarantine (s : State) : State :=
  if s.stepRunning || s.isHalted || !s.matrix.groups.isEmpty then s else s.mem.flagged.foldl State.quarantineBank s

/-- A ridge that has passed its test leaves register mode, where no intrusive test runs on it and none of its banks is quarantined (R160, R169). -/
def State.normalRidge (s : State) (r : Ridge) : Ridge :=
  if r.enabled && !s.health.testing.any (fun t => t.2.2.any (fun l => s.physical l == r.num)) && !s.mem.quarantine.any (fun q => (q.map (·.1)) == some r.num)
  then { r with registerMode := false } else r

/-- Ridges leave register mode only when no step runs and no group is open (R160). -/
def State.leaveRegister (s : State) : State :=
  if s.stepRunning || !s.matrix.groups.isEmpty || s.ridges.all (fun r => !r.registerMode || !r.enabled) then s else { s with ridges := s.ridges.map s.normalRidge }

/-! ### Barriers -/

/-- The product of the sizes below dimension i: the rank distance of neighbours in that dimension (R365). -/
def gridStride (dims : List Nat) (i : Nat) : Nat := (dims.take i).foldl (· * ·) 1

/-- Coordinate i of a rank. -/
def coord (dims : List Nat) (r i : Nat) : Nat := r / gridStride dims i % max (nth dims i 1) 1

/-- The rank with coordinate i replaced. -/
def withCoord (dims : List Nat) (r i c : Nat) : Nat := r - coord dims r i * gridStride dims i + c * gridStride dims i

/-- The other members of the dimension-i group of a rank, ascending. -/
def groupPeers (dims : List Nat) (r i : Nat) : List Nat :=
  ((List.range (nth dims i 1)).filter (fun c => decide (c ≠ coord dims r i))).map (withCoord dims r i)

/-- The level of a rank in the tree of R380: its leading coordinates that are 0. -/
def gridLevel (dims : List Nat) (r : Nat) : Nat := ((List.range dims.length).takeWhile (fun i => coord dims r i == 0)).length

/-- The ranks whose up flags a rank awaits, and to which it sends down flags. -/
def barrierChildren (dims : List Nat) (r : Nat) : List Nat := (List.range (gridLevel dims r)).flatMap (groupPeers dims r)

/-- The rank to which a rank sends its up flag; none for rank 0, the root. -/
def barrierParent (dims : List Nat) (r : Nat) : Option Nat :=
  let l := gridLevel dims r
  if l = dims.length then none else some (withCoord dims r l 0)

/-- LEVEL of a pace tag (R382). -/
def paceLevel (t : Byte) : Nat := t.toNat % 32

/-- The step fails (R50): its STEP.RUN ends with the result, and the fault wave is raised. -/
def State.failStep (s : State) (r : Result) (entry : Option Nat) (cause : Byte) : State :=
  match s.plans.step with
  | none => s
  | some st => (s.setStage st.cmd (.ended (st.result r entry))).raiseWave cause r.status

/-- A barrier's flag as it leaves this chip. -/
def State.flagOf (s : State) (b : Barrier) (up : Bool) : Flag := ⟨s.rank, up, s.plans.stepNo.toNat % 2 ^ 32, b.kind, b.pace, b.slowRank, b.mask⟩

/-- The barrier has passed here: down flags leave, and HST_PACE takes what a flag of a barrier carries (R380, R385). -/
def State.passBarrier (s : State) (b : Barrier) : State :=
  let b1 := { b with passed := true, sentUp := true }
  let s1 := { s with
    plans := { s.plans with barrier := some b1 }
    halt := if b.kind = 3 then s.halt else { s.halt with slowRank := BitVec.ofNat 16 b.slowRank, slowTag := b.pace, paceStep := s.plans.stepNo.setWidth 32 } }
  (barrierChildren s.coll.dims s.rank).foldl (fun s r => s.send (.flag r (s.flagOf b1 false))) s1

/-- The entry whose command reached the barrier. -/
def State.barrierEntry (s : State) (b : Barrier) : Option Nat := (b.cmd.bind s.cmd?).bind Cmd.entry?

/-- A flag meets the barrier that the chip awaits (R380, R381): a STEP or KIND that differs is fatal; an up flag of a child is noted with the slower pace and the lower rank among equals, or its mask joined; a down flag passes the barrier. -/
def State.takeFlag (s : State) (f : Flag) : State :=
  match s.plans.barrier with
  | none => s
  | some b =>
    if f.step ≠ s.plans.stepNo.toNat % 2 ^ 32 ∨ f.kind ≠ b.kind then s.failStep (resStatus stStepMismatch) (s.barrierEntry b) 0x01
    else if f.up then
      if (barrierChildren s.coll.dims s.rank).contains f.src && !b.ups.contains f.src then
        let slower := decide (paceLevel b.pace < paceLevel f.pace) || (decide (paceLevel b.pace = paceLevel f.pace) && decide (f.slowRank < b.slowRank))
        let b1 := if slower then { b with pace := f.pace, slowRank := f.slowRank } else b
        { s with plans := { s.plans with barrier := some { b1 with ups := b.ups ++ [f.src], mask := b.mask ||| f.mask } } }
      else s
    else if b.sentUp && !b.passed then s.passBarrier { b with pace := f.pace, slowRank := f.slowRank, mask := f.mask }
    else s

/-- The entries of a step before an entry, of the given opcodes, have completed. -/
def StepRun.doneBefore (st : StepRun) (entry : Nat) (ops : List Nat) : Bool :=
  (((st.plan.entries.zip st.entries).take entry).all (fun x => !ops.contains (opcodeOf x.1.pkt) || x.2 == .done))

/-- The notice of every row that this chip gave away in the step before has come (R304). -/
def State.noticesIn (s : State) : Bool :=
  s.embed.forwards.all (fun f => f.lastStep != BitVec.ofNat 32 (s.plans.stepNo.toNat + 1)
    || s.embed.pendingReloc.any (fun r => r.table == f.table && r.key == f.key && r.owner == f.owner && r.tenure == f.tenure))

/-- The chip's own part of a barrier is done (R19): every scatter contribution sent and acknowledged; stages 8a and 8b complete; stage 9 complete; at once for an agreement. -/
def State.ownPart (s : State) (st : StepRun) (b : Barrier) : Bool :=
  let e := (s.barrierEntry b).getD st.entries.length
  match b.kind with
  | 0 => s.scatters.isEmpty && st.doneBefore e [0x2130, 0x6011]
  | 1 => st.doneBefore e [0x7010, 0x6020]
  | 2 => s.embed.migrating.isEmpty && s.noticesIn
  | _ => true

/-- A barrier as a chip reaches it. -/
def State.newBarrier (s : State) (kind : Nat) (cmd : Option Nat) (mask : W64) : Barrier := ⟨kind, cmd, false, [], false, mask, s.halt.ownTag, s.rank, false⟩

/-- The step boundary is reached once every entry has completed (R63). -/
def State.reachBoundary (s : State) : State :=
  match s.plans.step, s.plans.barrier with
  | some st, none => if st.entries.all (· == .done) then { s with plans := { s.plans with barrier := some (s.newBarrier 2 none 0) } } else s
  | _, _ => s

/-- Flags that came before the chip reached the barrier meet it. -/
def State.takeEarly (s : State) : State :=
  match s.plans.barrier with
  | some b => if b.passed then s else s.plans.earlyFlags.foldl State.takeFlag { s with plans := { s.plans with earlyFlags := [] } }
  | none => s

/-- The chip climbs the tree: with its own part and every child's flag it sends its up flag, or as the root lets the barrier pass (R380). -/
def State.climb (s : State) : State :=
  match s.plans.step, s.plans.barrier with
  | some st, some b =>
    let b1 := { b with own := b.own || s.ownPart st b }
    let s1 := { s with plans := { s.plans with barrier := some b1 } }
    if b1.own && !b1.sentUp && (barrierChildren s.coll.dims s.rank).all (fun r => b1.ups.contains r) then
      match barrierParent s.coll.dims s.rank with
      | none => s1.passBarrier b1
      | some r => ({ s1 with plans := { s1.plans with barrier := some { b1 with sentUp := true } } }).send (.flag r (s.flagOf b1 true))
    else s1
  | _, _ => s

/-- The condition bits that an agreement leaves: those of its mask as the job agreed them (R61). -/
def agreedBits (cond mask agreed : W64) : W64 := (cond &&& ~~~mask) ||| (agreed &&& mask)

/-- An agreement that has passed writes the job's bits back and completes (R61). -/
def State.finishAgree (s : State) : State :=
  match s.plans.step, s.plans.barrier with
  | some st, some b =>
    if b.kind = 3 && b.passed then
      let mask : W64 := BitVec.ofNat 64 (field (((b.cmd.bind s.cmd?).map (·.pkt)).getD []) 32 8)
      let s1 := { s with plans := { s.plans with step := some { st with cond := agreedBits st.cond mask b.mask }, barrier := none } }
      match b.cmd with
      | some id => s1.endCmd id resOK
      | none => s1
    else s
  | _, _ => s

/-- What every step of the chip does for the barrier of the running step. -/
def State.serveBarrier (s : State) : State := s.reachBoundary.takeEarly.climb.finishAgree

/-! ### Park -/

/-- BUSY, DETAIL 0x19 (R568). -/
def parkedResult : Result := resOf stBusy 0x19 0

/-- A pending park takes effect when no step runs or the chip is halted (R568): every STEP.RUN that waits ends with BUSY. -/
def State.servePark (s : State) : State :=
  if s.host.park && !s.host.parked && (!s.stepRunning || s.isHalted) then
    { s with
      host := { s.host with parked := true }
      queues := { s.queues with cmds := mapWhere (fun c => c.stage.isRunning && opcodeOf c.pkt == 0xF010) (fun c => { c with stage := .ended (parkedResult.forCmd c) }) s.queues.cmds } }
  else s

/-! ### The error summary -/

/-- HST_QUEUE_ERR holds an error bit. -/
def QueueErr.any (q : QueueErr) : Bool := q.rqStall || q.popSize || q.dbBack || q.dbRange || q.dbNoq || q.rqMissing

/-- PWR_EVENT, MEM_EVENT and HST_NUM_STATUS [3:0] hold an event bit. -/
def Power.anyEvent (p : Power) : Bool := p.evCapUnmet || p.evGuard || p.evSensor || p.evCal || p.evLimit || p.evThrottle
def Gddr.anyEvent (g : Gddr) : Bool := g.evRemapFull || g.evRemap || g.evRetrain || g.evSensor || g.evUncorr
def Numerics.anyEvent (n : Numerics) : Bool := n.missBit || n.nonfiniteBit || n.ratioBit || n.stallBit

/-- HST_ERR_SUMMARY (R500). -/
def State.errSummary (s : State) : Nat :=
  bnat s.host.attention * 1024 + bnat s.health.telemDrop * 512 + bnat s.health.testFail * 256 + bnat s.health.quarantined * 128 + bnat (s.link.changed != 0) * 64
    + bnat s.power.anyEvent * 32 + bnat s.gddr.anyEvent * 16 + bnat s.num.anyEvent * 8 + bnat s.queues.err.any * 4 + bnat s.health.poison * 2 + bnat s.halt.halted

/-- HST_ERR_ENABLE (R500): queue errors always signal. -/
def State.errEnable (s : State) : Nat := s.health.enableHi.toNat * 8 + 4 + s.health.enableLo.toNat

/-- MGT_ATTN (R562): the attention bits. -/
def State.attention (s : State) : Nat :=
  bnat s.host.attention + bnat s.host.park * 2 + bnat s.trip.tripped * 4 + bnat (s.boot.state == .safe) * 8 + bnat s.halt.halted * 16

/-- An unmasked attention bit is set (R564). -/
def State.attentionUnmasked (s : State) : Bool := (List.range 5).any (fun i => s.attention.testBit i && !s.mgt.mask.toNat.testBit i)

/-- The summary bits that went from 0 to 1 while enabled (R500). -/
def State.risen (old new : State) : List Nat := (List.range 11).filter (fun i => new.errSummary.testBit i && !old.errSummary.testBit i && new.errEnable.testBit i)

/-- Vector 63 signals once for each of them. -/
def State.signalRisen (old new : State) : State := { new with host := { new.host with signals := new.host.signals ++ (State.risen old new).map (fun _ => 63) } }

/-- An unmasked attention bit pulls MGT_ALERT_N low (R564). -/
def State.pullAlert (s : State) : State := if s.attentionUnmasked then { s with mgt := { s.mgt with alertLow := true } } else s

end Sys2Proof.Machine
end

