-- ==== Sys2Proof/Machine/Wire.lean ====
section
/-! DEFINITION. What the links carry, byte for byte: the records of the chapters (R93, R95, R114, R115, R282, R283, R289), the header and control cells (R342, R344), the frames of a lane (R330), and the packets'
worth of a message of this chip (R345). -/
namespace Sys2Proof.Machine

/-! ### Records -/

/-- An expansion request (R93). -/
def ExpReq.bytes (r : ExpReq) : List Byte :=
  toLE 6 r.node ++ toLE 1 r.hop ++ toLE 1 r.kind ++ toLE 2 r.fanOut ++ toLE 1 r.shard ++ toLE 1 (bnat r.staleOk) ++ toLE 4 r.step ++ toLE 8 r.key ++ toLE 4 r.stream ++ toLE 4 r.tag

/-- An entry (R89). -/
def PathEntry.bytes (e : PathEntry) : List Byte := toLE 6 e.node ++ toLE 2 e.edgeType ++ toLE 4 e.parentPos ++ toLE 4 e.edgePos

/-- An expansion response: its header and its entries (R95). -/
def ExpResp.bytes (r : ExpResp) : List Byte :=
  toLE 4 r.tag ++ toLE 2 r.entries.length ++ [r.status] ++ toLE 1 r.detail ++ toLE 1 (bnat r.stale) ++ zeros 7 ++ r.entries.flatMap PathEntry.bytes

/-- A row request (R114). -/
def RowReq.bytes (r : RowReq) : List Byte := toLE 6 r.node ++ toLE 1 r.ftable ++ toLE 1 (bnat r.pool + 2 * bnat r.last) ++ toLE 4 r.step ++ toLE 4 r.tag

/-- A row response (R115). -/
def RowResp.bytes (r : RowResp) : List Byte := toLE 4 r.tag ++ toLE 2 r.count ++ [r.status] ++ toLE 1 r.detail ++ zeros 8 ++ r.row

/-- A lookup request (R282). -/
def LookupReq.bytes (r : LookupReq) : List Byte :=
  toLE 6 r.key ++ toLE 1 r.table ++ toLE 1 (bnat r.last) ++ toLE 2 r.tenure ++ toLE 1 r.pool ++ [0] ++ toLE 4 r.step ++ toLE 4 r.weight.toNat ++ toLE 4 r.tag

/-- A lookup response (R283); a single stored row is padded to 32 bytes. -/
def LookupResp.bytes (r : LookupResp) : List Byte :=
  toLE 4 r.tag ++ toLE 2 r.count ++ [r.status] ++ toLE 1 r.detail ++ toLE 1 (bnat r.asStored + 2 * bnat r.via.isSome) ++ [0] ++ toLE 2 r.owner ++ toLE 2 r.tenure ++ zeros 2
    ++ (if r.asStored then padTo (roundUp r.row.length 32) r.row else r.row)

/-- A contribution (R289). -/
def Contribution.bytes (c : Contribution) : List Byte :=
  toLE 6 c.key ++ toLE 1 c.table ++ toLE 1 c.kind ++ toLE 2 c.tenure ++ toLE 2 c.origin ++ toLE 4 c.seq ++ c.grad.flatMap (fun v => toLE 4 v.toNat)

/-! ### Header and control cells -/

/-- The header cell of a packet whose first cell has the given sequence (R344). -/
def headerCell (p : Packet) (seq : W32) : List Byte :=
  toLE 2 p.dest ++ toLE 2 p.src ++ toLE 1 (p.vc % 8 + bnat p.escape * 8 + bnat p.poisoned * 16 + bnat p.lastPart * 32) ++ toLE 1 (p.hops % 128) ++ toLE 2 p.bytes ++ toLE 4 seq.toNat
    ++ toLE 2 p.batch ++ toLE 2 p.part ++ toLE 2 p.proto ++ padTo 13 p.inline ++ [0xA5]

/-- The packet that a header cell spells, before its payload (R344). -/
def packetOfHeader (bs : List Byte) : Packet :=
  let c := field bs 4 1
  ⟨field bs 0 2, field bs 2 2, c % 8, bitAt c 3, bitAt c 4, bitAt c 5, field bs 5 1 % 128, field bs 6 2, field bs 12 2, field bs 14 2, field bs 16 2, (bs.drop 18).take 13, []⟩

/-- The payload bytes of a packet: the data of its words (R330, R344). -/
def Packet.payload (p : Packet) : List Byte := (p.words.flatMap (·.drop 4)).take p.bytes

/-- The cells of a packet in their sequences: the header, encoded by the port that sends it, and the payload words as they are (R344, R350). -/
def cellsOfPacket (p : Packet) (seq : W32) : List SentCell :=
  ((wordSymbols (headerCell p seq) :: p.words).zipIdx).map (fun (w, i) => ⟨seq + BitVec.ofNat 32 i, w⟩)

/-- Cells of a packet: its header and its payload (R344). -/
def packetCells (p : Packet) : Nat := 1 + ceilDiv p.bytes 32

/-- The 32 bytes of a control slot (R342). -/
def CtlSlot.bytes (c : CtlSlot) : List Byte :=
  toLE 4 c.marker.toNat ++ toLE 1 c.lane ++ toLE 1 c.width ++ toLE 1 c.state ++ toLE 1 (bnat c.nakValid + 2 * bnat c.narrowReq + 4 * bnat c.narrowAck + 8 * bnat c.rejoinReq) ++ toLE 4 c.ackSeq ++ toLE 4 c.nakSeq
    ++ padTo 12 (c.credit.map (BitVec.ofNat 8 ·)) ++ toLE 1 c.lost ++ toLE 1 c.switchIn ++ zeros 2

/-- An idle cell (R343). -/
def idleCell : List Byte := wordSymbols (zeros 32)

/-- A frame as a lane sends it: the control slot, then 144 slots of cells, idle ones where none waits (R330, R343). -/
def laneFrame (c : CtlSlot) (cells : List SentCell) : List (List Byte) :=
  wordSymbols (CtlSlot.bytes c) :: ((cells.take 144).map (·.symbols) ++ List.replicate (144 - cells.length) idleCell)

/-! ### Messages -/

/-- A message as it is cut into packets: the chip it goes to, the one port it must leave by (none for a routed message), and what its headers and payload hold. -/
structure Post where
  dest : Nat
  port : Option Nat
  vc : Nat
  proto : Nat
  inline : List Byte
  payload : List Byte
  poisoned : Bool
  hops : Nat
  reduce : Option Reduce
  deriving DecidableEq, Repr

/-- A run of records of a kind without a PROTO of its own in the manual. -/
def recordPost (dest vc kind : Nat) (payload : List Byte) : Post := ⟨dest, none, vc, (Config.protoOf kind).toNat, [], payload, false, 0, none⟩

/-- A header-only packet, or one whose PROTO the manual gives. -/
def inlinePost (dest vc proto : Nat) (inline payload : List Byte) : Post := ⟨dest, none, vc, proto, inline, payload, false, 0, none⟩

/-- INLINE of a flag or an agreement (R381). -/
def Flag.inline (f : Flag) : List Byte :=
  toLE 4 f.step ++ toLE 1 f.kind ++ (if f.kind = 3 then toLE 8 f.mask.toNat else [f.pace] ++ toLE 2 f.slowRank ++ zeros 5)

/-- INLINE of a piece (R375). -/
def Piece.inline (p : Piece) : List Byte :=
  toLE 4 p.step ++ [p.pace] ++ toLE 1 (p.dim + 4 * p.queue + 32 * bnat p.det) ++ toLE 2 p.collId ++ toLE 4 (p.offset / 32) ++ [p.shape]

/-- INLINE of a halt cell (R387). -/
def HaltCell.inline (c : HaltCell) : List Byte := toLE 2 c.origin ++ [c.cause, c.status] ++ toLE 4 c.step.toNat ++ zeros 5

/-- The reduce priority of a queue: that of its branch while a plan runs (R24, R26). -/
def State.reducePrio (s : State) (q : Nat) : Nat := (s.plans.step.map (fun st => (st.plan.branches.getD q default).prio)).getD 0

/-- The ranks of the job but this one. -/
def State.otherRanks (s : State) : List Nat := (List.range s.jobN).filter (· != s.rank)

/-- What a message of this chip is on the links (R345, R351): its virtual channel, its destination, its record kind and its bytes. A refresh or a notice goes to each of its chips; the word of the link LEDs is none. -/
def State.posts (s : State) (m : Sent) : List Post :=
  let chip (r : Nat) := s.rankChip r
  match m with
  | .expansion o rs => [recordPost (chip o) 2 0 (rs.flatMap ExpReq.bytes)]
  | .expansionAnswer d r => [recordPost (chip d) 3 1 (ExpResp.bytes r)]
  | .rows o rs => [recordPost (chip o) 2 2 (rs.flatMap RowReq.bytes)]
  | .rowAnswer d r => [recordPost (chip d) 3 3 (RowResp.bytes r)]
  | .lookup o rs => [recordPost (chip o) 2 4 (rs.flatMap LookupReq.bytes)]
  | .lookupAnswer d r => [recordPost (chip d) 3 5 (LookupResp.bytes r)]
  | .contributions o cs => [recordPost (chip o) 4 6 (cs.flatMap Contribution.bytes)]
  | .contributionAnswer d tag st => [recordPost (chip d) 4 7 (Config.openRecord 7 [tag, st.toNat])]
  | .forwarded o _ c => [recordPost (chip o) 4 6 (Contribution.bytes c)]
  | .forwardedLookup o _ rs => [recordPost (chip o) 2 4 (rs.flatMap LookupReq.bytes)]
  | .subscribe o t k => [recordPost (chip o) 4 8 (Config.openRecord 8 [t, k])]
  | .subscriptionRefused d t k => [recordPost (chip d) 4 9 (Config.openRecord 9 [t, k])]
  | .unsubscribe o t k => [recordPost (chip o) 4 10 (Config.openRecord 10 [t, k])]
  | .migration d c => [recordPost (chip d) 4 11 (Config.openRecord 11 ([c.table, c.key, c.tenure] ++ c.record.map (·.toNat)))]
  | .migrationAnswer d t k ok => [recordPost (chip d) 4 12 (Config.openRecord 12 [t, k, bnat ok])]
  | .relocation r => s.otherRanks.map (fun d => recordPost (chip d) 7 13 (Config.openRecord 13 [r.table, r.key, r.owner, r.tenure]))
  | .refresh ds t k ten ws => ds.map (fun d => recordPost (chip d) 4 14 (Config.openRecord 14 ([t, k, ten] ++ ws.map (·.toNat))))
  | .monitorSums ts => (groupPeers s.coll.dims s.rank 0).map (fun d => recordPost (chip d) 1 15 (Config.openRecord 15 (ts.flatMap (fun (t, g, u, w) => [t, g.toNat, u.toNat, w.toNat]))))
  | .flag d f => [inlinePost (chip d) 0 ((if f.up then 1 else 2) + (if f.kind = 3 then 2 else 0)) (Flag.inline f) []]
  | .piece d p => [{ inlinePost (chip d) 1 (0x100 + p.proto) (Piece.inline p) p.data with poisoned := p.poisoned, reduce := some ⟨p.queue, s.reducePrio p.queue, p.collId⟩ }]
  | .halt q c => [{ inlinePost (((s.link.ports.find? (fun x => x.num == q)).map (fun x => x.peer.toNat)).getD 0) 5 0x501 (HaltCell.inline c) [] with port := some q, hops := c.hops }]
  | .auth q m =>
    let dest := ((s.link.ports.find? (fun x => x.num == q)).map (fun x => x.peer.toNat)).getD 0
    (match m with
    | .nonce n => [{ recordPost dest 6 16 (padTo 32 n) with port := some q }]
    | .proof sig key cert inter root => [{ recordPost dest 6 17 (Config.openRecord 17 ((sig ++ key ++ cert ++ inter ++ root).map (·.toNat))) with port := some q }])
  | .gatewayData chip tag off last data => [inlinePost chip 7 0x701 (toLE 4 tag ++ toLE 6 off ++ toLE 1 (bnat last)) data]
  | .gatewayRead chip tag off mib => [inlinePost chip 7 0x703 (toLE 4 tag ++ toLE 6 off ++ toLE 1 mib) []]
  | .ledWord _ => []

/-- The packets of a message: its bytes in order, 4,096 to a packet, with the batch tag and PART of each; the last sets LAST_PART (R345). The check bytes are formed here, where the data leaves (R350). -/
def Post.packets (x : Post) (src tag : Nat) : List Packet :=
  let parts := if x.payload.isEmpty then [[]] else chunks 4096 x.payload
  (parts.zipIdx).map (fun (bs, i) =>
    ⟨x.dest, src, x.vc, false, x.poisoned, decide (i + 1 = parts.length), x.hops, bs.length, tag, i, x.proto, padTo 13 x.inline, (chunks 32 (padTo (roundUp bs.length 32) bs)).map wordSymbols⟩)

end Sys2Proof.Machine
end

