-- ==== Sys2Proof/Machine/Ports.lean ====
section
/-! DEFINITION. The ports of the Hexvis links: their lanes, receive buffers and credits (R331, R352), egress arbitration and the dealing of cells to lanes (R26, R332, R348, R351), routing (R353 to R356), control slots (R342),
the start of an authentication (R357), and the way of this chip's own messages onto the links (R345). -/
namespace Sys2Proof.Machine

/-! ### Ports and lanes -/

/-- A port's record, and the state with it changed. -/
def State.port? (s : State) (p : Nat) : Option Port := s.link.ports.find? (fun x => x.num == p)
def State.updPort (s : State) (p : Nat) (f : Port → Port) : State := { s with link := { s.link with ports := mapWhere (fun x => x.num == p) f s.link.ports } }

/-- A lane's record, and the state with it changed. -/
def State.lane? (s : State) (l : Nat) : Option Lane := s.link.lanes.find? (fun x => x.num == l)
def State.updLane (s : State) (l : Nat) (f : Lane → Lane) : State := { s with link := { s.link with lanes := mapWhere (fun x => x.num == l) f s.link.lanes } }

/-- Lanes of a width code (R333), and the width code of a number of lanes. -/
def widthLanes (code : Nat) : Nat := nth [0, 1, 2, 4, 8] code 0
def widthCode (n : Nat) : Nat := [0, 1, 2, 4, 8].idxOf n

/-- STATE of a port (R364). -/
def portCode : PortState → Nat
  | .none => 0
  | .down => 1
  | .training => 2
  | .handshake => 3
  | .auth => 4
  | .up => 5
  | .failed => 6
  | .authFailed => 7

/-- The configured lanes of a port: from its base lane up (R331). -/
def Port.configured (p : Port) : List Nat := (List.range (widthLanes p.cfgWidth)).map (p.num + ·)

/-- The link groups of a port (R331). -/
def Port.groups (p : Port) : List Nat := (p.configured.map (· / 4)).dedup

/-- The lane of the peer that meets a lane of this port (R338): lanes may be reversed. -/
def Port.peerLane (p : Port) (l : Nat) : Nat := p.peerNum + (if p.reversed then widthLanes p.cfgWidth - 1 - (l - p.num) else l - p.num)

/-- The lane of this port that meets a lane of the peer. -/
def Port.ownLane (p : Port) (l : Nat) : Nat := p.num + (if p.reversed then widthLanes p.cfgWidth - 1 - (l - p.peerNum) else l - p.peerNum)

/-- The port is present: every one of its groups is (R336). -/
def State.portPresent (s : State) (p : Port) : Bool := p.groups.all (fun g => s.link.present.getLsbD g)

/-- The port to which a lane belongs. -/
def State.laneOwner (s : State) (l : Nat) : Option Port := s.link.ports.find? (fun p => p.configured.contains l)

/-- The port carries the traffic of a virtual channel: every one when UP, VC 6 alone in AUTH (R357). -/
def Port.carries (p : Port) (vc : Nat) : Bool := p.state == .up || (p.state == .auth && vc == 6)

/-! ### Buffers and credits (R352) -/

/-- Receive cells of each of the twelve buffers per lane. -/
def bufferShares : List Nat := [130, 130, 130, 130, 130, 130, 130, 130, 640, 320, 640, 560]

/-- What a sender may have in flight per lane: buffer 12 is split between VC 4 and VC 7. -/
def creditShares : List Nat := [130, 130, 130, 130, 130, 130, 130, 130, 640, 320, 640, 320, 240]

/-- A virtual channel of fixed routing (R351). -/
def fixedVc (vc : Nat) : Bool := vc == 0 || vc == 5 || vc == 6

/-- The buffer of a virtual channel: adaptive, or escape. -/
def bufferOf (vc : Nat) (escape : Bool) : Nat :=
  match vc with
  | 5 => 0
  | 6 => 1
  | 0 => 2
  | 1 => if escape then 3 else 8
  | 2 => if escape then 4 else 9
  | 3 => if escape then 5 else 10
  | 4 => if escape then 6 else 11
  | _ => if escape then 7 else 11

/-- The credit count of a virtual channel: its buffer's, and one of its own for VC 7 in buffer 12. -/
def creditOf (vc : Nat) (escape : Bool) : Nat := if vc = 7 ∧ !escape then 12 else bufferOf vc escape

/-- The buffer, and the credit count, of a packet. -/
def Packet.buffer (p : Packet) : Nat := bufferOf p.vc (p.escape && !fixedVc p.vc)
def Packet.credit (p : Packet) : Nat := creditOf p.vc (p.escape && !fixedVc p.vc)

/-- Returned cells of buffer 12 go to the counts whose packets were sent first. -/
def giveBack : Nat → List (Nat × Nat) → List Nat → List (Nat × Nat) × List Nat
  | _, [], cr => ([], cr)
  | n, (i, k) :: rest, cr =>
    if n < k then ((i, k - n) :: rest, cr.set i (cr.getD i 0 + n))
    else giveBack (n - k) rest (cr.set i (cr.getD i 0 + k))

/-- The twelve counts of a control slot enter the credits. -/
def Port.credited (x : Port) (counts : List Nat) : Port :=
  let own := (x.credits.zipIdx).map (fun (c, i) => if i < 11 then c + counts.getD i 0 else c)
  let r := giveBack (counts.getD 11 0) x.owed own
  { x with credits := r.2, owed := r.1 }

/-- Cells of a packet that arrived lie in a receive buffer of the port; and leave it, to be returned as credit. -/
def State.holdCells (s : State) (port buffer n : Nat) : State := s.updPort port (fun x => { x with occupied := x.occupied.set buffer (x.occupied.getD buffer 0 + n) })
def State.freeCells (s : State) (port buffer n : Nat) : State :=
  s.updPort port (fun x => { x with occupied := x.occupied.set buffer (x.occupied.getD buffer 0 - n), freed := x.freed.set buffer (x.freed.getD buffer 0 + n) })

/-! ### Configuration -/

/-- A port that has just been configured. -/
def freshPort (num width : Nat) (half : Bool) (auth : Nat) : Port :=
  { num := num, cfgWidth := width, cfgHalf := half, authMode := auth, state := .down, lanes := [], half := false, peer := 0, peerWidth := 0, authenticated := false, joined := false,
    peerNum := 0, reversed := false, attempts := 0, trying := false, cause := 0, retryHalf := false, deal := 0, skew := [], nextSeq := 0, expectSeq := 0, ackSeq := 0, ackSent := 0xFFFFFFFF, nak := none, discarding := false,
    replayBuf := [], replays := 0, replayFrom := 0, paused := false, narrowTo := none, removing := none, switchIn := 0, narrowAck := false, credits := [], owed := [], occupied := List.replicate 12 0,
    freed := List.replicate 12 0, lastReduce := 0, egress := [], deficit := [0, 0, 0, 0, 0], turn := 0, rx := none, whole := [], nonce := [], peerNonce := [], provedSelf := false, verifiedPeer := false }

/-- A port brought down: nothing of its traffic or its peer is kept. -/
def Port.reset (p : Port) : Port := freshPort p.num p.cfgWidth p.cfgHalf p.authMode

/-- A port brought down. Packets that came over it and wait on other ports no longer lie in its buffers. -/
def State.bringDown (s : State) (p : Nat) : State :=
  let s1 := s.updPort p Port.reset
  { s1 with link := { s1.link with ports := s1.link.ports.map (fun x => { x with egress := x.egress.map (fun w => if w.held.any (fun h => h.1 == p) then { w with held := none } else w) }) } }

/-- A port asked to train: it trains when it is present, and is down otherwise (R337). cause is what asked, as CAUSE of R482. -/
def State.askTraining (s : State) (p : Nat) (half : Bool) (cause : Nat) : State :=
  (s.bringDown p).updPort p (fun x => { x with state := if s.portPresent x then .training else .down, retryHalf := half, cause := cause })

/-- The decision record of a link event (R339, R362, R484): 1 training attempt, 2 lane removal, 3 rejoin, 4 port loss, 5 an attempt that missed its deadline, 6 one without a fit lane, 7 a failed authentication. -/
def State.linkDecision (s : State) (port lane event action cause : Nat) : State :=
  let l := s.lane? lane
  s.decision 4 port [lane, event, ((l.map (·.corr.toNat)).getD 0), ((l.map (·.uncorr.toNat)).getD 0)] action cause

/-- A port is lost (R349, R359, R362): it goes down, and when it was UP and a step runs the fault wave is raised. -/
def State.losePort (s : State) (p lane : Nat) : State :=
  match s.port? p with
  | none => s
  | some x =>
    if x.state ≠ .up ∧ x.state ≠ .auth then s else
    let s1 := (s.bringDown p).linkDecision p lane 4 0 3
    if x.state = .up ∧ s1.stepRunning then s1.raiseWave 0x06 0 else s1

/-! ### Control slots (R342) -/

/-- Freed cells shared out over the slots of n lanes, at most 255 of a buffer to a slot, each cell in one slot (log entry 122); and what is left for the next slots. -/
def shareFreed : Nat → List Nat → List (List Nat) × List Nat
  | 0, freed => ([], freed)
  | n + 1, freed =>
    let r := shareFreed n (freed.map (· - 255))
    (freed.map (min · 255) :: r.1, r.2)

/-- The control slot of a lane, with no request in it. -/
def Port.slot (x : Port) (lane : Nat) (credit : List Nat) : CtlSlot :=
  ⟨0x48585653, lane, widthCode x.lanes.length, portCode x.state, false, false, false, false, (x.expectSeq - 1).toNat, 0, credit, 0, 0⟩

/-- A control slot leaves on each of some lanes of a port, with the acknowledgement, the freed cells and what f adds. -/
def State.sendSlots (s : State) (p : Nat) (ls : List Nat) (f : CtlSlot → CtlSlot) : State :=
  match s.port? p with
  | none => s
  | some x =>
    let r := shareFreed ls.length x.freed
    let slots := (ls.zip r.1).map (fun (l, c) => Wire.slot p l (f (x.slot l c)))
    { s.updPort p (fun y => { y with freed := r.2, ackSent := x.expectSeq - 1 }) with out := { s.out with wire := s.out.wire ++ slots } }

/-- The lanes on which a port sends its control slots: every active one but a lane that is being removed. -/
def Port.slotLanes (x : Port) : List Nat := x.lanes.filter (fun l => x.removing ≠ some l)

/-- A control slot leaves on every lane of a port. -/
def State.sendControl (s : State) (p : Nat) (f : CtlSlot → CtlSlot) : State :=
  match s.port? p with
  | none => s
  | some x => s.sendSlots p x.slotLanes f

/-- A port's next control slots say something new: cells received or freed. -/
def Port.slotDue (x : Port) : Bool := (x.state == .up || x.state == .auth) && (x.ackSent != x.expectSeq - 1 || x.freed.any (· != 0))

/-- Ports with an acknowledgement or credit to send do. -/
def State.serveSlots (s : State) : State := ((s.link.ports.filter Port.slotDue).map (·.num)).foldl (fun s p => s.sendControl p id) s

/-! ### Sending -/

/-- A halted chip sends no new packets but on VC 5 and VC 6 (R389). -/
def vcOpen (halted : Bool) (vc : Nat) : Bool := !halted || vc == 5 || vc == 6

/-- The packet of the collectives' own pieces that is next (R26): of the highest priority, and round-robin by queue among equals, one packet at a time. -/
def nextReduce (last : Nat) (ws : List Waiting) : Option Waiting :=
  let rs := ws.filterMap (fun w => w.reduce.map (fun r => (w, r)))
  let top := (rs.map (·.2.prio)).foldl max 0
  ((List.range 8).map (fun i => (last + 1 + i) % 8)).findSome? (fun q => (rs.find? (fun x => x.2.prio == top && x.2.queue == q)).map (·.1))

/-- The packet of a virtual channel that is next on a port: the first that came, where that is a piece of this chip the one that R26 puts first. -/
def Port.next (x : Port) (vc : Nat) : Option Waiting :=
  let ws := x.egress.filter (fun w => w.pkt.vc == vc)
  match ws.head? with
  | none => none
  | some w => if w.reduce.isNone then some w else nextReduce x.lastReduce ws

/-- The next packet of a virtual channel if the port could send it now: credit for every cell, and room in the replay buffer (R348, R352). -/
def Port.sendable (x : Port) (halted : Bool) (vc : Nat) : Option Waiting :=
  match x.next vc with
  | none => none
  | some w =>
    let n := packetCells w.pkt
    if vcOpen halted vc && decide (n ≤ x.credits.getD w.buffer 0) && decide (x.replayBuf.length + n ≤ 3200 * x.lanes.length) && !x.paused && x.carries vc then some w else none

/-- Cells dealt over the lanes of a port, one to a lane in each turn, in ascending lane order (R332); k is the place in the round. -/
def dealCells (lanes : List Nat) (k : Nat) (cells : List SentCell) : List (Nat × SentCell) :=
  (cells.zipIdx).map (fun (c, i) => (lanes.getD ((k + i) % max lanes.length 1) 0, c))

/-- Cells leave a port. -/
def State.sendCells (s : State) (p : Nat) (cells : List SentCell) : State :=
  match s.port? p with
  | none => s
  | some x =>
    { s.updPort p (fun y => { y with deal := (x.deal + cells.length) % max x.lanes.length 1 }) with
      out := { s.out with wire := s.out.wire ++ [.cells p (dealCells x.lanes x.deal cells)] } }

/-- A waiting packet leaves; the cells in which it came are free. -/
def State.sendWaiting (s : State) (p : Nat) (w : Waiting) : State :=
  match s.port? p with
  | none => s
  | some x =>
    let n := packetCells w.pkt
    let cells := cellsOfPacket w.pkt x.nextSeq
    let s1 := (s.updPort p (fun y => { y with
      egress := y.egress.erase w
      credits := y.credits.set w.buffer (y.credits.getD w.buffer 0 - n)
      owed := if 11 ≤ w.buffer then y.owed ++ [(w.buffer, n)] else y.owed
      replayBuf := y.replayBuf ++ cells
      lastReduce := (w.reduce.map (·.queue)).getD y.lastReduce
      nextSeq := y.nextSeq + BitVec.ofNat 32 n })).sendCells p cells
    match w.held with
    | some h => s1.freeCells h.1 h.2 n
    | none => s1

/-- The weighted virtual channels in the order of their weights (R351, R363). -/
def weightedVcs : List Nat := [1, 2, 3, 4, 7]

/-- Egress arbitration (R351): VC 5, 6 and 0 strictly first, then deficit round-robin in cells among the others. fuel bounds the turns. -/
def State.drainPort (p : Nat) : Nat → State → State
  | 0, s => s
  | n + 1, s =>
    match s.port? p with
    | none => s
    | some x =>
      match [5, 6, 0].findSome? (fun v => x.sendable s.isHalted v) with
      | some w => State.drainPort p n (s.sendWaiting p w)
      | none =>
        if !weightedVcs.any (fun v => (x.sendable s.isHalted v).isSome) then s
        else
          let k := x.turn % 5
          match x.sendable s.isHalted (nth weightedVcs k 1) with
          | none => State.drainPort p n (s.updPort p (fun y => { y with turn := (k + 1) % 5, deficit := y.deficit.set k 0 }))
          | some w =>
            let d := x.deficit.getD k 0
            let c := packetCells w.pkt
            if c ≤ d then State.drainPort p n ((s.sendWaiting p w).updPort p (fun y => { y with deficit := y.deficit.set k (d - c) }))
            else
              let next := (k + 1) % 5
              State.drainPort p n (s.updPort p (fun y => { y with turn := next, deficit := y.deficit.set k (d + s.link.policy.weights.getD k 1) }))

/-- Every packet that a port can send leaves. -/
def State.drain (s : State) (p : Nat) : State :=
  match s.port? p with
  | none => s
  | some x => State.drainPort p (800 * (x.egress.length + 1)) s

/-! ### Routing -/

/-- The paths of a route entry: VALID and the port of each (R353). -/
def routePaths (w : W32) : List (Bool × Nat) := (List.range 4).map (fun k => let b := w.toNat / 2 ^ (8 * k) % 256; (bitAt b 7, b % 64))

/-- The usable paths of a destination, in the order of the route entry (R354). -/
def State.usablePaths (s : State) (dest : Nat) : List Nat :=
  match s.link.routes.find? (fun r => r.1 == dest) with
  | none => []
  | some (_, w) => ((routePaths w).filter (·.1)).filterMap (fun k => match s.port? k.2 with
    | some p => if p.state = .up ∧ p.joined then some p.num else none
    | none => none)

/-- Cells that wait on a port for the adaptive buffer of a virtual channel. -/
def Port.queued (x : Port) (vc : Nat) : Nat := (x.egress.filter (fun w => (Packet.buffer w.pkt) == bufferOf vc false)).foldl (fun n w => n + packetCells w.pkt) 0

/-- The egress port of a packet (R354). -/
def State.egressOf (s : State) (p : Packet) : Option Nat :=
  let paths := s.usablePaths p.dest
  if fixedVc p.vc || p.escape then paths.head?
  else
    let load (q : Nat) : Nat := ((s.port? q).map (fun x => x.queued p.vc)).getD 0
    paths.foldl (fun best q => match best with
      | none => some q
      | some b => if load q < load b then some q else some b) none

/-- A packet waits on a port and leaves when it can. -/
def State.enqueue (s : State) (q : Nat) (w : Waiting) : State := (s.updPort q (fun x => { x with egress := x.egress ++ [w] })).drain q

/-- A discarded packet raises the wave during a step (R356). -/
def State.discardPacket (s : State) (noPath : Bool) : State :=
  let s1 := if noPath then { s with link := { s.link with noPath := satAdd16 s.link.noPath 1 } } else { s with link := { s.link with hopLimitDrops := satAdd16 s.link.hopLimitDrops 1 } }
  if s1.stepRunning then s1.raiseWave 0x07 0 else s1

/-! ### The chip's own messages -/

/-- A packet of this chip goes to its port: the one it must leave by, or the egress of its destination; without a usable path it is discarded (R354, R356). A packet to the chip itself uses no link (R353). -/
def State.launch (s : State) (x : Post) (p : Packet) : State :=
  let w : Waiting := ⟨p, (Packet.credit p), none, x.reduce⟩
  match x.port with
  | some q => s.enqueue q w
  | none =>
    if p.dest = s.chipId.toNat then s
    else match s.egressOf p with
      | none => s.discardPacket true
      | some q => s.enqueue q w

/-- A message leaves as its packets, under the next batch tag of its destination (R345). -/
def State.post (s : State) (x : Post) : State :=
  let tag := assocGet s.link.nextBatch x.dest 0
  (x.packets s.chipId.toNat tag).foldl (fun s p => s.launch x p) { s with link := { s.link with nextBatch := assocSet s.link.nextBatch x.dest ((tag + 1) % 2 ^ 16) } }

/-- The messages that have not been cut into packets, in their order. fuel bounds them: the halt cells of one wave may join them. -/
def State.postAll : Nat → State → State
  | 0, s => s
  | n + 1, s =>
    match s.out.sent[s.link.posted]? with
    | none => s
    | some m => State.postAll n ((s.posts m).foldl State.post { s with link := { s.link with posted := s.link.posted + 1 } })

/-- Every message of the chip leaves. -/
def State.servePosts (s : State) : State := State.postAll (s.out.sent.length - s.link.posted + 65) s

/-! ### Authentication -/

/-- The statement that an end signs (R357): both chip IDs and both nonces, the signer's first, the signer's port number and its lanes. -/
def linkStatement (own peer : Nat) (ownNonce peerNonce : List Byte) (port : Nat) (lanes : List Nat) : List Byte :=
  toLE 2 own ++ toLE 2 peer ++ padTo 32 ownNonce ++ padTo 32 peerNonce ++ toLE 1 port ++ toLE 8 (maskOf lanes)

/-- A certificate record, empty when absent. -/
def State.certOf (s : State) (kind : Nat) : List Byte := ((s.flash.certs.find? (fun c => c.1 == kind)).map (·.2)).getD []

/-- A port that knows its peer's nonce sends its signature over the statement and its certificate chain. -/
def State.proveSelf (s : State) (p : Nat) : State :=
  match s.port? p with
  | none => s
  | some x =>
    let d := s.draw
    let st := linkStatement s.chipId.toNat x.peer.toNat x.nonce x.peerNonce x.num x.lanes
    (d.2.updPort p (fun y => { y with provedSelf := true })).send
      (.auth p (.proof (Config.mldsaSign d.1 s.fuses.idSeed st) (Config.mldsaPublic s.fuses.idSeed) (s.certOf 1) (s.certOf 2) (s.certOf 3)))

/-- A nonce for a peer (R357). -/
def State.nonceBytes (s : State) : List Byte × State :=
  let d := s.draw
  ((List.range 32).map (fun i => Config.nonceByte d.1 i), d.2)

/-- A port in AUTH whose exchange has begun: it has sent its nonce. -/
def Port.authenticating (x : Port) : Bool := x.state == .auth && !x.nonce.isEmpty

/-- A port in AUTH sends its nonce, unless two ports authenticate already (R357); where its peer's nonce has come before, it proves itself at once. -/
def State.beginAuth (s : State) (p : Nat) : State :=
  match s.port? p with
  | none => s
  | some x =>
    if x.state ≠ .auth ∨ x.authenticating ∨ 2 ≤ (s.link.ports.filter Port.authenticating).length then s else
    let n := s.nonceBytes
    let s1 := (n.2.updPort p (fun y => { y with nonce := n.1 })).send (.auth p (.nonce n.1))
    if x.peerNonce.isEmpty || !s.sec.keyReady then s1 else s1.proveSelf p

/-- Ports that wait to authenticate begin, in ascending order, while fewer than two authenticate. -/
def State.serveAuth (s : State) : State := (s.link.ports.map (·.num)).foldl State.beginAuth s

end Sys2Proof.Machine
end

