-- ==== Sys2Proof/Machine/Settle.lean ====
section
/-! DEFINITION. What follows every command and event, and the frame of a host access. -/
namespace Sys2Proof.Machine

/-- What follows every step of the chip: quarantines that are due, ridges that leave register mode, the barrier of the running step, ports that wait to authenticate, messages that leave as packets (which may bring a halt), a park, acknowledgements and credit that are due; the signals of vector 63 and MGT_ALERT_N. The queue of waiting commands is the step's own. -/
def State.settled (old new : State) : State :=
  { (State.signalRisen old new.serveQuarantine.leaveRegister.serveBarrier.serveAuth.servePosts.servePark.serveSlots).pullAlert with pending := old.pending }

/-- What every command and event ends with; while reset is asserted only the resets themselves and the release of reset change the chip. -/
def State.settle (old new : State) : State := if old.boot.inReset && new.boot.inReset then old else old.settled new

/-! ### Records from other chips -/

/-- What a record that comes on VC 1 to 4 or 7 does: a halted chip discards it (R389). -/
def State.arrives (s t : State) : State := if s.isHalted then s else t

/-! ### Host accesses -/

/-- A memory request to BAR0 or BAR2: in D3hot it is completed with Unsupported Request (R551). -/
def State.bar (s : State) (f : State → State) : State :=
  if s.host.d3hot then { s with host := { s.host with resp := ⟨[], false, true, false⟩ } } else f s

end Sys2Proof.Machine
end

