-- ==== Sys2Proof/Machine/Operands.lean ====
section
/-! DEFINITION. The operand forms of Tuimi packets: the header of R28 to R31, breaches and which one a reply reports (R46), what an opcode's chapter fixes for its packet, tensors in device memory,
and the frame in which every command of a packet runs. -/
namespace Sys2Proof.Machine

/-! ### The header -/

/-- SEQUENCE, PARAM_LENGTH, RESP_QUEUE, DL_SCALE, DL_COUNT, REPLY_ADDRESS, PLAN_STEP_TAG (R28, R30). -/
def pktSequence (p : List Byte) : Nat := field p 4 4
def pktParamLength (p : List Byte) : Nat := field p 8 4
def pktRespQueue (p : List Byte) : Nat := bits (field p 12 4) 31 26
def pktDlScale (p : List Byte) : Nat := bits (field p 12 4) 25 24
def pktDlCount (p : List Byte) : Nat := bits (field p 12 4) 23 8
def pktReplyAddress (p : List Byte) : Nat := field p 16 8
def pktTag (p : List Byte) : Nat := field p 24 8

/-- The family of an opcode: its top digit. -/
def familyOf (op : Nat) : Nat := op / 4096

/-- The rows of the deadline table (R52) in order, by opcode: SYS, CFG and TELEM 0; GRAPH, EMBED and UPDATE 1; MATRIX, VEC, FUNC and SPARSE 2; COLL 3; MEM 4; POWER 5; HEALTH 6; CTX 7; SEC 8;
PLAN.LOAD 9; PLAN.UNLOAD 10; STEP.RUN 11; PLAN.BARRIER and PLAN.AGREE 12 (the barrier deadline). -/
def deadlineRow (op : Nat) : Nat :=
  match familyOf op with
  | 0 => 0 | 1 => 0 | 0xE => 0
  | 2 => 1 | 6 => 1 | 7 => 1
  | 3 => 2 | 4 => 2 | 5 => 2
  | 8 => 3 | 9 => 4 | 0xA => 5 | 0xB => 6 | 0xC => 7 | 0xD => 8
  | _ => if op = 0xF001 then 9 else if op = 0xF002 then 10 else if op = 0xF010 then 11 else 12

/-- Default and maximum deadlines by row in microseconds, the barrier deadline last (R52). -/
def deadlineDefaults : List Nat :=
  [100000, 50000, 20000, 200000, 1000000, 10000, 10000000, 300000000, 1000000, 1000000, 100000, 10000000, 200000]
def deadlineMaxima : List Nat :=
  [10000000, 10000000, 10000000, 60000000, 60000000, 1000000, 600000000, 3600000000, 10000000, 10000000, 10000000, 3600000000, 60000000]

/-- A packet's own deadline in microseconds, when DL_SCALE is not 0 (R30). -/
def pktDeadline (p : List Byte) : Nat := pktDlCount p * nth [0, 1, 1000, 1000000] (pktDlScale p) 0

/-- The deadline of the packet is legal (R31). -/
def deadlineLegal (p : List Byte) : Bool :=
  decide (pktDlScale p = 0) || (decide (pktDlCount p ≠ 0) && decide (pktDeadline p ≤ nth deadlineMaxima (deadlineRow (opcodeOf p)) 0))

/-! ### Breaches -/

/-- A check of R46: whether it fails, its place in the order, and the result it gives. -/
structure Breach where
  fails : Bool
  order : Nat
  res : Result
  deriving DecidableEq, Repr, Inhabited

/-- Check 5, check 6 (BAD_PARAM before INDEX_RANGE), check 7 and check 8. -/
def bAlign (c : Bool) (off : Nat) : Breach := ⟨c, 10, badAlign off⟩
def bParam (c : Bool) (reason off : Nat) : Breach := ⟨c, 12, badParam reason off⟩
def bIndex (c : Bool) (reason off : Nat) : Breach := ⟨c, 13, resOf stIndexRange reason off⟩
def bResource (c : Bool) (reason : Nat) : Breach := ⟨c, 14, resOf stNoResource reason 0⟩
def bBusy (c : Bool) (reason : Nat) : Breach := ⟨c, 16, resOf stBusy reason 0⟩

/-- The order in which two breaches are reported: the earlier check, then the lowest reason number, then the lowest byte offset (R46). -/
def Breach.before (a b : Breach) : Bool :=
  decide (a.order < b.order) || (decide (a.order = b.order) && decide (a.res.detail.toNat < b.res.detail.toNat))

/-- The result that a command with these breaches ends with, if any fails. -/
def firstBreach (bs : List Breach) : Option Result :=
  ((bs.filter (·.fails)).foldl (fun (acc : Option Breach) b => match acc with
    | none => some b
    | some a => if b.before a then some b else some a) none).map (·.res)

/-- What a command runs in: its id, where it came from, its packet, and the logical ridges that serve it (R141). -/
structure Ctx where
  id : Nat
  src : Src
  pkt : List Byte
  branch : Option Nat
  ridges : List Nat
  deriving DecidableEq, Repr, Inhabited

/-- A field of the command's packet. -/
def Ctx.f (c : Ctx) (off n : Nat) : Nat := field c.pkt off n

/-- What an opcode's chapter fixes: its code, its PARAM_LENGTH (none: any), the flags it allows beyond FENCE, NODEFER and QUIET, the spans of the packet that its fields use, the reason for a breach of its
limits in general, the checks on the packet alone, and the checks on the packet and the state. -/
structure OpInfo where
  code : Nat
  len : Option Nat := some 0
  flags : Nat := 0
  used : List (Nat × Nat) := []
  reason : Nat := 0
  static : List Byte → List Breach := fun _ => []
  dyn : State → Ctx → List Breach := fun _ _ => []

/-- No field of the packet uses byte k of the parameters. -/
def OpInfo.unused (i : OpInfo) (k : Nat) : Bool := !i.used.any (fun u => decide (u.1 ≤ k) && decide (k < u.1 + u.2))

/-- The reserved fields of a packet of some bytes: each run of bytes from 32 on that no field uses, by its first byte and its length; the inline parameters and the extended block are fields apart (R28). from
is the first byte of the run that byte k goes on with. -/
def OpInfo.reservedFields (i : OpInfo) : Nat → Nat → Option Nat → List (Nat × Nat)
  | 0, k, run => match run with
    | some a => [(a, k - a)]
    | none => []
  | n + 1, k, run =>
    if i.unused k then
      (match run with
      | some a => if k = 64 then (a, k - a) :: i.reservedFields n (k + 1) (some k) else i.reservedFields n (k + 1) (some a)
      | none => i.reservedFields n (k + 1) (some k))
    else (match run with
      | some a => (a, k - a) :: i.reservedFields n (k + 1) none
      | none => i.reservedFields n (k + 1) none)

/-- The reserved fields of the parameters must be 0: each that is not is a breach at its own offset (R6, R46). -/
def reservedBreaches (i : OpInfo) (p : List Byte) : List Breach :=
  (i.reservedFields (p.length - 32) 32 none).map (fun x => bParam (!allZero p x.1 x.2) i.reason x.1)

/-- Checks 5 and 6 as far as the packet alone decides them. -/
def OpInfo.staticCheck (i : OpInfo) (p : List Byte) : Option Result := firstBreach (reservedBreaches i p ++ i.static p)

/-- Checks 5 to 8. -/
def OpInfo.check (i : OpInfo) (s : State) (c : Ctx) : Option Result :=
  firstBreach (reservedBreaches i c.pkt ++ i.static c.pkt ++ i.dyn s c)

/-! ### Addresses of a packet -/

/-- The offset in the mailbox data buffer that an address names in a mailbox packet (R560). -/
def Ctx.mailboxOffset (c : Ctx) (a : Nat) : Option Nat :=
  if c.src = .mailbox ∧ a / 2 ^ 14 = 2 ^ 50 - 1 then some (a % 2 ^ 14) else none

/-- The check of a range of device memory: it lies in one window that is in use (R420). -/
def windowBreach (s : State) (a n off : Nat) : List Breach :=
  match s.rangeReason a n with
  | some r => [bParam true r off]
  | none => []

/-- The check of a range named by a packet: R420, or the mailbox data buffer (R560). -/
def rangeBreach (s : State) (c : Ctx) (a n off : Nat) : List Breach :=
  match c.mailboxOffset a with
  | some o => [bResource (decide (2 ^ 14 < o + n)) 0]
  | none => windowBreach s a n off

/-- As rangeBreach, for a field that may be 0 for none. -/
def rangeBreachOpt (s : State) (c : Ctx) (a n off : Nat) : List Breach := if a = 0 then [] else rangeBreach s c a n off

/-- A read at an address of a packet: device memory, or the mailbox data buffer. -/
def State.readAt (s : State) (c : Ctx) (a n : Nat) : ReadRes :=
  match c.mailboxOffset a with
  | some o => { ReadRes.empty with data := cellRead s.host.mboxData o n }
  | none => s.read a n

/-- The counts of a read at an address of a packet. -/
def State.noteReadAt (s : State) (c : Ctx) (cls a n : Nat) : State :=
  match c.mailboxOffset a with
  | some _ => s
  | none => s.noteRead cls a n

/-- A write at an address of a packet. -/
def State.storeAt (s : State) (c : Ctx) (cls a : Nat) (bs : List Byte) : State × WriteRes :=
  match c.mailboxOffset a with
  | some o => ({ s with host := { s.host with mboxData := cellWrite s.host.mboxData o bs } }, .none)
  | none => s.store cls a bs

/-! ### The frame of a command -/

/-- The logical ridges of a branch of a plan, all enabled ridges otherwise (R141). -/
def State.ridgeSet (s : State) (branch : Option Nat) : List Nat :=
  match branch, s.plans.step with
  | some b, some st => ((st.plan.branches.getD b default).ridges)
  | _, _ => List.range s.E

/-- The branch of a command: that of its plan entry, none for a step-level entry or a directly submitted command. -/
def State.branchOf (s : State) (src : Src) : Option Nat :=
  match src, s.plans.step with
  | .plan e, some st =>
    let en := st.plan.entries.getD e default
    if en.branch = 0xFF then none else some en.branch
  | _, _ => none

/-- The frame of a command in flight. -/
def State.ctxOf (s : State) (c : Cmd) : Ctx :=
  let b := s.branchOf c.src
  ⟨c.id, c.src, c.pkt, b, s.ridgeSet b⟩

/-- The command is a plan entry. -/
def Ctx.inPlan (c : Ctx) : Bool :=
  match c.src with
  | .plan _ => true
  | _ => false

/-- The plan ID and entry of a plan entry's command. -/
def State.planEntryOf (s : State) (c : Ctx) : Option (Nat × Nat) :=
  match c.src, s.plans.step with
  | .plan e, some st => some (st.plan.id, e)
  | _, _ => none

/-- Every earlier packet of the same submission queue has completed (R29, R45). Waits of plan entries are judged when the entry starts. -/
def State.fenceMet (s : State) (c : Cmd) : Bool :=
  match c.src with
  | .queue _ => !flagFence c.pkt || s.queues.cmds.all (fun d => decide (d.src ≠ c.src) || decide (c.id ≤ d.id) || !d.stage.live)
  | _ => true

/-- The command that a row names by id, when it may start: taken, of the row's opcode, its fence met. -/
def State.startable (s : State) (id op : Nat) : Option Cmd :=
  match s.cmd? id with
  | some c => if c.stage = .taken ∧ opcodeOf c.pkt = op ∧ s.fenceMet c then some c else none
  | none => none

/-- The frame in which every Tuimi command runs: when it may not start nothing changes; a failed check ends it without effect (R46); otherwise its effect happens, and it ends with a result or runs on. -/
def State.runCmd (s : State) (i : OpInfo) (id : Nat) (effect : State → Ctx → State × Option Result) : State :=
  match s.startable id i.code with
  | none => s
  | some c =>
    let ctx := s.ctxOf c
    match i.check s ctx with
    | some r => s.endCmd id r
    | none =>
      let e := effect (s.setStage id .running) ctx
      match e.2 with
      | some r => e.1.endCmd id r
      | none => e.1

/-- A running command's frame, for the events that continue it. -/
def State.runningCtx (s : State) (id : Nat) : Option Ctx :=
  match s.cmd? id with
  | some c => if c.stage = .running then some (s.ctxOf c) else none
  | none => none

/-! ### Numerics counters -/

/-- FP32 results counted under R180. -/
def State.countNonfinite (s : State) (n : Nat) : State :=
  if n = 0 then s else
  { s with num := { s.num with nonfinite := satAdd32 s.num.nonfinite n, nonfiniteBit := true } }

/-- The counter set of a conversion (R192): the plan entry's own, the overflow set 0xFF, or 0xFE for a directly submitted command. -/
def State.counterKey (s : State) (c : Ctx) : Nat × Nat :=
  match s.planEntryOf c with
  | none => (0xFE, 0)
  | some (p, e) => if s.num.sets.any (fun x => x.plan == p && x.entry == e) then (p, e) else (0xFF, 0)

/-- The counts of a conversion in its set and chip-wide (R177, R178, R187, R192, R194). -/
def State.countConv (s : State) (c : Ctx) (k : ConvCount) : State :=
  if k = .zero then s else
  let key := s.counterKey c
  let sets := mapWhere (fun (x : CounterSet) => x.plan == key.1 && x.entry == key.2)
    (fun x => { x with flush := satAdd32 x.flush k.flush, nonfinite := satAdd32 x.nonfinite k.nonfinite, miss := satAdd32 x.miss k.miss }) s.num.sets
  { s with num := { s.num with
      sets := sets
      flush := satAdd32 s.num.flush k.flush
      miss := satAdd32 s.num.miss k.miss
      nonfiniteBit := s.num.nonfiniteBit || decide (k.nonfinite ≠ 0)
      missBit := s.num.missBit || decide (k.miss ≠ 0) } }

/-- The scale history of the command's plan entry (R184). -/
def State.historyOf (s : State) (c : Ctx) : Option (List (List (Option Int))) :=
  match s.planEntryOf c with
  | none => none
  | some (p, e) => (s.num.histories.find? (fun h => h.plan == p && h.entry == e)).map (·.steps)

/-- The history of the command's entry takes the e_b of this step, held as signed bytes; 16 steps are kept (R185). -/
def State.recordHistory (s : State) (c : Ctx) (es : List (Option Int)) : State :=
  match s.planEntryOf c with
  | none => s
  | some (p, e) =>
    let held := mapWhere (fun (h : History) => h.plan == p && h.entry == e)
      (fun h => { h with steps := (es.map (·.map clampX) :: h.steps).take 16 }) s.num.histories
    { s with num := { s.num with histories := held } }

/-! ### Tensors in device memory -/

/-- A stored tensor: format, rows, columns, address, pitch, scale layout and scale address. -/
structure Tensor where
  fmt : Nat
  rows : Nat
  cols : Nat
  addr : Nat
  pitch : Nat
  layout : Layout
  scales : Nat
  deriving DecidableEq, Repr

/-- The ranges a tensor occupies: from its first row to the end of its last, and its scale array. -/
def Tensor.ranges (t : Tensor) : List (Nat × Nat) :=
  let n := if t.rows = 0 then 0 else (t.rows - 1) * t.pitch + rowBytes t.fmt t.cols
  (t.addr, n) :: (if isMx t.fmt then [(t.scales, scaleBytes t.layout t.rows t.cols)] else [])

/-- The bytes of a tensor's rows, as read. -/
def State.tensorRows (s : State) (t : Tensor) : List (List Byte) :=
  (List.range t.rows).map (fun r => (s.read (t.addr + r * t.pitch) (rowBytes t.fmt t.cols)).data)

/-- The bytes of a tensor's scale array. -/
def State.tensorScales (s : State) (t : Tensor) : List Byte :=
  if isMx t.fmt then (s.read t.scales (scaleBytes t.layout t.rows t.cols)).data else []

/-- The FP32 words of a tensor, and its exact values. -/
def State.tensorF32 (s : State) (t : Tensor) : List (List F32) := tensorWords t.fmt t.cols t.layout (s.tensorRows t) (s.tensorScales t)
def State.tensorFp (s : State) (t : Tensor) : List (List Fp) := tensorValues t.fmt t.cols t.layout (s.tensorRows t) (s.tensorScales t)

/-- The reads that take a tensor: its rows without the gaps between them, and its scales. -/
def Tensor.reads (t : Tensor) : List (Nat × Nat) :=
  (List.range t.rows).map (fun r => (t.addr + r * t.pitch, rowBytes t.fmt t.cols))
    ++ (if isMx t.fmt then [(t.scales, scaleBytes t.layout t.rows t.cols)] else [])

/-- The writes that store a converted tensor. -/
def Tensor.writes (t : Tensor) (k : Converted) : List (Nat × List Byte) :=
  (k.rows.zipIdx).map (fun (bs, r) => (t.addr + r * t.pitch, bs)) ++ (if isMx t.fmt then [(t.scales, k.scales)] else [])

/-- The range checks of a tensor named by packet fields at off and (scales) soff. -/
def tensorBreach (s : State) (c : Ctx) (t : Tensor) (off soff : Nat) : List Breach :=
  match t.ranges with
  | [r] => rangeBreach s c r.1 r.2 off
  | r :: q :: _ => rangeBreach s c r.1 r.2 off ++ rangeBreach s c q.1 q.2 soff
  | [] => []

end Sys2Proof.Machine
end

