-- ==== Sys2Proof/Machine/RandomBits.lean ====
section
/-! DEFINITION. The random-bit generator: the cellular automaton (R215), its output (R216), the keyed mixer (R217) and the draws that elements take (R218). -/
namespace Sys2Proof.Machine

/-- The rule mask of R215: bit i is 1 where cell i follows rule 150. -/
def ruleMask : Nat :=
  (([0x9A3C, 0x51E7, 0x0D6B, 0xE248, 0x7F15, 0x3B90, 0xC6A2, 0x2D5E] : List Nat).zipIdx).foldl (fun m p => m + p.1 * 2 ^ (16 * p.2)) 0

/-- One cycle of the automaton on 128 cells, bit k of the number being c[k] (R215). -/
def caStep (c : Nat) : Nat := (2 * c % 2 ^ 128) ^^^ (c / 2) ^^^ (c &&& ruleMask)

/-- n cycles. -/
def caSteps : Nat → Nat → Nat
  | 0, c => c
  | n + 1, c => caSteps n (caStep c)

/-- The 32-bit draw of a cell state (R216). -/
def caDraw (c : Nat) : Nat :=
  (List.range 32).foldl (fun a j =>
    a + bnat (bitAt c (4 * j) ^^ (bitAt c (4 * j + 1) && bitAt c (4 * j + 3)) ^^ bitAt c ((4 * j + 66) % 128)) * 2 ^ j) 0

/-- Rotation of a 64-bit number to the left. -/
def rotl64 (x n : Nat) : Nat := (x * 2 ^ n % 2 ^ 64) ||| (x / 2 ^ (64 - n))

/-- The cells that the keyed mixer loads for a block (R217). -/
def mixCells (seed stream b : Nat) : Nat :=
  let r := (List.range 8).foldl (fun (ax : Nat × Nat) r =>
    let a := (ax.1 + ax.2 + (stream ^^^ r) * 0x9E3779B9) % 2 ^ 64
    let x := rotl64 ax.2 23 ^^^ a
    (rotl64 a 41 ^^^ (x / 2 ^ 11), x)) (seed ^^^ 0x243F6A8885A308D3, b)
  let cells := r.1 + r.2 * 2 ^ 64
  if cells = 0 then 1 else cells

/-- Draw q of a block (R217). -/
def blockDraw (seed stream b q : Nat) : Nat := caDraw (caSteps (q + 1) (mixCells seed stream b))

/-- The element word of a logical index under share factor s (R218). -/
def elementWord (seed stream s idx : Nat) : Nat :=
  let p := idx % 64
  let d := blockDraw seed stream (idx / 64) (p / s)
  let k := 32 * (p % s) / s
  (d / 2 ^ k ||| d * 2 ^ (32 - k)) % 2 ^ 32

/-- The element's bits, of width 32 / s (R218). -/
def elementBits (seed stream s idx : Nat) : Nat := elementWord seed stream s idx % 2 ^ (32 / s)

end Sys2Proof.Machine
end

