-- ==== Sys2Proof/Machine/GraphUnit.lean ====
section
/-! DEFINITION. Graph storage and neighbourhood sampling (R69 to R106): shards, jobs, draws, path logs, expansion requests to and from other chips, and alias-table rebuilds. -/
namespace Sys2Proof.Machine

/-! ### Shards -/

/-- The owner rank and the local index of a node ID (R69). -/
def ownerOf (node : Nat) : Nat := node / 2 ^ 32
def localOf (node : Nat) : Nat := node % 2 ^ 32

/-- An installed shard. -/
def State.shard? (s : State) (id : Nat) : Option Shard := s.graph.shards.find? (fun x => x.id == id)

/-- A shard changed. -/
def State.updShard (s : State) (id : Nat) (f : Shard → Shard) : State :=
  { s with graph := { s.graph with shards := mapWhere (fun x => x.id == id) f s.graph.shards } }

/-- The alias copy in use, and the shadow. -/
def Shard.current (x : Shard) : Nat := if x.currentB then x.aliasB else x.aliasA
def Shard.shadow (x : Shard) : Nat := if x.currentB then x.aliasA else x.aliasB

/-- The shard that a descriptor installs (R71, R75): copy A current, not stale. -/
def shardOf (bs : List Byte) : Shard :=
  let f := field bs 6 1
  ⟨field bs 7 1, bitAt f 0, bitAt f 1, bitAt f 2, field bs 8 4, field bs 16 8, field bs 24 8, field bs 32 8, field bs 40 8, field bs 48 8, field bs 56 8, false, false, .idle⟩

/-- A breach that ends with a status of its own after checks 6 and 7. R80 does not place STEP_MISMATCH in the order of R46: that it comes after NO_RESOURCE is the model's choice (DESIGN CHOICE, log 101). -/
def bStatus (c : Bool) (st : Byte) : Breach := ⟨c, 15, resStatus st⟩

/-- Breaches of R582: a command that needs a job, and its rank table when N is above 1. -/
def jobBreach (s : State) : List Breach := [bParam (!s.jobReady) 0x73 0]

def graphShardSetInfo : OpInfo where
  code := 0x2001
  used := [(32, 8)]
  static := fun p => [bAlign (decide (field p 32 8 % 64 ≠ 0)) 32]
  dyn := fun s c =>
    let a := c.f 32 8
    let rr := s.read a 64
    let x := shardOf rr.data
    rangeBreach s c a 64 32 ++
    (if (s.rangeReason a 64).isSome || !rr.good then [] else
      [ bAlign ([x.offsets, x.neighbours, x.weights, x.aliasA, x.aliasB].any (fun v => decide (v % 64 ≠ 0))) 32,
        bParam (decide (field rr.data 0 4 ≠ 0x44524853) || decide (field rr.data 4 2 ≠ 1)) 0 32,
        bParam ((x.hasWeights && decide (x.weights = 0)) || (x.hasAlias && (decide (x.aliasA = 0) || decide (x.aliasB = 0)))) 0 32,
        bParam (x.hasAlias && !x.hasWeights) 0 32 ]
      ++ rangeBreach s c x.offsets (8 * (x.nodes + 1)) 32
      ++ (if x.edges = 0 then [] else rangeBreach s c x.neighbours (8 * x.edges) 32)
      ++ (if x.hasWeights && decide (x.edges ≠ 0) then rangeBreach s c x.weights (4 * x.edges) 32 else [])
      ++ (if x.hasAlias && decide (x.edges ≠ 0) then rangeBreach s c x.aliasA (8 * x.edges) 32 ++ rangeBreach s c x.aliasB (8 * x.edges) 32 else []))

/-- The descriptor and the first and last offsets are read; an installed shard of the same ID is replaced and its rebuild abandoned (R75). What waits for the swap of an abandoned rebuild goes on waiting
(DESIGN CHOICE, log 100). -/
def effectGraphShardSet (s : State) (c : Ctx) : State × Option Result :=
  let a := c.f 32 8
  let x := shardOf (s.read a 64).data
  let rs := [(a, 64), (x.offsets, 8), (x.offsets + 8 * x.nodes, 8)]
  let s1 := s.noteReads 1 rs
  match readStatus (s.read a 64), readStatus (s.readAll rs) with
  | some r, _ => (s.noteRead 1 a 64, some r)
  | none, some r => (s1, some r)
  | none, none =>
    if leNat (s.read x.offsets 8).data ≠ 0 ∨ leNat (s.read (x.offsets + 8 * x.nodes) 8).data ≠ x.edges then (s1, some (badParam 0 32))
    else ({ s1 with graph := { s1.graph with shards := s1.graph.shards.filter (fun y => y.id != x.id) ++ [x] } }, some resOK)

/-- GRAPH.SHARD_SET (R75). -/
def execGraphShardSet (id : Nat) (s : State) : Out State := .next (s.settle (s.runCmd graphShardSetInfo id effectGraphShardSet))

def graphShardClearInfo : OpInfo where
  code := 0x2002
  used := [(32, 1)]

def effectGraphShardClear (s : State) (c : Ctx) : State × Option Result :=
  ({ s with graph := { s.graph with shards := s.graph.shards.filter (fun y => y.id != c.f 32 1) } }, some resOK)

/-- GRAPH.SHARD_CLEAR (R78). -/
def execGraphShardClear (id : Nat) (s : State) : Out State := .next (s.settle (s.runCmd graphShardClearInfo id effectGraphShardClear))

def graphJobInfo : OpInfo where
  code := 0x2003
  used := [(32, 8)]
  static := fun p => [bParam (decide (field p 32 4 = 0) || decide (65536 < field p 32 4)) 0 32, bParam (decide (field p 32 4 ≤ field p 36 4)) 0 36]

/-- The rank table is discarded and the collective grid becomes one dimension of size N (R366, R582). -/
def effectGraphJob (s : State) (c : Ctx) : State × Option Result :=
  ({ s with
    graph := { s.graph with job := some (c.f 32 4, c.f 36 4), ranks := none }
    coll := { s.coll with dims := [c.f 32 4] } }, some resOK)

/-- GRAPH.JOB (R582). -/
def execGraphJob (id : Nat) (s : State) : Out State := .next (s.settle (s.runCmd graphJobInfo id effectGraphJob))

/-! ### Draws -/

/-- The 64-bit draw of slot i of a stream (R82). -/
def State.draw64 (s : State) (stream i : Nat) : Nat :=
  elementWord s.vec.seed.toNat stream 1 (2 * i) + 2 ^ 32 * elementWord s.vec.seed.toNat stream 1 (2 * i + 1)

/-- Floyd's selection of f of d positions (R85, kind 0). -/
def floyd (f d : Nat) (dr : Nat → Nat) : List Nat :=
  (List.range f).foldl (fun chosen k =>
    let m := d - f + k
    let t := dr k * (m + 1) / 2 ^ 64
    chosen ++ [if chosen.contains t then m else t]) []

/-- Uniform without replacement. -/
def uniformPositions (f d : Nat) (dr : Nat → Nat) : List Nat := if d ≤ f then List.range d else floyd f d dr

/-- A weight as sampling sees it: negative, infinite and NaN weights are 0 (R77). -/
def weightFault (w : F32) : Bool := !f32Finite w || (f32Neg w && !f32IsZero w)
def cleanWeight (w : F32) : F32 := if weightFault w then 0 else w

/-- The min(d, f) positions of largest weight, equal weights lower position first (R85, kind 2). -/
def topPositions (f : Nat) (ws : List F32) : List Nat :=
  ((sortBy (fun (a b : F32 × Nat) => decide (f32Key b.1 < f32Key a.1) || (decide (f32Key a.1 = f32Key b.1) && decide (a.2 ≤ b.2))) ws.zipIdx).take f).map (·.2)

/-- The empty-list marker (R74). -/
def emptyMarker : Nat := 0xFFFFFFFF * 2 ^ 32

/-- The edge position that slot draw r selects from an alias list of d entries read through get (R85, kind 1): none at the empty-list marker, an error where ALIAS_POS lies outside the list (R76). -/
def aliasSlot (d r : Nat) (get : Nat → Nat) : Option (Option Nat) :=
  let p := r * d
  let a := get (p / 2 ^ 64)
  let th := a % 2 ^ 32
  let pos := a / 2 ^ 32
  if a = emptyMarker then some none
  else if d ≤ pos then none
  else some (some (if th = 0xFFFFFFFF ∨ p % 2 ^ 64 / 2 ^ 32 < th then p / 2 ^ 64 else pos))

/-- What serving one node gave: its entries, its failure, the reads made, the weight faults met, and whether a slot was drawn from an alias table. -/
structure Drawn where
  entries : List PathEntry
  fail : Option ItemFail
  reads : List (Nat × Nat)
  faults : Nat
  weighted : Bool
  deriving DecidableEq, Repr, Inhabited

/-- A failure found in words read: the status of an uncorrectable or poisoned word. -/
def State.failOf (s : State) (rs : List (Nat × Nat)) : Option ItemFail := (readStatus (s.readAll rs)).map (fun r => ⟨r.status, 0⟩)

/-- The list of a local node: its first position and degree, or its failure (R72, R76). -/
def State.nodeList (s : State) (x : Shard) (v : Nat) : ItemFail ⊕ (Nat × Nat) :=
  if x.nodes ≤ v then .inl ⟨stIndexRange, 0x02⟩ else
  let a := x.offsets + 8 * v
  match s.failOf [(a, 16)] with
  | some f => .inl f
  | none =>
    let o := leNat (s.read a 8).data
    let o1 := leNat (s.read (a + 8) 8).data
    if o1 < o ∨ x.edges < o1 then .inl ⟨stIndexRange, 0x03⟩ else .inr (o, o1 - o)

/-- The entry that an edge at a list position gives (R73, R89). -/
def State.edgeEntry (s : State) (x : Shard) (start t pos : Nat) : PathEntry :=
  let w := leNat (s.read (x.neighbours + 8 * (start + t)) 8).data
  ⟨w % 2 ^ 48, w / 2 ^ 48, 0, pos⟩

/-- The positions a kind selects in a list of d edges, with what it read beyond the neighbour entries. An alias entry is judged only where its word can be read, and an index failure decides before that of a
word (R76, R583). -/
def State.positions (s : State) (x : Shard) (kind f stream key start d : Nat) : List Nat × Option ItemFail × List (Nat × Nat) × Nat :=
  let dr (k : Nat) : Nat := s.draw64 stream (key * f + k)
  match kind with
  | 1 =>
    let base := x.current + 8 * start
    let get (t : Nat) : Nat := leNat (s.read (base + 8 * t) 8).data
    if d = 0 then ([], none, [], 0)
    else match s.failOf [(base, 8)] with
    | some fl => ([], some fl, [(base, 8)], 0)
    | none =>
      if get 0 = emptyMarker then ([], none, [(base, 8)], 0)
      else
        let at1 (k : Nat) : Nat × Nat := (base + 8 * (dr k * d / 2 ^ 64), 8)
        let rs := (base, 8) :: (List.range f).map at1
        let slots := ((List.range f).filter (fun k => (s.failOf [at1 k]).isNone)).map (fun k => aliasSlot d (dr k) get)
        if slots.any (·.isNone) then ([], some ⟨stIndexRange, 0x04⟩, rs, 0)
        else (slots.filterMap (fun o => o.getD none), s.failOf rs, rs, 0)
  | 2 =>
    if x.presorted then (List.range (min d f), none, [], 0)
    else
      let rs := if d = 0 then [] else [(x.weights + 4 * start, 4 * d)]
      let ws := ((chunks 4 (s.readAll rs).data).map leNat).map (BitVec.ofNat 32 ·)
      (topPositions f (ws.map cleanWeight), s.failOf rs, rs, (ws.filter weightFault).length)
  | _ => (uniformPositions f d dr, none, [], 0)

/-- One node of this chip served for kinds 0, 1, 2 and 4 (R85). -/
def State.drawNode (s : State) (x : Shard) (kind f stream key v : Nat) : Drawn :=
  let off := (x.offsets + 8 * v, 16)
  match s.nodeList x v with
  | .inl fl => ⟨[], some fl, if x.nodes ≤ v then [] else [off], 0, false⟩
  | .inr (start, d) =>
    let p := s.positions x kind f stream key start d
    let rs := p.1.map (fun t => (x.neighbours + 8 * (start + t), 8))
    let weighted := decide (kind = 1) && decide (1 < p.2.2.1.length)
    match p.2.1.or (s.failOf rs) with
    | some fl => ⟨[], some fl, off :: p.2.2.1 ++ rs, p.2.2.2, weighted⟩
    | none => ⟨p.1.map (fun t => s.edgeEntry x start t t), none, off :: p.2.2.1 ++ rs, p.2.2.2, weighted⟩

/-- One walk step on a node of this chip by slot i (R85 kind 3, R93 kind 5): no entry when its degree is 0. -/
def State.walkNode (s : State) (x : Shard) (stream i v : Nat) : Drawn :=
  let off := (x.offsets + 8 * v, 16)
  match s.nodeList x v with
  | .inl fl => ⟨[], some fl, if x.nodes ≤ v then [] else [off], 0, false⟩
  | .inr (start, d) =>
    if d = 0 then ⟨[], none, [off], 0, false⟩
    else
      let t := s.draw64 stream i * d / 2 ^ 64
      let r := (x.neighbours + 8 * (start + t), 8)
      match s.failOf [r] with
      | some fl => ⟨[], some fl, [off, r], 0, false⟩
      | none => ⟨[s.edgeEntry x start t 0xFFFFFFFF], none, [off, r], 0, false⟩

/-- What a hop's packet says (R79). -/
structure HopSpec where
  shard : Nat
  hop : Nat
  kind : Nat
  fan : Nat
  base : Nat
  restart : Nat
  staleOk : Bool
  deriving DecidableEq, Repr, Inhabited

/-- The fields of GRAPH.SAMPLE. -/
def hopSpec (p : List Byte) : HopSpec := ⟨field p 32 1, field p 33 1, field p 34 1, field p 36 2, field p 40 4, field p 80 4, flagStaleOk p⟩
def hopSeeds (p : List Byte) : Nat := field p 44 4
def hopFrontier (p : List Byte) : Nat := field p 48 8
def hopLog (p : List Byte) : Nat := field p 56 8
def hopLogSize (p : List Byte) : Nat := field p 64 8
def hopGlobal (p : List Byte) : Nat := field p 72 8

/-- A parent whose walk has ended, with the entries that it emitted; a walk that fails keeps those of its earlier steps (R97). -/
def HopParent.walked (p : HopParent) (w : Walk) (fail : Option ItemFail) : HopParent :=
  { p with entries := some (w.emitted.map (fun e => { e with parentPos := p.pos })), walk := none, fail := fail }

/-- A walk run on from its slot until it ends, fails, or stands on a node of another chip (R85). Answers what the parent becomes and the reads made; fuel bounds the slots. -/
def State.runWalk (s : State) (x : Shard) (h : HopSpec) (p : HopParent) : Nat → Walk → List (Nat × Nat) → HopParent × List (Nat × Nat)
  | 0, w, rs => (p.walked w none, rs)
  | n + 1, w, rs =>
    if h.fan ≤ w.slot then (p.walked w none, rs)
    else
      let i := p.key * h.fan + w.slot
      if elementWord s.vec.seed.toNat (h.base + 8 + h.hop) 1 i < h.restart then s.runWalk x h p n { w with slot := w.slot + 1, cur := p.node } rs
      else if s.jobN ≤ ownerOf w.cur then (p.walked w (some ⟨stIndexRange, 0x01⟩), rs)
      else if ownerOf w.cur ≠ s.rank then ({ p with walk := some w }, rs)
      else
        let d := s.walkNode x (h.base + h.hop) i (localOf w.cur)
        match d.fail, d.entries with
        | some fl, _ => (p.walked w (some fl), rs ++ d.reads)
        | none, [] => s.runWalk x h p n { w with slot := w.slot + 1, cur := p.node } (rs ++ d.reads)
        | none, e :: _ => s.runWalk x h p n { slot := w.slot + 1, cur := e.node, emitted := w.emitted ++ [e] } (rs ++ d.reads)

/-- What serving one parent gave: the parent, the reads made, the weight faults, and whether a slot was drawn from an alias table. -/
structure Served where
  parent : HopParent
  reads : List (Nat × Nat)
  faults : Nat
  weighted : Bool
  deriving DecidableEq, Repr, Inhabited

/-- A parent of a hop as far as this chip can serve it; one whose frontier entry cannot be read has failed already (R583). -/
def State.serveParent (s : State) (x : Shard) (h : HopSpec) (p : HopParent) : Served :=
  let mine := { p with routed := true }
  if p.fail.isSome then ⟨mine, [], 0, false⟩
  else if s.jobN ≤ ownerOf p.node then ⟨{ mine with fail := some ⟨stIndexRange, 0x01⟩ }, [], 0, false⟩
  else if h.kind = 3 then
    let r := s.runWalk x h { p with routed := decide (ownerOf p.node = s.rank) } (h.fan + 1) ⟨0, p.node, []⟩ []
    ⟨if r.1.walk.isSome then r.1 else { r.1 with routed := true }, r.2, 0, false⟩
  else if ownerOf p.node ≠ s.rank then ⟨p, [], 0, false⟩
  else
    let d := s.drawNode x h.kind h.fan (h.base + h.hop) p.key (localOf p.node)
    match d.fail with
    | some fl => ⟨{ mine with fail := some fl }, d.reads, d.faults, d.weighted⟩
    | none => ⟨{ mine with entries := some (d.entries.map (fun e => { e with parentPos := p.pos })) }, d.reads, d.faults, d.weighted⟩

/-- Weight faults are counted against a shard (R77). -/
def State.countFaults (s : State) (shard n : Nat) : State :=
  if n = 0 then s else
  { s with health := { s.health with counts := { s.health.counts with
      weightFaults := assocSet s.health.counts.weightFaults shard (satAdd32 (assocGet s.health.counts.weightFaults shard 0) n) } } }

/-! ### Request batches -/

/-- The owner of a batch, its length, whether it holds expansion requests. -/
def OpenBatch.owner : OpenBatch → Nat
  | .expansion o _ => o
  | .rows o _ => o
  | .lookup o _ => o
  | .contributions o _ => o
def OpenBatch.size : OpenBatch → Nat
  | .expansion _ rs => rs.length
  | .rows _ rs => rs.length
  | .lookup _ rs => rs.length
  | .contributions _ cs => cs.length

/-- The message that a batch becomes. -/
def OpenBatch.message : OpenBatch → Sent
  | .expansion o rs => .expansion o rs
  | .rows o rs => .rows o rs
  | .lookup o rs => .lookup o rs
  | .contributions o cs => .contributions o cs

/-- An expansion request enters the open batch to its owner, which is sent when it holds 32 (R94). -/
def State.batchExpansion (s : State) (owner : Nat) (r : ExpReq) : State :=
  let held := s.out.batches.findSome? (fun b => match b with
    | .expansion o rs => if o = owner then some rs else none
    | _ => none)
  let rest := s.out.batches.filter (fun b => match b with
    | .expansion o _ => o != owner
    | _ => true)
  let rs := held.getD [] ++ [r]
  if 32 ≤ rs.length then ({ s with out := { s.out with batches := rest } }).send (.expansion owner rs)
  else { s with out := { s.out with batches := rest ++ [.expansion owner rs] } }

/-- Open batches that pass a test are sent. -/
def State.sendBatches (s : State) (p : OpenBatch → Bool) : State :=
  let go := s.out.batches.filter p
  let s1 := { s with out := { s.out with batches := s.out.batches.filter (fun b => !p b) } }
  go.foldl (fun s b => s.send b.message) s1

/-- A batch of expansion requests. -/
def OpenBatch.isExpansion : OpenBatch → Bool
  | .expansion _ _ => true
  | _ => false

/-- A parent that waits for nothing yet and needs an owner. -/
def HopParent.needs (p : HopParent) : Bool := !p.asked && p.entries.isNone && p.fail.isNone

/-- A parent has been served. -/
def HopParent.done (p : HopParent) : Bool := p.entries.isSome || p.fail.isSome

/-- Expansion requests outstanding (R98). -/
def State.outstanding (s : State) : Nat := s.graph.hops.foldl (fun n h => n + (h.parents.filter (·.asked)).length) 0

/-- The request for a parent (R93). -/
def expReqOf (h : HopSpec) (step tag : Nat) (p : HopParent) : Nat × ExpReq :=
  match p.walk with
  | some w => (ownerOf w.cur, ⟨w.cur, h.hop, 5, 1, h.shard, h.staleOk, step, p.key * h.fan + w.slot, h.base + h.hop, tag⟩)
  | none => (ownerOf p.node, ⟨p.node, h.hop, h.kind, h.fan, h.shard, h.staleOk, step, p.key, h.base + h.hop, tag⟩)

/-- The chip's step number modulo 2^32. -/
def State.step32 (s : State) : Nat := s.plans.stepNo.toNat % 2 ^ 32

/-- A parent changed in its hop. -/
def State.updParent (s : State) (cmd pos : Nat) (f : HopParent → HopParent) : State :=
  let hops := mapWhere (fun h => h.cmd == cmd) (fun h => { h with parents := mapWhere (fun p => p.pos == pos) f h.parents }) s.graph.hops
  { s with graph := { s.graph with hops := hops } }

/-- A request for one parent is made, unless 65,536 are outstanding (R98). -/
def State.askParent (spec : HopSpec) (cmd : Nat) (s : State) (p : HopParent) : State :=
  if !p.needs || decide (65536 ≤ s.outstanding) then s else
  let tag := s.graph.nextTag
  let r := expReqOf spec s.step32 tag p
  let s1 := (s.updParent cmd p.pos (fun q => { q with routed := true, asked := true, tag := tag }))
  ({ s1 with graph := { s1.graph with nextTag := (tag + 1) % 2 ^ 32 } }).batchExpansion r.1 r.2

/-- Requests are made for every parent of every hop that needs one, in frontier order. -/
def State.askHops (s : State) : State :=
  s.graph.hops.foldl (fun s h => match s.cmd? h.cmd with
    | some c => h.parents.foldl (State.askParent (hopSpec c.pkt) h.cmd) s
    | none => s) s

/-- Some frontier node of a hop has not been routed: the limit on outstanding requests holds it back (R98). -/
def State.unrouted (s : State) : Bool := s.graph.hops.any (fun h => h.parents.any (fun p => !p.routed))

/-- Requests are made; when the last frontier node has been routed by that, all open batches are sent (R94). -/
def State.askAndFlush (s : State) : State :=
  let s1 := s.askHops
  if s.unrouted && !s1.unrouted then s1.sendBatches OpenBatch.isExpansion else s1

/-! ### Path logs -/

/-- Where CHILD_START begins in a path log with n entries (R87), and the LOG_SIZE that a hop with at most n entries and m parents needs: header, entries and CHILD_START, the sum rounded up to 32 bytes (R91; DEDUCED,
log 102). -/
def childAt (n : Nat) : Nat := roundUp (64 + 16 * n) 32
def logBytes (n m : Nat) : Nat := roundUp (64 + 16 * n + 4 * (m + 1)) 32

/-- The header of a path log (R88). -/
def logHeader (h : HopSpec) (flags step n m frontier span : Nat) : List Byte :=
  toLE 4 0x474C4850 ++ toLE 1 h.hop ++ toLE 1 h.kind ++ toLE 1 flags ++ toLE 1 h.shard ++ toLE 4 step ++ toLE 4 n ++ toLE 4 m ++ toLE 2 h.fan ++ zeros 2
    ++ toLE 4 (h.base + h.hop) ++ zeros 4 ++ toLE 8 frontier ++ toLE 8 span ++ zeros 16

/-- CHILD_START of parents with the given counts of children. -/
def childStarts (counts : List Nat) : List Nat := counts.foldl (fun acc n => acc ++ [acc.getLast?.getD 0 + n]) [0]

/-- The entry that 16 bytes hold. -/
def pathEntryOf (bs : List Byte) : PathEntry := ⟨field bs 0 6, field bs 6 2, field bs 8 4, field bs 12 4⟩

/-- A path log as it is read: header fields, entries, CHILD_START. -/
structure PathLog where
  hop : Nat
  poisoned : Bool
  step : Nat
  fan : Nat
  parent : Nat
  span : Nat
  entries : List PathEntry
  starts : List Nat
  deriving DecidableEq, Repr, Inhabited

/-- The header of a path log is right. -/
def logHeadOk (bs : List Byte) : Bool := decide (field bs 0 4 = 0x474C4850)

/-- The ranges of a path log with the given header. -/
def logRanges (a : Nat) (hd : List Byte) : List (Nat × Nat) :=
  [(a, 64), (a + 64, 16 * field hd 12 4), (a + childAt (field hd 12 4), 4 * (field hd 16 4 + 1))]

/-- The path log at an address. -/
def State.pathLog (s : State) (a : Nat) : PathLog :=
  let hd := (s.read a 64).data
  let n := field hd 12 4
  ⟨field hd 4 1, bitAt (field hd 6 1) 0, field hd 8 4, field hd 20 2, field hd 32 8, field hd 40 8,
    (chunks 16 (s.read (a + 64) (16 * n)).data).map pathEntryOf, (chunks 4 (s.read (a + childAt n) (4 * (field hd 16 4 + 1))).data).map leNat⟩

/-- The failure of the word of a path log that holds its entry i. -/
def State.logEntryFail (s : State) (a i : Nat) : Option ItemFail := s.failOf [(a + 64 + 16 * i, 16)]

/-- The children of each parent of a path log: the index of the first entry and their count by CHILD_START, or the failure of its words (R88, R583). -/
def State.logParents (s : State) (a : Nat) : List (ItemFail ⊕ (Nat × Nat)) :=
  let l := s.pathLog a
  let words := a + childAt l.entries.length
  ((l.starts.zip (l.starts.drop 1)).zipIdx).map (fun (x, i) => match s.failOf [(words + 4 * i, 8)] with
    | some f => .inl f
    | none => .inr (x.1, x.2 - x.1))

/-- The node and the logical position of each entry of a seed list, with the failure of an entry that cannot be read (R81, R583). -/
def State.seedItems (s : State) (a n : Nat) : List (Nat × Nat × Option ItemFail) :=
  ((chunks 16 (s.read a (16 * n)).data).zipIdx).map (fun (bs, i) => (field bs 0 6, field bs 8 8, s.failOf [(a + 16 * i, 16)]))

/-- The node and the logical position of each entry of a path log (R82), followed through PARENT back to the seed list, with the failure of the words on that way that cannot be read (R583); fuel bounds the hops. -/
def State.logItems (s : State) : Nat → Nat → List (Nat × Nat × Option ItemFail)
  | 0, _ => []
  | n + 1, a =>
    let l := s.pathLog a
    let head := s.failOf [(a, 64)]
    let parents := if l.hop ≤ 1 then s.seedItems l.parent (l.starts.length - 1) else s.logItems n l.parent
    (l.entries.zipIdx).map (fun (e, i) =>
      let p := nth parents e.parentPos (0, 0, none)
      let own := s.failOf [(a + 64 + 16 * i, 16), (a + childAt l.entries.length + 4 * e.parentPos, 4)]
      (e.node, p.2.1 * l.fan + (i - nth l.starts e.parentPos 0), (head.or own).or p.2.2))

/-- The reads that follow a log's parents back to the seed list. -/
def State.logReads (s : State) : Nat → Nat → List (Nat × Nat)
  | 0, _ => []
  | n + 1, a =>
    let l := s.pathLog a
    logRanges a (s.read a 64).data ++ (if l.hop ≤ 1 then [(l.parent, 16 * (l.starts.length - 1))] else s.logReads n l.parent)

/-! ### GRAPH.SAMPLE -/

/-- The seed list or the frontier log is good enough to be judged. -/
def State.frontierHead (s : State) (p : List Byte) : List Byte := (s.read (hopFrontier p) 64).data

/-- Parents of the hop. -/
def State.parentCount (s : State) (p : List Byte) : Nat := if field p 33 1 = 1 then hopSeeds p else field (s.frontierHead p) 12 4

/-- KEY_SPAN (R83). -/
def State.keySpan (s : State) (p : List Byte) : Nat :=
  (if field p 33 1 = 1 then hopGlobal p else field (s.frontierHead p) 40 8) * field p 36 2

def graphSampleInfo : OpInfo where
  code := 0x2010
  len := some 32
  flags := 0x20
  used := [(32, 3), (36, 2), (40, 44)]
  static := fun p =>
    let h := hopSpec p
    let first := decide (h.hop = 1)
    [ bAlign (decide (hopLog p % 64 ≠ 0)) 56,
      bParam (decide (h.hop = 0) || decide (6 < h.hop)) 0 33,
      bParam (decide (4 < h.kind)) 0 34,
      bParam (decide (h.fan = 0) || decide (256 < h.fan)) 0 36,
      bParam (decide (0xFFFEFFF1 < h.base)) 0 40,
      bParam (!first && decide (hopSeeds p ≠ 0)) 0 44,
      bParam (if first then decide (hopGlobal p = 0) || decide (2 ^ 40 < hopGlobal p) else decide (hopGlobal p ≠ 0)) 0 72,
      bParam (decide (h.kind ≠ 3) && decide (h.restart ≠ 0)) 0 80 ]
  dyn := fun s c =>
    let p := c.pkt
    let h := hopSpec p
    let x := s.shard? h.shard
    let rr := s.read (hopFrontier p) 64
    let later := decide (h.hop ≠ 1)
    let readable := rr.good && (s.rangeReason (hopFrontier p) 64).isNone
    let n := s.parentCount p
    jobBreach s ++
    [ bParam x.isNone 0 32,
      bParam (decide (h.kind = 1) && (match x with
        | some x => !x.hasAlias
        | none => false)) 0 34,
      bParam (decide (h.kind = 2) && (match x with
        | some x => !x.hasWeights && !x.presorted
        | none => false)) 0 34,
      bParam (later && readable && (!logHeadOk rr.data || decide (field rr.data 4 1 + 1 ≠ h.hop))) 0 48,
      bParam ((!later || readable) && decide (2 ^ 62 < s.keySpan p)) 0 36,
      bResource ((!later || readable) && decide (hopLogSize p < logBytes (n * h.fan) n)) 0,
      bStatus (later && readable && decide (field rr.data 8 4 ≠ s.step32)) stStepMismatch ]
    ++ (if later then rangeBreach s c (hopFrontier p) 64 48 else if hopSeeds p = 0 then [] else rangeBreach s c (hopFrontier p) (16 * hopSeeds p) 48)
    ++ rangeBreach s c (hopLog p) (hopLogSize p) 56

/-- The parents of a hop: node and logical position of each frontier entry, or its failure where it cannot be read. -/
def State.hopParents (s : State) (p : List Byte) : List HopParent :=
  let items := if field p 33 1 = 1 then s.seedItems (hopFrontier p) (hopSeeds p) else s.logItems 6 (hopFrontier p)
  (items.zipIdx).map (fun (v, i) => ⟨i, v.2.1, v.1, false, false, 0, none, v.2.2, none⟩)

/-- The reads of a hop's frontier. -/
def State.frontierReads (s : State) (p : List Byte) : List (Nat × Nat) :=
  if field p 33 1 = 1 then [(hopFrontier p, 16 * hopSeeds p)] else s.logReads 6 (hopFrontier p)

/-- A hop begins: every parent of this chip is served, requests go out for the others, and all open batches are sent once the last parent has been routed (R85, R86, R94). A frontier log or seed list that is
poisoned poisons the hop as a whole; an uncorrectable word of it is the failure of the items that need it (R583). -/
def State.beginHop (s : State) (id : Nat) (p : List Byte) (x : Shard) : State :=
  let h := hopSpec p
  let fr := s.readAll (s.frontierReads p)
  let poisoned := (decide (h.hop ≠ 1) && (s.pathLog (hopFrontier p)).poisoned) || !fr.poisoned.isEmpty
  let served := (s.hopParents p).map (s.serveParent x h)
  let hop : Hop := ⟨id, s.step32, served.map (·.parent), s.keySpan p, x.stale && served.any (·.weighted), poisoned⟩
  let s1 := (s.noteReads 1 (s.frontierReads p ++ served.flatMap (·.reads))).countFaults x.id (served.foldl (fun n r => n + r.faults) 0)
  let s2 := ({ s1 with graph := { s1.graph with hops := s1.graph.hops ++ [hop] } }).askHops
  if s2.unrouted then s2 else s2.sendBatches OpenBatch.isExpansion

/-- The log of a hop as it stands, written with POISONED when asked (R90, R92). -/
def State.writeLog (s : State) (p : List Byte) (h : Hop) (poisoned : Bool) : State :=
  let kids := h.parents.map (fun q => q.entries.getD [])
  let es := kids.flatten
  let starts := childStarts (kids.map (·.length))
  let a := hopLog p
  let hd := logHeader (hopSpec p) (bnat poisoned + 2 * bnat h.stale) h.step es.length h.parents.length (hopFrontier p) h.keySpan
  (s.storeAll 1 [(a, hd), (a + 64, es.flatMap PathEntry.bytes), (a + childAt es.length, starts.flatMap (toLE 4))]).1

/-- The frontier entries that a hop's log counts as its parents; none where the frontier log's header cannot be read. -/
def State.knownParents (s : State) (p : List Byte) : Nat := if field p 33 1 ≠ 1 ∧ !(s.read (hopFrontier p) 64).good then 0 else s.parentCount p

/-- A path log with POISONED set and no entry, every parent with no child, for a command that ends without its draws (R92; DESIGN CHOICE, log 43). It is written as far as LOG_SIZE reaches. -/
def State.writePoisonedLog (s : State) (step : Nat) (p : List Byte) : State :=
  let m := s.knownParents p
  if hopLogSize p < logBytes 0 m then s
  else s.writeLog p ⟨0, step, (List.range m).map (fun i => ⟨i, 0, 0, true, false, 0, none, none, none⟩), s.keySpan p, false, true⟩ true

/-- Whether a weighted command without STALE_OK finds the shard stale: it waits, or fails with a failed rebuild (R106). -/
def waitsForAlias (h : HopSpec) (x : Shard) : Bool := decide (h.kind = 1) && !h.staleOk && x.stale
def Shard.rebuildFailed (x : Shard) : Bool :=
  match x.rebuild with
  | .failed _ => true
  | _ => false

def effectGraphSample (s : State) (c : Ctx) : State × Option Result :=
  let p := c.pkt
  let h := hopSpec p
  match s.shard? h.shard with
  | none => (s, some (badParam 0 32))
  | some x =>
    if !c.inPlan && waitsForAlias h x && x.rebuildFailed then (s, some (resStatus stUncorrected))
    else if !c.inPlan && waitsForAlias h x then (s, none)
    else match (readStatus (s.read (hopFrontier p) (if h.hop = 1 then 16 * hopSeeds p else 64))) with
      | some r =>
        if h.hop = 1 then (s.beginHop c.id p x, none)
        else ((s.noteRead 1 (hopFrontier p) 64).writePoisonedLog s.step32 p, some r)
      | none => (s.beginHop c.id p x, none)

/-- GRAPH.SAMPLE (R85). -/
def execGraphSample (id : Nat) (s : State) : Out State := .next (s.settle (s.runCmd graphSampleInfo id effectGraphSample))

/-- The hop of a command. -/
def State.hop? (s : State) (id : Nat) : Option Hop := s.graph.hops.find? (fun h => h.cmd == id)

/-- Commands that wait for a shard's rebuild and swap: they begin, or end with UNCORRECTED when it has failed (R106). -/
def State.resumeSamples (s : State) (shard : Nat) : State :=
  s.queues.cmds.foldl (fun s c =>
    if c.stage.isRunning && opcodeOf c.pkt == 0x2010 && (hopSpec c.pkt).shard == shard && (s.hop? c.id).isNone then
      match s.shard? shard with
      | none => s
      | some x =>
        if x.rebuildFailed then s.endCmd c.id (resStatus stUncorrected)
        else if waitsForAlias (hopSpec c.pkt) x then s
        else s.beginHop c.id c.pkt x
    else s) s

/-- The result of a hop (R583): POISONED of the frontier, else the failure of the lowest parent. -/
def Hop.result (h : Hop) : Result :=
  if h.poisoned then resStatus stPoisoned
  else match h.parents.findSome? (fun p => p.fail.map (fun f => (p.pos, f))) with
    | some (i, f) => { resOf f.status f.reason 0 with index := BitVec.ofNat 32 (min i 0xFFFFFFFF) }
    | none => resOK

/-- HOP_COMPLETE (R98): every local draw and every answer is in; the log is written in frontier order (R90) and the command ends. -/
def execHopComplete (id : Nat) (s : State) : Out State :=
  .next (s.settle (match s.runningCtx id, s.hop? id with
    | some c, some h =>
      if h.parents.all HopParent.done then
        let r := h.result
        let s1 := s.writeLog c.pkt h r.failed
        ({ s1 with graph := { s1.graph with hops := s1.graph.hops.filter (fun k => k.cmd != id) } }).endCmd id r
      else s
    | _, _ => s))

/-- BATCH_SEND_TIMER (R94, R114, R282): the open batches to an owner are sent, those of every kind together: the row names the owner alone (DESIGN CHOICE, log 103). -/
def execBatchSendTimer (owner : Nat) (s : State) : Out State := .next (s.settle (s.sendBatches (fun b => b.owner == owner)))

/-! ### Serving other chips -/

/-- The answer of an owner to an expansion request that it serves (R85, R95), with the reads made and the weight faults. A poisoned word of the shard is answered with POISONED, which the list of R95 does not
hold: R583 names it among the failures that an owner returns (DESIGN CHOICE, log 104). -/
def State.answerExpansion (s : State) (r : ExpReq) : ExpResp × List (Nat × Nat) × Nat :=
  match s.shard? r.shard with
  | none => (⟨r.tag, stBadParam, 0, false, []⟩, [], 0)
  | some x =>
    let d := if r.kind = 5 then s.walkNode x r.stream r.key (localOf r.node) else s.drawNode x r.kind r.fanOut r.stream r.key (localOf r.node)
    match d.fail with
    | some f => (⟨r.tag, f.status, f.reason, d.weighted && x.stale, []⟩, d.reads, d.faults)
    | none => (⟨r.tag, stOK, 0, d.weighted && x.stale, d.entries⟩, d.reads, d.faults)

/-- A request that an owner takes: served, held, or answered STEP_MISMATCH (R96); a weighted one without STALE_OK on a stale shard is held until the swap (R106). -/
def State.takeExpansion (s : State) (src : Nat) (r : ExpReq) : State :=
  let hold := { s with graph := { s.graph with held := s.graph.held ++ [.expansion src r] } }
  if r.step = (s.step32 + 1) % 2 ^ 32 then hold
  else if r.step ≠ s.step32 then s.send (.expansionAnswer src ⟨r.tag, stStepMismatch, 0, false, []⟩)
  else
    let stuck := match s.shard? r.shard with
      | some x => decide (r.kind = 1) && !r.staleOk && x.stale
      | none => false
    let failed := match s.shard? r.shard with
      | some x => x.rebuildFailed
      | none => false
    if stuck && failed then s.send (.expansionAnswer src ⟨r.tag, stUncorrected, 0, false, []⟩)
    else if stuck then hold
    else
      let a := s.answerExpansion r
      ((s.noteReads 1 a.2.1).countFaults r.shard a.2.2).send (.expansionAnswer src a.1)

/-- EXPANSION_REQUEST (R96). -/
def execExpansionRequest (src : Nat) (r : ExpReq) (s : State) : Out State := .next (s.settle (if s.isHalted then s else s.takeExpansion src r))

/-- Held expansion requests are taken again. -/
def State.retakeExpansions (s : State) : State :=
  let held := s.graph.held
  let keep := held.filter (fun h => match h with
    | .expansion _ _ => false
    | _ => true)
  held.foldl (fun s h => match h with
    | .expansion src r => s.takeExpansion src r
    | _ => s) { s with graph := { s.graph with held := keep } }

/-- The parent that a TAG from an owner answers. -/
def State.parentOf (s : State) (src tag : Nat) : Option (Hop × HopParent) :=
  s.graph.hops.findSome? (fun h => (h.parents.find? (fun p => p.asked && p.tag == tag
    && ownerOf (match p.walk with
      | some w => w.cur
      | none => p.node) == src)).map (fun p => (h, p)))

/-- A parent after the answer to its request (R93, R97): a walk goes on. -/
def State.answered (s : State) (h : HopSpec) (p : HopParent) (r : ExpResp) : HopParent × List (Nat × Nat) :=
  let q := { p with asked := false }
  if r.status ≠ stOK then (match p.walk with
    | none => { q with fail := some ⟨r.status, r.detail⟩ }
    | some w => q.walked w (some ⟨r.status, r.detail⟩), [])
  else match p.walk with
    | none => ({ q with entries := some (r.entries.map (fun e => { e with parentPos := p.pos })) }, [])
    | some w =>
      match s.shard? h.shard with
      | none => (q.walked w (some ⟨stBadParam, 0⟩), [])
      | some x =>
        let w' : Walk := match r.entries with
          | [] => { w with slot := w.slot + 1, cur := p.node }
          | e :: _ => ⟨w.slot + 1, e.node, w.emitted ++ [{ e with edgePos := 0xFFFFFFFF }]⟩
        s.runWalk x h { q with walk := none } (h.fan + 1) w' []

/-- EXPANSION_RESPONSE (R97). -/
def execExpansionResponse (src : Nat) (r : ExpResp) (s : State) : Out State :=
  .next (s.settle (s.arrives (match s.parentOf src r.tag with
    | none => s
    | some (h, p) =>
      match s.runningCtx h.cmd with
      | none => s
      | some c =>
        let a := s.answered (hopSpec c.pkt) p r
        let s1 := (s.noteReads 1 a.2).updParent h.cmd p.pos (fun _ => a.1)
        let s2 := { s1 with graph := { s1.graph with hops := mapWhere (fun k => k.cmd == h.cmd) (fun k => { k with stale := k.stale || r.stale }) s1.graph.hops } }
        s2.askAndFlush)))

/-! ### Alias tables -/

/-- The checks of a command that names a shard with ALIAS (R78). -/
def aliasShardBreach (s : State) (c : Ctx) : List Breach :=
  [bParam (match s.shard? (c.f 32 1) with
    | some x => !x.hasAlias
    | none => true) 0 32]

def graphAliasRebuildInfo : OpInfo where
  code := 0x2020
  used := [(32, 1)]
  dyn := aliasShardBreach

/-- The table is stale and its rebuild begins, again from the beginning when one runs (R102). -/
def effectGraphAliasRebuild (s : State) (c : Ctx) : State × Option Result :=
  (s.updShard (c.f 32 1) (fun x => { x with stale := true, rebuild := .running 1 x.nodes }), some resOK)

/-- GRAPH.ALIAS_REBUILD (R102). -/
def execGraphAliasRebuild (id : Nat) (s : State) : Out State := .next (s.settle (s.runCmd graphAliasRebuildInfo id effectGraphAliasRebuild))

def graphAliasConfigInfo : OpInfo where
  code := 0x2021
  used := [(32, 1)]
  static := fun p => [bParam (decide (10 < field p 32 1)) 0 32]

def effectGraphAliasConfig (s : State) (c : Ctx) : State × Option Result :=
  ({ s with graph := { s.graph with aliasFloor := c.f 32 1 } }, some resOK)

/-- GRAPH.ALIAS_CONFIG (R103). -/
def execGraphAliasConfig (id : Nat) (s : State) : Out State := .next (s.settle (s.runCmd graphAliasConfigInfo id effectGraphAliasConfig))

def graphAliasStatusInfo : OpInfo where
  code := 0x2022
  used := [(32, 1)]
  dyn := aliasShardBreach

/-- The pass of a running rebuild and the nodes it has left depend on time: free values, the nodes all of them in the totalling pass (R78). -/
def effectGraphAliasStatus (s : State) (c : Ctx) : State × Option Result :=
  match s.shard? (c.f 32 1) with
  | none => (s, some resOK)
  | some x =>
    match x.rebuild with
    | .idle => (s, some (resOf stOK 0 0))
    | .waiting => (s, some (resOf stOK 2 0))
    | .failed n => (s, some { resIndex n with detail := detailOf 3 0 })
    | .running _ n =>
      let d := s.draw
      let pass := 1 + (Config.freeWord d.1 0).toNat % 2
      (d.2, some { resIndex (if pass = 1 then n else (Config.freeWord d.1 1).toNat % (n + 1)) with detail := detailOf 1 pass })

/-- GRAPH.ALIAS_STATUS (R78). -/
def execGraphAliasStatus (id : Nat) (s : State) : Out State := .next (s.settle (s.runCmd graphAliasStatusInfo id effectGraphAliasStatus))

/-- The alias entries of a node with the given weights (R74, R77, R102): the marker in every entry when all are 0; else a table that the manual does not fix, but in which an edge of weight 0 is drawn by no entry:
its own THRESHOLD is 0, and each ALIAS_POS is that of an edge of another weight (DEDUCED, log 39). -/
def aliasEntries (ws : List F32) : List Nat :=
  let cs := ws.map cleanWeight
  if cs.all f32IsZero then cs.map (fun _ => emptyMarker)
  else
    let live := (List.range cs.length).filter (fun i => !f32IsZero (cs.getD i 0))
    (List.range cs.length).map (fun i => live.getD (Config.aliasPos cs i % live.length) 0 * 2 ^ 32 + (if live.contains i then (Config.aliasThreshold cs i).toNat else 0))

/-- The weights of every edge of a shard. -/
def State.shardWeights (s : State) (x : Shard) : List F32 := ((chunks 4 (s.read x.weights (4 * x.edges)).data).map leNat).map (BitVec.ofNat 32 ·)

/-- The bytes of the rebuilt alias entries of the first n nodes. -/
def State.aliasBytes (s : State) (x : Shard) (n : Nat) : List Byte :=
  let ws := s.shardWeights x
  let offs := (chunks 8 (s.read x.offsets (8 * (x.nodes + 1))).data).map leNat
  (((offs.zip (offs.drop 1)).take n).flatMap (fun (a, b) => aliasEntries ((ws.drop a).take (b - a)))).flatMap (toLE 8)

/-- A finished rebuild becomes current (R104). -/
def State.swapAlias (s : State) (shard : Nat) : State :=
  let n := ((s.shard? shard).map (·.nodes)).getD 0
  let s1 := (s.updShard shard Shard.swapped).decision 10 shard [n] 0 1
  (s1.resumeSamples shard).retakeExpansions

/-- Rebuilds that have finished become current: no step runs any more (R104). -/
def State.swapFinished (s : State) : State := (s.graph.shards.filter (fun x => x.rebuild == .waiting)).foldl (fun s x => s.swapAlias x.id) s

/-- The words that a rebuild reads (R102). -/
def Shard.rebuildReads (x : Shard) : List (Nat × Nat) := [(x.offsets, 8 * (x.nodes + 1)), (x.weights, 4 * x.edges)]

/-- A word that the rebuild reads is uncorrectable. -/
def State.rebuildStops (s : State) (x : Shard) : Bool := x.rebuildReads.any (fun r => !(s.read r.1 r.2).uncorr.isEmpty)

/-- A rebuild that reads an uncorrectable word stops (R102): the shard stays stale, the failure is logged, the rows handled under R410, and those who wait are answered UNCORRECTED. The entries of the nodes that
it has written, the first ones in ascending order (DEDUCED, log 40), stand in the shadow. -/
def State.failAlias (s : State) (shard nodesLeft : Nat) (x : Shard) : State :=
  let left := min nodesLeft x.nodes
  let s0 := (s.store 5 x.shadow (s.aliasBytes x (x.nodes - left))).1
  let s1 := s0.noteReads 5 x.rebuildReads
  let s2 := (s1.updShard shard (fun y => { y with rebuild := .failed left })).decision 10 shard [left] 2 3
  (s2.resumeSamples shard).retakeExpansions

/-- ALIAS_REBUILD_FINISH (R104): the shadow has been written; it becomes current at once when no step runs. A rebuild that would end although a word it reads is uncorrectable has
stopped on that word instead (R102), with a number of nodes left that depends on time: a free value. -/
def execAliasRebuildFinish (shard : Nat) (s : State) : Out State :=
  .next (s.settle (match s.shard? shard with
    | none => s
    | some x =>
      match x.rebuild with
      | .running _ _ =>
        if s.rebuildStops x then
          let d := s.draw
          d.2.failAlias shard ((Config.freeWord d.1 0).toNat % (x.nodes + 1)) x
        else
        let s1 := (s.noteReads 5 x.rebuildReads).countFaults shard ((s.shardWeights x).filter weightFault).length
        let w := (s1.store 5 x.shadow (s.aliasBytes x x.nodes)).1
        let s2 := w.updShard shard (fun y => { y with rebuild := .waiting })
        if s2.stepRunning then s2 else s2.swapAlias shard
      | _ => s))

/-- ALIAS_REBUILD_FAIL (R102): the event of a rebuild that meets an uncorrectable word, and of no other. -/
def execAliasRebuildFail (shard nodesLeft : Nat) (s : State) : Out State :=
  .next (s.settle (match s.shard? shard with
    | none => s
    | some x =>
      match x.rebuild with
      | .running _ _ => if s.rebuildStops x then s.failAlias shard nodesLeft x else s
      | _ => s))

end Sys2Proof.Machine
end

