-- ==== Sys2Proof/Machine/GatherUnit.lean ====
section
/-! DEFINITION. Feature tables, gathers and aggregation (R107 to R124): rows of this chip and of other owners, pooled sums in rank order, aggregation forward and backward. -/
namespace Sys2Proof.Machine

/-! ### Feature tables -/

/-- Bytes of a stored row (R108): FP32, BF16, or MXFP8 elements with their scales. -/
def storedRowBytes (dtype width : Nat) : Nat :=
  match dtype with
  | 0 => 4 * width
  | 1 => 2 * width
  | _ => width + width / 32

/-- The FP32 values of a stored row. -/
def rowF32 (dtype width : Nat) (bs : List Byte) : List F32 :=
  match dtype with
  | 0 => (rowCodes 0 width bs).map (BitVec.ofNat 32 ·)
  | 1 => (rowCodes 1 width bs).map bf16Widen
  | _ => ((bs.take width).zipIdx).map (fun (b, i) => mxWiden 3 b.toNat (bs.getD (width + i / 32) 0))

/-- An installed feature table. -/
def State.ftable? (s : State) (id : Nat) : Option FTable := s.graph.ftables.find? (fun t => t.id == id)

/-- The table that a descriptor installs (R107). -/
def ftableOf (bs : List Byte) : FTable := ⟨field bs 7 1, field bs 6 1, field bs 8 4, field bs 12 2, field bs 16 8, field bs 24 8⟩

/-- Elements per row come in units of 8, 16 or 32 (R108). -/
def widthUnit (dtype : Nat) : Nat := nth [8, 16, 32] dtype 32

def graphFeatureSetInfo : OpInfo where
  code := 0x2101
  used := [(32, 8)]
  dyn := fun s c =>
    let a := c.f 32 8
    let rr := s.read a 64
    let t := ftableOf rr.data
    rangeBreach s c a 64 32 ++
    (if (s.rangeReason a 64).isSome || !rr.good then [] else
      [ bAlign (decide (t.base % 32 ≠ 0) || decide (t.stride % 32 ≠ 0)) 32,
        bParam (decide (field rr.data 0 4 ≠ 0x54414546) || decide (field rr.data 4 2 ≠ 1) || decide (2 < t.dtype) || decide (63 < t.id)) 0 32,
        bParam (decide (t.rows = 0)) 0 32,
        bParam (decide (t.width < 8) || decide (4096 < t.width) || decide (t.width % widthUnit t.dtype ≠ 0)) 0 32,
        bParam (decide (t.stride < storedRowBytes t.dtype t.width)) 0 32 ]
      ++ rangeBreach s c t.base ((t.rows - 1) * t.stride + storedRowBytes t.dtype t.width) 32)

def effectGraphFeatureSet (s : State) (c : Ctx) : State × Option Result :=
  let a := c.f 32 8
  let rr := s.read a 64
  let s1 := s.noteRead 1 a 64
  match readStatus rr with
  | some r => (s1, some r)
  | none =>
    let t := ftableOf rr.data
    ({ s1 with graph := { s1.graph with ftables := s1.graph.ftables.filter (fun x => x.id != t.id) ++ [t] } }, some resOK)

/-- GRAPH.FEATURE_SET (R108). -/
def execGraphFeatureSet (id : Nat) (s : State) : Out State := .next (s.settle (s.runCmd graphFeatureSetInfo id effectGraphFeatureSet))

def graphFeatureClearInfo : OpInfo where
  code := 0x2102
  used := [(32, 1)]

def effectGraphFeatureClear (s : State) (c : Ctx) : State × Option Result :=
  ({ s with graph := { s.graph with ftables := s.graph.ftables.filter (fun x => x.id != c.f 32 1) } }, some resOK)

/-- GRAPH.FEATURE_CLEAR (R110). -/
def execGraphFeatureClear (id : Nat) (s : State) : Out State := .next (s.settle (s.runCmd graphFeatureClearInfo id effectGraphFeatureClear))

/-! ### Rows -/

/-- The stored row of a local node. -/
def FTable.rowRange (t : FTable) (v : Nat) : Nat × Nat := (t.base + v * t.stride, storedRowBytes t.dtype t.width)

/-- Rows added elementwise as a pairwise tree in their order (R115, R120). -/
def pairRows (width : Nat) (rows : List (List F32)) : FpM (List F32) :=
  (List.range width).mapM (fun j => pairSum (rows.map (fun r => r.getD j 0)))

/-- The failure of reading local rows of a table: an index at or beyond ROWS first (R109), then what the words hold. -/
def State.rowsFail (s : State) (t : FTable) (vs : List Nat) : Option ItemFail :=
  if vs.any (fun v => decide (t.rows ≤ v)) then some ⟨stIndexRange, 0x05⟩ else s.failOf (vs.map t.rowRange)

/-- The FP32 rows of local nodes. -/
def State.rowsOf (s : State) (t : FTable) (vs : List Nat) : List (List F32) :=
  vs.map (fun v => rowF32 t.dtype t.width (s.read (t.rowRange v).1 (t.rowRange v).2).data)

/-- The reads of local rows that exist. -/
def FTable.rowReads (t : FTable) (vs : List Nat) : List (Nat × Nat) := (vs.filter (fun v => decide (v < t.rows))).map t.rowRange

/-! ### GRAPH.GATHER -/

/-- The fields of R111. -/
def gaTable (p : List Byte) : Nat := field p 32 1
def gaMode (p : List Byte) : Nat := field p 33 1
def gaSource (p : List Byte) : Nat := field p 34 1
def gaOutDtype (p : List Byte) : Nat := field p 35 1
def gaCount (p : List Byte) : Nat := field p 36 4
def gaList (p : List Byte) : Nat := field p 40 8
def gaOut (p : List Byte) : Nat := field p 48 8
def gaOutSize (p : List Byte) : Nat := field p 56 8

/-- Breaches of a path log named by a command: it must be one (R80), and of this step (R113). A log whose header cannot be read is judged when the command runs. -/
def pathLogBreach (s : State) (c : Ctx) (a off : Nat) : List Breach :=
  let rr := s.read a 64
  let ok := rr.good && (s.rangeReason a 64).isNone
  rangeBreach s c a 64 off ++ [bParam (ok && !logHeadOk rr.data) 0 off, bStatus (ok && decide (field rr.data 8 4 ≠ s.step32)) stStepMismatch]

/-- Output rows and the bytes of one. -/
def State.gaRows (s : State) (p : List Byte) : Nat :=
  if gaSource p = 1 then gaCount p else if gaMode p = 0 then field (s.read (gaList p) 64).data 12 4 else field (s.read (gaList p) 64).data 16 4
def State.gaRowBytes (s : State) (p : List Byte) : Nat :=
  match s.ftable? (gaTable p) with
  | none => 0
  | some t => if gaOutDtype p = 1 then 4 * t.width else storedRowBytes t.dtype t.width

/-- The output of a gather: rows at their pitch, the last one's padding counted (R112; DESIGN CHOICE, log entry 106). -/
def State.gaOutBytes (s : State) (p : List Byte) : Nat := s.gaRows p * roundUp (s.gaRowBytes p) 32

/-- GRAPH.GATHER. An OUT that is not 32-byte aligned ends BAD_ALIGN by check 5 of R46 (DEDUCED, log entry 105). -/
def graphGatherInfo : OpInfo where
  code := 0x2110
  len := some 32
  used := [(32, 32)]
  static := fun p =>
    [ bAlign (decide (gaOut p % 32 ≠ 0)) 48,
      bParam (decide (2 < gaMode p)) 0 33,
      bParam (decide (1 < gaSource p) || (decide (gaMode p ≠ 0) && decide (gaSource p ≠ 0))) 0 34,
      bParam (decide (1 < gaOutDtype p) || (decide (gaMode p ≠ 0) && decide (gaOutDtype p ≠ 1))) 0 35,
      bParam (decide (gaSource p = 0) && decide (gaCount p ≠ 0)) 0 36 ]
  dyn := fun s c =>
    let p := c.pkt
    let ok := decide (gaSource p = 1) || ((s.read (gaList p) 64).good && (s.rangeReason (gaList p) 64).isNone)
    jobBreach s ++ [bParam (s.ftable? (gaTable p)).isNone 0 32]
      ++ (if gaSource p = 0 then pathLogBreach s c (gaList p) 40 else if gaCount p = 0 then [] else rangeBreach s c (gaList p) (16 * gaCount p) 40)
      ++ [bParam (inDirect (gaOut p)) 0 48, bResource (ok && decide (gaOutSize p < s.gaOutBytes p)) 0]
      ++ rangeBreach s c (gaOut p) (gaOutSize p) 48

/-- The node of one list item, or its failure when the words that name it cannot be read (R583). -/
def listNode (node : Nat) (f : Option ItemFail) : List Nat × Option ItemFail :=
  match f with
  | some f => ([], some f)
  | none => ([node], none)

/-- The nodes of each output row, and the failure of the list words that name them (R112, R583). -/
def State.gaItems (s : State) (p : List Byte) : List (List Nat × Option ItemFail) :=
  let a := gaList p
  if gaSource p = 1 then (s.seedItems a (gaCount p)).map (fun x => listNode x.1 x.2.2)
  else
    let l := s.pathLog a
    let named := (l.entries.zipIdx).map (fun (e, i) => listNode e.node (s.logEntryFail a i))
    if gaMode p = 0 then named
    else (s.logParents a).map (fun g => match g with
      | .inl f => ([], some f)
      | .inr (x, n) => let es := (named.drop x).take n
        (es.flatMap (·.1), es.findSome? (·.2)))

/-- The owners of nodes, ascending, each once. -/
def ownersOf (nodes : List Nat) : List Nat := sortBy (fun a b => decide (a ≤ b)) ((nodes.map ownerOf).dedup)

/-- The portion that stands for the list words of an item that could not be read (R583). -/
def listPortion (rank item : Nat) (f : Option ItemFail) : List Portion :=
  f.toList.map (fun f => ⟨item, rank, rank, 0, [], [], true, false, none, none, [], some f⟩)

/-- The portions of an output row: the rows of each owner in path-log order (R114). -/
def rowPortions (rank item : Nat) (nodes : List Nat) : List Portion :=
  (ownersOf nodes).map (fun o => ⟨item, o, o, 0, nodes.filter (fun v => ownerOf v == o), [], o == rank, false, none, none, [], none⟩)

/-- A portion has been answered. -/
def Portion.done (q : Portion) : Bool := q.partRow.isSome || q.stored.isSome || q.fail.isSome

/-- A portion of this chip served, with the reads made and the non-finite results (R112, R116). -/
def State.servePortion (s : State) (t : FTable) (pool : Bool) (q : Portion) : Portion × List (Nat × Nat) × Nat :=
  if q.done then (q, [], 0)
  else if s.jobN ≤ q.owner then ({ q with fail := some ⟨stIndexRange, 0x01⟩ }, [], 0)
  else if !q.isLocal then (q, [], 0)
  else
    let vs := q.keys.map localOf
    match s.rowsFail t vs with
    | some f => ({ q with fail := some f }, t.rowReads vs, 0)
    | none =>
      if pool then
        let r := (pairRows t.width (s.rowsOf t vs)).run 0
        ({ q with partRow := some r.1 }, t.rowReads vs, r.2)
      else ({ q with stored := some (s.readAll (vs.map t.rowRange)).data }, t.rowReads vs, 0)

/-- Row requests enter the open batch to their owner, a pool whole; the batch is sent when it holds 32 or more (R114). -/
def State.batchRows (s : State) (owner : Nat) (recs : List RowReq) : State :=
  let held := s.out.batches.findSome? (fun b => match b with
    | .rows o rs => if o = owner then some rs else none
    | _ => none)
  let rest := s.out.batches.filter (fun b => match b with
    | .rows o _ => o != owner
    | _ => true)
  let rs := held.getD [] ++ recs
  if 32 ≤ rs.length then ({ s with out := { s.out with batches := rest } }).send (.rows owner rs)
  else { s with out := { s.out with batches := rest ++ [.rows owner rs] } }

/-- The records of a portion's request (R114). -/
def rowRecords (table : Nat) (pool : Bool) (step : Nat) (q : Portion) : List RowReq :=
  (q.keys.zipIdx).map (fun (v, i) => ⟨v, table, pool, pool && decide (i + 1 = q.keys.length), step, q.tag⟩)

/-- A TAG for a request. -/
def State.freshTag (s : State) : Nat × State :=
  (s.graph.nextTag, { s with graph := { s.graph with nextTag := (s.graph.nextTag + 1) % 2 ^ 32 } })

/-- The portions that need an owner take TAGs and are requested, in order. -/
def State.askPortions (s : State) (table : Nat) (pool : Bool) : List Portion → State × List Portion
  | [] => (s, [])
  | q :: qs =>
    if q.done then
      let r := s.askPortions table pool qs
      (r.1, q :: r.2)
    else
      let t := s.freshTag
      let q' := { q with tag := t.1 }
      let r := (t.2.batchRows q.owner (rowRecords table pool s.step32 q')).askPortions table pool qs
      (r.1, q' :: r.2)

/-- The order of the failures of one item: index and range failures first, POISONED last; among others the lower status code, then the lower reason (R583; DEDUCED, log entry 111). -/
def ItemFail.before (a b : ItemFail) : Bool :=
  let rank (f : ItemFail) : Nat := (if f.status = stIndexRange then 0 else if f.status = stPoisoned then 2 else 1) * 2 ^ 16 + f.status.toNat * 2 ^ 8 + f.reason
  decide (rank a ≤ rank b)

/-- The failure that decides for an item (R583). -/
def itemFail (fs : List ItemFail) : Option ItemFail :=
  fs.foldl (fun a f => match a with
    | none => some f
    | some x => if x.before f then some x else some f) none

/-- The result of a command over items (R583). -/
def itemsResult (poisoned : Bool) (fails : List (Nat × ItemFail)) : Result :=
  if poisoned then resStatus stPoisoned
  else match fails.head? with
    | none => resOK
    | some (i, f) => { resOf f.status f.reason 0 with index := BitVec.ofNat 32 (min i 0xFFFFFFFF) }

/-- The failing items of a gather, ascending. -/
def Gather.fails (g : Gather) : List (Nat × ItemFail) :=
  (List.range g.items).filterMap (fun i => (itemFail ((g.portions.filter (fun q => q.item == i)).filterMap (·.fail))).map (fun f => (i, f)))

/-- The FP32 row of a pooled item: partials added in ascending owner rank, divided by the child count for a mean (R116). -/
def Gather.pooledRow (g : Gather) (mean : Bool) (width i : Nat) : FpM (List F32) := do
  let parts := (g.portions.filter (fun q => q.item == i)).filterMap (·.partRow)
  match parts with
  | [] => pure (List.replicate width 0)
  | a :: rest => do
    let t ← rest.foldlM (fun (acc : List F32) (r : List F32) => (acc.zip r).mapM (fun (x : F32 × F32) => addF x.1 x.2)) a
    if mean then t.mapM (fun x => divF x (f32OfNat (nth g.children i 1))) else pure t

/-- The items of a gather that met no failure. -/
def Gather.goodItems (g : Gather) : List Nat := (List.range g.items).filter (fun i => !(g.fails.any (fun f => f.1 == i)))

/-- The output rows of the items that met no failure, with their numbers, and the non-finite results. -/
def Gather.outRows (g : Gather) (t : FTable) (p : List Byte) : List (Nat × List Byte) × Nat :=
  if gaMode p = 0 then
    (g.goodItems.map (fun i =>
      let bs := ((g.portions.find? (fun q => q.item == i)).bind (·.stored)).getD []
      (i, if gaOutDtype p = 1 then (rowF32 t.dtype t.width bs).flatMap (fun v => toLE 4 v.toNat) else bs)), 0)
  else
    let r := (g.goodItems.mapM (fun i => g.pooledRow (decide (gaMode p = 2)) t.width i)).run 0
    ((g.goodItems.zip r.1).map (fun (i, row) => (i, row.flatMap (fun v => toLE 4 v.toNat))), r.2)

/-- A gather whose portions are all answered writes the rows of its good items and ends; with a failure its output is then poisoned (R97, R112, R113, R489). -/
def State.finishGather (s : State) (id : Nat) : State :=
  match s.runningCtx id, s.graph.gathers.find? (fun g => g.cmd == id) with
  | some c, some g =>
    if !g.portions.all Portion.done then s else
    let p := c.pkt
    let s1 := { s with graph := { s.graph with gathers := s.graph.gathers.filter (fun k => k.cmd != id) } }
    let r := itemsResult g.poisoned g.fails
    let pitch := roundUp (s.gaRowBytes p) 32
    match s.ftable? (gaTable p) with
    | none => s1.endCmd id (badParam 0 32)
    | some t =>
      let o := g.outRows t p
      let w := (s1.countNonfinite o.2).storeAll 1 (o.1.map (fun (i, bs) => (gaOut p + i * pitch, bs)))
      if r.failed then (w.1.poisonRanges 1 [(gaOut p, g.items * pitch)]).endCmd id r
      else w.1.endCmd id ((writeStatus w.2).getD r)
  | _, _ => s

/-- The reads of a gather's list. -/
def State.gaListReads (s : State) (p : List Byte) : List (Nat × Nat) :=
  if gaSource p = 1 then [(gaList p, 16 * gaCount p)] else logRanges (gaList p) (s.read (gaList p) 64).data

/-- A gather begins. A list that is poisoned, by its flag or by a word, is an input poisoned as a whole; an uncorrectable word of it is the failure of the items it names (R113, R583). -/
def effectGraphGather (s : State) (c : Ctx) : State × Option Result :=
  let p := c.pkt
  let head := if gaSource p = 1 then none else readStatus (s.read (gaList p) 64)
  match s.ftable? (gaTable p), head with
  | none, _ => (s, some (badParam 0 32))
  | some _, some r => ((s.noteReads 1 [(gaList p, 64)]).poisonRanges 1 [(gaOut p, gaOutSize p)], some r)
  | some t, none =>
    let pool := decide (gaMode p ≠ 0)
    let items := s.gaItems p
    let poisoned := (decide (gaSource p = 0) && (s.pathLog (gaList p)).poisoned) || !(s.readAll (s.gaListReads p)).poisoned.isEmpty
    let served := ((items.zipIdx).flatMap (fun (vs, i) => listPortion s.rank i vs.2 ++ rowPortions s.rank i vs.1)).map (s.servePortion t pool)
    let s1 := (s.noteReads 1 (s.gaListReads p ++ served.flatMap (·.2.1))).countNonfinite (served.foldl (fun n r => n + r.2.2) 0)
    let a := s1.askPortions (gaTable p) pool (served.map (·.1))
    let g : Gather := ⟨c.id, items.length, items.map (·.1.length), poisoned, a.2⟩
    (({ a.1 with graph := { a.1.graph with gathers := a.1.graph.gathers ++ [g] } }).finishGather c.id, none)

/-- GRAPH.GATHER (R112). -/
def execGraphGather (id : Nat) (s : State) : Out State := .next (s.settle (s.runCmd graphGatherInfo id effectGraphGather))

/-! ### Serving rows -/

/-- Records grouped: a pool's records together, any other alone (R114). -/
def rowGroups : List RowReq → List (List RowReq)
  | [] => []
  | r :: rs =>
    match rowGroups rs with
    | g :: gs => if r.pool && !r.last then (r :: g) :: gs else [r] :: g :: gs
    | [] => [[r]]

/-- The answer to a group of records, with the reads made and the non-finite results (R115). A failed answer counts the records of the group (DESIGN CHOICE, log entry 107). -/
def State.answerRows (s : State) (g : List RowReq) : RowResp × List (Nat × Nat) × Nat :=
  let r := g.headD default
  match s.ftable? r.ftable with
  | none => (⟨r.tag, g.length, stBadParam, 0, []⟩, [], 0)
  | some t =>
    let vs := g.map (fun x => localOf x.node)
    match s.rowsFail t vs with
    | some f => (⟨r.tag, g.length, f.status, f.reason, []⟩, t.rowReads vs, 0)
    | none =>
      if r.pool then
        let x := (pairRows t.width (s.rowsOf t vs)).run 0
        (⟨r.tag, g.length, stOK, 0, x.1.flatMap (fun v => toLE 4 v.toNat)⟩, t.rowReads vs, x.2)
      else (⟨r.tag, g.length, stOK, 0, (s.readAll (vs.map t.rowRange)).data⟩, t.rowReads vs, 0)

/-- A group of records that an owner takes: served, held for its next step, or answered STEP_MISMATCH (R96, R115). -/
def State.takeRows (src : Nat) (s : State) (g : List RowReq) : State :=
  let r := g.headD default
  if r.step = (s.step32 + 1) % 2 ^ 32 then { s with graph := { s.graph with held := s.graph.held ++ [.rows src g] } }
  else if r.step ≠ s.step32 then s.send (.rowAnswer src ⟨r.tag, g.length, stStepMismatch, 0, []⟩)
  else
    let a := s.answerRows g
    ((s.noteReads 1 a.2.1).countNonfinite a.2.2).send (.rowAnswer src a.1)

/-- ROW_REQUEST (R115). -/
def execRowRequest (src : Nat) (rs : List RowReq) (s : State) : Out State :=
  .next (s.settle (if s.isHalted then s else (rowGroups rs).foldl (State.takeRows src) s))

/-- Held row requests are taken again. -/
def State.retakeRows (s : State) : State :=
  let held := s.graph.held
  let keep := held.filter (fun h => match h with
    | .rows _ _ => false
    | _ => true)
  held.foldl (fun s h => match h with
    | .rows src g => State.takeRows src s g
    | _ => s) { s with graph := { s.graph with held := keep } }

/-- A portion after its owner's answer (R115, R116). -/
def answeredPortion (pool : Bool) (width : Nat) (r : RowResp) (q : Portion) : Portion :=
  if r.status ≠ stOK then { q with fail := some ⟨r.status, r.detail⟩ }
  else if pool then { q with partRow := some (rowF32 0 width r.row) }
  else { q with stored := some r.row }

/-- The portion that a TAG from an owner answers is waited for. -/
def Portion.awaits (src tag : Nat) (q : Portion) : Bool := !q.done && q.owner == src && q.tag == tag

/-- ROW_RESPONSE (R116). -/
def execRowResponse (src : Nat) (r : RowResp) (s : State) : Out State :=
  .next (s.settle (s.arrives (match s.graph.gathers.find? (fun g => g.portions.any (Portion.awaits src r.tag)
      && (match s.cmd? g.cmd with
        | some c => opcodeOf c.pkt == 0x2110
        | none => false)) with
    | none => s
    | some g =>
      match s.cmd? g.cmd with
      | none => s
      | some c =>
        let width := ((s.ftable? (gaTable c.pkt)).map (·.width)).getD 0
        let qs := mapWhere (Portion.awaits src r.tag) (answeredPortion (decide (gaMode c.pkt ≠ 0)) width r) g.portions
        ({ s with graph := { s.graph with gathers := mapWhere (fun k => k.cmd == g.cmd) (fun k => { k with portions := qs }) s.graph.gathers } }).finishGather g.cmd)))

/-! ### GRAPH.AGGREGATE -/

/-- The fields of R119 and R124. -/
def agKind (p : List Byte) : Nat := field p 32 1
def agSource (p : List Byte) : Nat := field p 33 1
def agDtype (p : List Byte) : Nat := field p 34 1
def agHeads (p : List Byte) : Nat := field p 35 1
def agElems (p : List Byte) : Nat := field p 36 2
def agShard (p : List Byte) : Nat := field p 38 1
def agGroups (p : List Byte) : Nat := field p 40 8
def agIn (p : List Byte) : Nat := field p 48 8
def agOut (p : List Byte) : Nat := field p 56 8
def agAux (p : List Byte) : Nat := field p 64 8
def agSave (p : List Byte) : Nat := field p 72 8
def agEntryGrad (p : List Byte) : Nat := field p 80 8
def agAuxGrad (p : List Byte) : Nat := field p 88 8

/-- Pitches of IN, of an FP32 row, of a SAVE row of KIND 3 (R584). -/
def agInPitch (p : List Byte) : Nat := roundUp (storedRowBytes (agDtype p) (agElems p)) 32
def agOutPitch (p : List Byte) : Nat := roundUp (4 * agElems p) 32

/-- The breaches on the packet that both aggregation commands share. -/
def agStatic (p : List Byte) : List Breach :=
  [ bParam (decide (4 < agKind p)) 0 32,
    bParam (decide (1 < agSource p)) 0 33,
    bParam (decide (2 < agDtype p)) 0 34,
    bParam (if agKind p = 4 then decide (agHeads p = 0) || decide (16 < agHeads p) else decide (agHeads p ≠ 1)) 0 35,
    bParam (decide (agElems p < 8) || decide (4096 < agElems p) || decide (agElems p % max (agHeads p) 1 ≠ 0) || (decide (agDtype p = 2) && decide (agElems p % 32 ≠ 0))) 0 36,
    bParam (decide (agSource p = 0) && decide (agShard p ≠ 0)) 0 38,
    bParam (decide (agSource p = 1) && decide (agGroups p ≠ 0)) 0 40,
    bParam (if agKind p = 2 ∨ agKind p = 4 then decide (agAux p = 0) else decide (agAux p ≠ 0)) 0 64,
    bParam (decide (agKind p < 3) && decide (agSave p ≠ 0)) 0 72 ]

/-- Parents, entries of the groups. -/
def State.agParents (s : State) (p : List Byte) : Nat :=
  if agSource p = 0 then field (s.read (agGroups p) 64).data 16 4 else ((s.shard? (agShard p)).map (·.nodes)).getD 0
def State.agEntries (s : State) (p : List Byte) : Nat :=
  if agSource p = 0 then field (s.read (agGroups p) 64).data 12 4 else ((s.shard? (agShard p)).map (·.edges)).getD 0

/-- Bytes of a tensor of n rows. -/
def rowsBytes (n pitch row : Nat) : Nat := if n = 0 then 0 else (n - 1) * pitch + row

/-- The values of AUX or AUX_GRAD, and the bytes of SAVE. -/
def State.agAuxBytes (s : State) (p : List Byte) : Nat := 4 * (s.agEntries p * (if agKind p = 4 then agHeads p else 1))
def State.agSaveBytes (s : State) (p : List Byte) : Nat :=
  if agKind p = 3 then rowsBytes (s.agParents p) (agOutPitch p) (4 * agElems p) else 4 * (s.agEntries p * agHeads p)

/-- The group source can be judged. -/
def State.agReadable (s : State) (p : List Byte) : Bool :=
  decide (agSource p = 1) || ((s.read (agGroups p) 64).good && (s.rangeReason (agGroups p) 64).isNone)

/-- The checks of both aggregation commands against the state. -/
def agDyn (s : State) (c : Ctx) : List Breach :=
  let p := c.pkt
  [bParam (decide (agSource p = 1) && (s.shard? (agShard p)).isNone) 0 38]
    ++ (if agSource p = 0 then pathLogBreach s c (agGroups p) 40 else [])
    ++ (if !s.agReadable p then [] else
      let n := s.agParents p
      let e := s.agEntries p
      (if e = 0 then [] else rangeBreach s c (agIn p) (rowsBytes e (agInPitch p) (storedRowBytes (agDtype p) (agElems p))) 48)
        ++ (if n = 0 then [] else rangeBreach s c (agOut p) (rowsBytes n (agOutPitch p) (4 * agElems p)) 56)
        ++ (if e = 0 then [] else rangeBreachOpt s c (agAux p) (s.agAuxBytes p) 64)
        ++ (if s.agSaveBytes p = 0 then [] else rangeBreachOpt s c (agSave p) (s.agSaveBytes p) 72))

def graphAggregateInfo : OpInfo where
  code := 0x2120
  len := some 32
  used := [(32, 7), (40, 40)]
  static := agStatic
  dyn := agDyn

/-- A parent's children: the index of its first entry and their count, or its failure (R76, R120). -/
def State.agGroupsOf (s : State) (p : List Byte) : List (ItemFail ⊕ (Nat × Nat)) :=
  if agSource p = 0 then s.logParents (agGroups p)
  else match s.shard? (agShard p) with
    | none => []
    | some x => (List.range x.nodes).map (fun v => s.nodeList x v)

/-- The reads that find the groups. -/
def State.agGroupReads (s : State) (p : List Byte) : List (Nat × Nat) :=
  if agSource p = 0 then logRanges (agGroups p) (s.read (agGroups p) 64).data
  else match s.shard? (agShard p) with
    | none => []
    | some x => [(x.offsets, 8 * (x.nodes + 1))]

/-- The groups are poisoned as a whole (R583). -/
def State.agPoisoned (s : State) (p : List Byte) : Bool :=
  decide (agSource p = 0) && ((s.pathLog (agGroups p)).poisoned || !(s.readAll (s.agGroupReads p)).poisoned.isEmpty)

/-- The IN rows of entries a to a + n − 1, their reads. -/
def agInReads (p : List Byte) (a n : Nat) : List (Nat × Nat) :=
  (List.range n).map (fun i => (agIn p + (a + i) * agInPitch p, storedRowBytes (agDtype p) (agElems p)))
def State.agInRows (s : State) (p : List Byte) (a n : Nat) : List (List F32) :=
  (agInReads p a n).map (fun r => rowF32 (agDtype p) (agElems p) (s.read r.1 r.2).data)

/-- FP32 values packed from entry a on: one per entry, or HEADS per entry. -/
def agPacked (base per a n : Nat) : Nat × Nat := (base + 4 * (a * per), 4 * (n * per))
def State.f32sAt (s : State) (r : Nat × Nat) : List F32 := ((chunks 4 (s.read r.1 r.2).data).map leNat).map (BitVec.ofNat 32 ·)

/-- A NaN as arithmetic gives it; any other value as it is (R180). -/
def quieted (a : F32) : F32 := if f32IsNan a then qNaN else a

/-- The elementwise maximum of children and its winner (R120, R180): the IEEE 754 maximum, a NaN read as the quiet NaN and +0 above −0, won by the lowest entry that holds that value (DESIGN CHOICE for a NaN and
for zeros of either sign, log entry 108). -/
def maxWinner (xs : List F32) : FpM (F32 × Nat) :=
  match xs with
  | [] => pure (0, 0xFFFFFFFF)
  | x :: rest => do
    let m ← rest.foldlM maxF (quieted x)
    pure (m, xs.findIdx (fun y => quieted y == m))

/-- The non-finite values among inputs (R120). -/
def nonfiniteOf (xs : List F32) : Nat := (xs.filter (fun x => !f32Finite x)).length

/-- A partial of attention for one head: m, z, v (R122). -/
structure AttnPart where
  m : F32
  z : F32
  v : List F32
  deriving DecidableEq, Repr, Inhabited

/-- −∞. -/
def negInf : F32 := 0xFF800000

/-- exp(a − b). -/
def expDiff (a b : F32) : FpM F32 := do
  let d ← subF a b
  expPair d

/-- The partial of a run of children (R121). -/
def attnPart (width : Nat) (scores : List F32) (xs : List (List F32)) : FpM AttnPart := do
  let m ← pairMax scores
  if m = negInf then pure ⟨negInf, 0, List.replicate width 0⟩ else do
    let es ← scores.mapM (fun sc => expDiff sc m)
    let z ← pairSum es
    let ws ← (es.zip xs).mapM (fun (x : F32 × List F32) => x.2.mapM (fun y => mulF x.1 y))
    let v ← pairRows width ws
    pure ⟨m, z, v⟩

/-- Two partials merged (R122). -/
def attnMerge (a b : AttnPart) : FpM AttnPart := do
  let m ← maxF a.m b.m
  if m = negInf then pure ⟨negInf, 0, a.v⟩ else do
    let ea ← expDiff a.m m
    let eb ← expDiff b.m m
    let za ← mulF a.z ea
    let zb ← mulF b.z eb
    let z ← addF za zb
    let v ← (a.v.zip b.v).mapM (fun (x : F32 × F32) => do
      let p ← mulF x.1 ea
      let q ← mulF x.2 eb
      addF p q)
    pure ⟨m, z, v⟩

/-- One level of the pairwise merge of partials. -/
def attnLevel : List AttnPart → FpM (List AttnPart)
  | a :: b :: rest => do
    let c ← attnMerge a b
    let r ← attnLevel rest
    pure (c :: r)
  | xs => pure xs

/-- Partials merged pairwise in span order; fuel bounds the levels. -/
def attnFold : Nat → List AttnPart → FpM AttnPart
  | 0, xs => pure (xs.headD default)
  | n + 1, xs => if xs.length ≤ 1 then pure (xs.headD default) else do
    let ys ← attnLevel xs
    attnFold n ys

/-- Attention of one parent and head: the output slice and the weights (R121, R122). -/
def attnHead (split : Bool) (width : Nat) (scores : List F32) (xs : List (List F32)) : FpM (List F32 × List F32) := do
  if split && decide (4096 < scores.length) then do
    let parts ← ((chunks 4096 (scores.zip xs)).mapM (fun (g : List (F32 × List F32)) => attnPart width (g.map (·.1)) (g.map (·.2))))
    let t ← attnFold 64 parts
    if t.m = negInf then pure (List.replicate width 0, scores.map (fun _ => 0)) else do
      let out ← t.v.mapM (fun x => divF x t.z)
      let ws ← scores.mapM (fun sc => do
        let e ← expDiff sc t.m
        divF e t.z)
      pure (out, ws)
  else do
    let m ← pairMax scores
    if scores.isEmpty || m = negInf then pure (List.replicate width 0, scores.map (fun _ => 0)) else do
      let es ← scores.mapM (fun sc => expDiff sc m)
      let z ← pairSum es
      let ws ← es.mapM (fun e => divF e z)
      let rows ← (ws.zip xs).mapM (fun (x : F32 × List F32) => x.2.mapM (fun y => mulF x.1 y))
      let out ← pairRows width rows
      pure (out, ws)

/-- What one parent's aggregation gives: its row, its SAVE words for KIND 3, its weights for KIND 4 by head. -/
structure AggOut where
  row : List F32
  winners : List Nat
  weights : List (List F32)
  deriving DecidableEq, Repr, Inhabited

/-- The slice of head h of rows. -/
def headSlice (w h : Nat) (xs : List (List F32)) : List (List F32) := xs.map (fun r => (r.drop (h * w)).take w)

/-- One parent aggregated (R120). -/
def aggregateOne (kind heads elems : Nat) (split : Bool) (aux : List F32) (xs : List (List F32)) : FpM AggOut := do
  match kind with
  | 1 => do
    let t ← pairRows elems xs
    let r ← if xs.isEmpty then pure t else t.mapM (fun x => divF x (f32OfNat xs.length))
    pure ⟨r, [], []⟩
  | 2 => do
    let ws ← (aux.zip xs).mapM (fun (x : F32 × List F32) => x.2.mapM (fun y => mulF x.1 y))
    let r ← pairRows elems ws
    pure ⟨r, [], []⟩
  | 3 => do
    let r ← (List.range elems).mapM (fun j => maxWinner (xs.map (fun x => x.getD j 0)))
    pure ⟨r.map (·.1), r.map (·.2), []⟩
  | 4 => do
    let w := elems / max heads 1
    let hs ← (List.range heads).mapM (fun h => attnHead split w ((List.range xs.length).map (fun c => aux.getD (c * heads + h) 0)) (headSlice w h xs))
    pure ⟨hs.flatMap (·.1), [], hs.map (·.2)⟩
  | _ => do
    let r ← pairRows elems xs
    pure ⟨r, [], []⟩

/-- The reads of one parent's operands: IN rows and AUX values. -/
def agParentReads (p : List Byte) (a n : Nat) : List (Nat × Nat) :=
  agInReads p a n ++ (if agKind p = 2 then [agPacked (agAux p) 1 a n] else if agKind p = 4 then [agPacked (agAux p) (agHeads p) a n] else [])

/-- One parent of the forward command: its failure, or its writes, with its reads and the count of non-finite inputs and results (R120; DEDUCED, log entry 109). -/
def State.agForward (s : State) (p : List Byte) (i : Nat) (g : ItemFail ⊕ (Nat × Nat)) : Option ItemFail × List (Nat × List Byte) × List (Nat × Nat) × Nat :=
  match g with
  | .inl f => (some f, [], [], 0)
  | .inr (a, n) =>
    let rs := agParentReads p a n
    match s.failOf rs with
    | some f => (some f, [], rs, 0)
    | none =>
      let per := if agKind p = 4 then agHeads p else 1
      let aux := if agAux p = 0 then [] else s.f32sAt (agPacked (agAux p) per a n)
      let xs := s.agInRows p a n
      let r := (aggregateOne (agKind p) (agHeads p) (agElems p) (decide (agSource p = 1)) aux xs).run (nonfiniteOf (aux ++ xs.flatten))
      let row := (agOut p + i * agOutPitch p, r.1.row.flatMap (fun v => toLE 4 v.toNat))
      let save : List (Nat × List Byte) :=
        if agSave p = 0 then []
        else if agKind p = 3 then [(agSave p + i * agOutPitch p, r.1.winners.flatMap (toLE 4))]
        else [(agSave p + 4 * (a * per), (List.range n).flatMap (fun c => r.1.weights.flatMap (fun w => toLE 4 (w.getD c 0).toNat)))]
      (none, row :: save, rs, r.2)

/-- The end of an aggregation command: the results of its good parents are written, and with a failure or a poisoned group source its outputs are then poisoned (R583, R489). -/
def State.finishAgg (s : State) (p : List Byte) (outs : List (Nat × Nat)) (per : List (Option ItemFail × List (Nat × List Byte) × List (Nat × Nat) × Nat)) : State × Option Result :=
  let fails := (per.zipIdx).filterMap (fun (x, i) => x.1.map (fun f => (i, f)))
  let r := itemsResult (s.agPoisoned p) fails
  let s1 := s.noteReads 1 (s.agGroupReads p ++ per.flatMap (·.2.2.1))
  let w := (s1.countNonfinite (per.foldl (fun n x => n + x.2.2.2) 0)).storeAll 1 (per.flatMap (·.2.1))
  if r.failed then (w.1.poisonRanges 1 outs, some r) else (w.1, some ((writeStatus w.2).getD r))

/-- The ranges that the forward command writes. -/
def State.agOuts (s : State) (p : List Byte) : List (Nat × Nat) :=
  (agOut p, rowsBytes (s.agParents p) (agOutPitch p) (4 * agElems p)) :: (if agSave p = 0 then [] else [(agSave p, s.agSaveBytes p)])

/-- A group source whose header cannot be read ends the command. -/
def State.agHeadStatus (s : State) (p : List Byte) : Option Result :=
  if agSource p = 0 then readStatus (s.read (agGroups p) 64) else none

def effectGraphAggregate (s : State) (c : Ctx) : State × Option Result :=
  let p := c.pkt
  match s.agHeadStatus p with
  | some r => (s.noteRead 1 (agGroups p) 64, some r)
  | none => s.finishAgg p (s.agOuts p) (((s.agGroupsOf p).zipIdx).map (fun (g, i) => s.agForward p i g))

/-- GRAPH.AGGREGATE (R120). -/
def execGraphAggregate (id : Nat) (s : State) : Out State := .next (s.settle (s.runCmd graphAggregateInfo id effectGraphAggregate))

def graphAggregateBwdInfo : OpInfo where
  code := 0x2121
  len := some 32
  used := [(32, 7), (40, 56)]
  static := fun p => agStatic p ++
    [ bParam (decide (3 ≤ agKind p) && decide (agSave p = 0)) 0 72,
      bParam ((decide (agKind p < 2) || decide (agKind p = 3)) && decide (agAuxGrad p ≠ 0)) 0 88 ]
  dyn := fun s c =>
    let p := c.pkt
    agDyn s c ++ (if !s.agReadable p then [] else
      let e := s.agEntries p
      if e = 0 then [] else rangeBreach s c (agEntryGrad p) (rowsBytes e (agOutPitch p) (4 * agElems p)) 80 ++ rangeBreachOpt s c (agAuxGrad p) (s.agAuxBytes p) 88)

/-- The dot product of two rows, summed pairwise. -/
def dotF (a b : List F32) : FpM F32 := do
  let ps ← (a.zip b).mapM (fun (x : F32 × F32) => mulF x.1 x.2)
  pairSum ps

/-- The gradients of one parent: a row per child, and where AUX_GRAD is asked for the values per child (R124). saved gives the winners of KIND 3 or the weights of KIND 4. -/
def backwardOne (kind heads elems : Nat) (auxGrad : Bool) (g : List F32) (aux : List F32) (winners : List Nat) (saved : List F32) (n : Nat) (xs : List (List F32)) : FpM (List (List F32) × List F32) := do
  match kind with
  | 1 => do
    let r ← if n = 0 then pure [] else g.mapM (fun x => divF x (f32OfNat n))
    pure (List.replicate n r, [])
  | 2 => do
    let rows ← aux.mapM (fun w => g.mapM (fun x => mulF w x))
    let ds ← if auxGrad then xs.mapM (dotF g) else pure []
    pure (rows, ds)
  | 3 => pure ((List.range n).map (fun c => (g.zip winners).map (fun (x : F32 × Nat) => if x.2 = c then x.1 else 0)), [])
  | 4 => do
    let w := elems / max heads 1
    let hs ← (List.range heads).mapM (fun h => do
      let gh := (g.drop (h * w)).take w
      let as := (List.range n).map (fun c => saved.getD (c * heads + h) 0)
      let rows ← as.mapM (fun a => gh.mapM (fun x => mulF a x))
      if !auxGrad then pure (rows, []) else do
      let ds ← (headSlice w h xs).mapM (dotF gh)
      let ps ← (as.zip ds).mapM (fun (x : F32 × F32) => mulF x.1 x.2)
      let t ← pairSum ps
      let out ← (as.zip ds).mapM (fun (x : F32 × F32) => do
        let d ← subF x.2 t
        mulF x.1 d)
      pure (rows, out))
    pure ((List.range n).map (fun c => hs.flatMap (fun x => x.1.getD c [])), (List.range n).flatMap (fun c => hs.map (fun x => x.2.getD c 0)))
  | _ => pure (List.replicate n g, [])

/-- The IN rows that the backward command computes from: those of its dot products (R124). -/
def agBwdInReads (p : List Byte) (a n : Nat) : List (Nat × Nat) := if agAuxGrad p = 0 then [] else agInReads p a n

/-- The reads of one parent of the backward command: OUT, and the IN, AUX and SAVE values that its gradients are formed from. -/
def agBwdReads (p : List Byte) (i a n : Nat) : List (Nat × Nat) :=
  (agOut p + i * agOutPitch p, 4 * agElems p) :: (agBwdInReads p a n
    ++ (if agKind p = 2 then [agPacked (agAux p) 1 a n] else [])
    ++ (if agKind p = 3 then [(agSave p + i * agOutPitch p, 4 * agElems p)] else if agKind p = 4 then [agPacked (agSave p) (agHeads p) a n] else []))

/-- One parent of the backward command. -/
def State.agBackward (s : State) (p : List Byte) (i : Nat) (g : ItemFail ⊕ (Nat × Nat)) : Option ItemFail × List (Nat × List Byte) × List (Nat × Nat) × Nat :=
  match g with
  | .inl f => (some f, [], [], 0)
  | .inr (a, n) =>
    let rs := agBwdReads p i a n
    match s.failOf rs with
    | some f => (some f, [], rs, 0)
    | none =>
      let per := if agKind p = 4 then agHeads p else 1
      let grad := s.f32sAt (agOut p + i * agOutPitch p, 4 * agElems p)
      let aux := if agKind p = 2 then s.f32sAt (agPacked (agAux p) 1 a n) else []
      let winners := if agKind p = 3 then (s.f32sAt (agSave p + i * agOutPitch p, 4 * agElems p)).map (·.toNat) else []
      let saved := if agKind p = 4 then s.f32sAt (agPacked (agSave p) per a n) else []
      let xs := (agBwdInReads p a n).map (fun r => rowF32 (agDtype p) (agElems p) (s.read r.1 r.2).data)
      let r := (backwardOne (agKind p) (agHeads p) (agElems p) (decide (agAuxGrad p ≠ 0)) grad aux winners saved n xs).run 0
      let rows := (r.1.1.zipIdx).map (fun (x, k) => (agEntryGrad p + (a + k) * agOutPitch p, x.flatMap (fun v => toLE 4 v.toNat)))
      let ag : List (Nat × List Byte) := if agAuxGrad p = 0 then [] else [(agAuxGrad p + 4 * (a * per), r.1.2.flatMap (fun v => toLE 4 v.toNat))]
      (none, rows ++ ag, rs, r.2)

def effectGraphAggregateBwd (s : State) (c : Ctx) : State × Option Result :=
  let p := c.pkt
  let outs := (agEntryGrad p, rowsBytes (s.agEntries p) (agOutPitch p) (4 * agElems p)) :: (if agAuxGrad p = 0 then [] else [(agAuxGrad p, s.agAuxBytes p)])
  match s.agHeadStatus p with
  | some r => (s.noteRead 1 (agGroups p) 64, some r)
  | none => s.finishAgg p outs (((s.agGroupsOf p).zipIdx).map (fun (g, i) => s.agBackward p i g))

/-- GRAPH.AGGREGATE_BWD (R124). -/
def execGraphAggregateBwd (id : Nat) (s : State) : Out State := .next (s.settle (s.runCmd graphAggregateBwdInfo id effectGraphAggregateBwd))

end Sys2Proof.Machine
end

