-- ==== Sys2Proof/Machine/AddUnit.lean ====
section
/-! DEFINITION. Element arithmetic of adds, memory-side adds with the add buffer (R415, R416, R428) and slice atomics (R429, R430). -/
namespace Sys2Proof.Machine

/-! ### Elements -/

/-- Bytes of an element type. -/
def tyBytes : ElemTy → Nat
  | .int64 => 8
  | .uint64 => 8
  | _ => 4

/-- The signed value of an n-bit pattern. -/
def signedOf (n v : Nat) : Int := if v < 2 ^ (n - 1) then (v : Int) else (v : Int) - (2 ^ n : Nat)

/-- A computation that counts non-finite FP32 results and wrapped integer adds (R180, R126). -/
abbrev AddM := StateM (Nat × Nat)

/-- The sum of two elements: FP32 to nearest even, integers modulo their width, a wrap counted. -/
def elemAdd (ty : ElemTy) (a b : Nat) : AddM Nat := fun st =>
  match ty with
  | .fp32 =>
    let r := (addF (BitVec.ofNat 32 a) (BitVec.ofNat 32 b)).run st.1
    (r.1.toNat, (r.2, st.2))
  | _ =>
    let n := 8 * tyBytes ty
    let signed := ty = .int32 ∨ ty = .int64
    let wraps := if signed then
        (let t := signedOf n a + signedOf n b
         decide (t < -(2 ^ (n - 1) : Nat)) || decide ((2 ^ (n - 1) : Nat) ≤ t))
      else decide (2 ^ n ≤ a + b)
    ((a + b) % 2 ^ n, (st.1, st.2 + bnat wraps))

/-- The counts of adds enter the state. -/
def State.countAdds (s : State) (k : Nat × Nat) : State :=
  let s := s.countNonfinite k.1
  if k.2 = 0 then s else { s with health := { s.health with counts := { s.health.counts with wraps := satAdd32 s.health.counts.wraps k.2 } } }

/-- Elements of a run of bytes. -/
def elemsOf (ty : ElemTy) (bs : List Byte) : List Nat := (chunks (tyBytes ty) bs).map leNat

/-- The bytes of elements. -/
def elemBytes (ty : ElemTy) (vs : List Nat) : List Byte := vs.flatMap (toLE (tyBytes ty))

/-- Two rows added elementwise. -/
def rowAdd (ty : ElemTy) (a b : List Nat) : AddM (List Nat) := (a.zip b).mapM (fun (x : Nat × Nat) => elemAdd ty x.1 x.2)

/-- One level of a pairwise sum of rows. -/
def rowLevel (ty : ElemTy) : List (List Nat) → AddM (List (List Nat))
  | a :: b :: rest => do
    let c ← rowAdd ty a b
    let r ← rowLevel ty rest
    pure (c :: r)
  | xs => pure xs

/-- Rows summed pairwise; fuel bounds the levels. -/
def rowTree (ty : ElemTy) : Nat → List (List Nat) → AddM (List Nat)
  | 0, xs => pure (xs.headD [])
  | n + 1, xs => if xs.length ≤ 1 then pure (xs.headD []) else do
    let ys ← rowLevel ty xs
    rowTree ty n ys

/-- Rows summed one after the other from the first. -/
def rowChain (ty : ElemTy) : List (List Nat) → AddM (List Nat)
  | [] => pure []
  | a :: rest => rest.foldlM (rowAdd ty) a

/-! ### Memory-side adds -/

/-- A sector after an add: masked elements keep their value (R415). The mask says which elements the add reaches. -/
def sectorAdd (r : AddReq) (old : List Byte) : AddM (List Byte) := do
  let vs ← (((elemsOf r.ty old).zip (elemsOf r.ty r.addends)).zip r.mask).mapM (fun (x : (Nat × Nat) × Bool) =>
    if x.2 then elemAdd r.ty x.1.1 x.1.2 else pure x.1.1)
  pure (elemBytes r.ty vs)

/-- The line of the caching region that holds an address. -/
def Memory.lineOf? (m : Memory) (a : Nat) : Option CLine := m.lines.find? (fun c => c.line == (a - gddrBase) / 256)

/-- A line that an add reaches leaves the caching region, written back if dirty, unless it is a pinned accumulator (R428). -/
def Memory.release (m : Memory) (a : Nat) : Memory :=
  match m.lineOf? a with
  | some c => if c.pinned then m else m.evict c
  | none => m

/-- A line is pinned: allocated if it is not held, and only while fewer than 8 of the 16 ways of its set are pinned (R427). -/
def Memory.pin (m : Memory) (l : Nat) : Memory :=
  let set := m.lineSet l
  if 8 ≤ (m.lines.filter (fun c => c.pinned && m.lineSet c.line == set)).length then m
  else
    let m1 := m.touch true false l
    { m1 with lines := mapWhere (fun c => c.line == l) (fun c => { c with pinned := true }) m1.lines }

/-- Lines that no listed range covers any more are no longer pinned. -/
def Memory.unpin (m : Memory) (keep : List (Nat × Nat)) : Memory :=
  let held := keep.flatMap (fun r => linesOf r.1 r.2)
  { m with lines := m.lines.map (fun c => { c with pinned := c.pinned && held.contains c.line }) }

/-- A port holds a sector in its add buffer: at most 64, the one held longest leaving first (R416). -/
def State.holdSector (s : State) (a : Nat) : State :=
  s.updMemPort (s.gddrPlace a).1 (fun m => { m with addBuffer := (a :: m.addBuffer.filter (· != a)).take 64 })

/-- The address lies in the line of a pinned accumulator (R427). -/
def Memory.pinnedLine (m : Memory) (a : Nat) : Bool := inGddr a && (m.lineOf? a).any (·.pinned)

/-- An add made by the port of its sector, or by the churn in the line of a pinned accumulator (R429): the state, and the failure when the sector could not be read (R415, R416, R490). -/
def State.memoryAdd (s : State) (r : AddReq) : State × Option Byte :=
  let s1 := ({ s with mem := s.mem.release r.addr }).noteRead 0 r.addr 32
  let rr := s.read r.addr 32
  match readStatus rr with
  | some x => (s1, some x.status)
  | none =>
    let n := (sectorAdd r rr.data).run (0, 0)
    if s.mem.pinnedLine r.addr then ((s1.countAdds n.2).store 2 r.addr n.1 |>.1, none)
    else ((({ s1 with mem := s1.mem.release r.addr }).countAdds n.2 |>.store 5 r.addr n.1).1.holdSector r.addr, none)

/-- The add requests of a row of elements at an address: one for each sector that the row meets (R415). -/
def addReqs (ty : ElemTy) (a : Nat) (vals : List Nat) : List AddReq :=
  let eb := tyBytes ty
  let n := vals.length * eb
  (sectorsOf a n).map (fun base =>
    let lanes := (List.range (32 / eb)).map (fun l =>
      let x := base + l * eb
      if a ≤ x ∧ x < a + n then some (vals.getD ((x - a) / eb) 0) else none)
    ⟨base, ty, lanes.map (·.isSome), lanes.flatMap (fun l => toLE eb (l.getD 0))⟩)

/-! ### Slice atomics -/

/-- The new value of an element under an operation (R430). -/
def atomValue (op : AtomOp) (ty : ElemTy) (old operand compare : Nat) : Nat :=
  let less (a b : Nat) : Bool := match ty with
    | .int32 => decide (signedOf 32 a < signedOf 32 b)
    | .int64 => decide (signedOf 64 a < signedOf 64 b)
    | _ => decide (a < b)
  match op with
  | .min => if ty = .fp32 then (f32Min (BitVec.ofNat 32 old) (BitVec.ofNat 32 operand)).toNat else if less operand old then operand else old
  | .max => if ty = .fp32 then (f32Max (BitVec.ofNat 32 old) (BitVec.ofNat 32 operand)).toNat else if less old operand then operand else old
  | .swap => operand
  | .cas => if old = compare then operand else old
  | .add => ((elemAdd ty old operand).run (0, 0)).1

/-- One atomic at a slice: the state, and the old value or the failure of the read. The line is allocated in the caching region (R429). -/
def State.sliceAtomic (s : State) (r : AtomReq) : State × (Byte ⊕ Nat) :=
  let n := tyBytes r.ty
  let s1 := s.noteRead 0 r.addr n
  let rr := s.read r.addr n
  match readStatus rr with
  | some x => (s1, .inl x.status)
  | none =>
    let old := leNat rr.data
    let new := atomValue r.op r.ty old r.operand r.compare
    let bad := r.ty = .fp32 ∧ (r.op = .min ∨ r.op = .max) ∧ !f32Finite (BitVec.ofNat 32 new) ∧ f32Finite (BitVec.ofNat 32 old) ∧ f32Finite (BitVec.ofNat 32 r.operand)
    (((if bad then s1.countNonfinite 1 else s1).store 0 r.addr (toLE n new)).1, .inr old)

end Sys2Proof.Machine
end

