-- ==== Sys2Proof/Machine/NumUnit.lean ====
section
/-! DEFINITION. The numeric settings, counters and the update-ratio monitor (R189 to R200). -/
namespace Sys2Proof.Machine

/-! ### CFG.WIDE, CFG.SCALE_POOL -/

def cfgWideInfo : OpInfo where
  code := 0x1101
  used := [(32, 1)]
  static := fun p => [bParam (decide (3 < field p 32 1)) 0 32]
  dyn := fun s c => [bBusy (s.planLoaded && (bitAt (c.f 32 1) 0 != s.num.wideState)) 0]

def effectCfgWide (s : State) (c : Ctx) : State × Option Result :=
  let r := bitAt (c.f 32 1) 1
  let n := { s.num with wideState := bitAt (c.f 32 1) 0 }
  if s.stepRunning then ({ s with num := { n with pendingReduce := some r } }, some resOK)
  else ({ s with num := { n with wideReduce := r, pendingReduce := none } }, some resOK)

/-- CFG.WIDE (R190). -/
def execCfgWide (id : Nat) (s : State) : Out State := .next (s.settle (s.runCmd cfgWideInfo id effectCfgWide))

def cfgScalePoolInfo : OpInfo where
  code := 0x1102
  used := [(32, 16)]
  static := fun p => [bAlign (decide (field p 32 8 % 32 ≠ 0)) 32]
  dyn := fun s c => (if c.f 40 8 = 0 then [] else windowBreach s (c.f 32 8) (c.f 40 8) 32) ++ [bBusy s.planLoaded 0]

def effectCfgScalePool (s : State) (c : Ctx) : State × Option Result :=
  ({ s with num := { s.num with poolAddr := c.f 32 8, poolSize := c.f 40 8 } }, some resOK)

/-- CFG.SCALE_POOL (R184, R191). -/
def execCfgScalePool (id : Nat) (s : State) : Out State := .next (s.settle (s.runCmd cfgScalePoolInfo id effectCfgScalePool))

/-! ### CFG.RATIO_SET -/

def rtLow (p : List Byte) : F32 := BitVec.ofNat 32 (field p 32 4)
def rtHigh (p : List Byte) : F32 := BitVec.ofNat 32 (field p 36 4)

def cfgRatioSetInfo : OpInfo where
  code := 0x1110
  used := [(32, 11), (48, 8)]
  static := fun p =>
    [ bParam (!f32Finite (rtLow p) || !f32Le 0 (rtLow p)) 0 32,
      bParam (!f32Finite (rtHigh p) || !f32Lt (rtLow p) (rtHigh p)) 0 36,
      bParam (decide (3 < field p 42 1)) 0 42 ]
  dyn := fun s c => rangeBreachOpt s c (c.f 48 8) 512 48

def effectCfgRatioSet (s : State) (c : Ctx) : State × Option Result :=
  let p := c.pkt
  let r : RatioCfg := ⟨rtLow p, rtHigh p, if field p 40 2 = 0 then 64 else field p 40 2, bitAt (field p 42 1) 0, bitAt (field p 42 1) 1, field p 48 8, c.mailboxOffset (field p 48 8)⟩
  if s.stepRunning then ({ s with num := { s.num with pendingRatio := some r } }, some resOK)
  else ({ s with num := { s.num with ratio := r, pendingRatio := none } }, some resOK)

/-- CFG.RATIO_SET (R200). -/
def execCfgRatioSet (id : Nat) (s : State) : Out State := .next (s.settle (s.runCmd cfgRatioSetInfo id effectCfgRatioSet))

/-! ### CFG.NUM_READ -/

/-- A table 1 record (R193). -/
def CounterSet.bytes (x : CounterSet) : List Byte :=
  toLE 1 x.plan ++ [0] ++ toLE 2 x.entry ++ toLE 4 x.flush.toNat ++ toLE 4 x.nonfinite.toNat ++ toLE 4 x.miss.toNat

/-- The counter sets in the order of R193: by plan and entry, the shared sets 0xFE and 0xFF last. -/
def sortedSets (xs : List CounterSet) : List CounterSet :=
  sortBy (fun a b => decide (a.plan < b.plan) || (decide (a.plan = b.plan) && decide (a.entry ≤ b.entry))) xs

/-- The fields of a monitor record (R199). -/
def monitorBytes (code flags tag : Nat) (step zeroRun : W32) (ratio u w g : F32) : List Byte :=
  toLE 1 code ++ toLE 1 flags ++ toLE 2 tag ++ toLE 4 step.toNat ++ toLE 4 zeroRun.toNat ++ toLE 4 ratio.toNat ++ toLE 4 u.toNat ++ toLE 4 w.toNat ++ toLE 4 g.toNat ++ zeros 4

/-- A table 0 record: CODE holds the state (R199). -/
def TagMon.bytes (t : TagMon) (global : Bool) : List Byte :=
  monitorBytes (1 + bnat t.high * 2 + bnat t.low * 4 + bnat t.alarm * 8) (bnat global) t.tag t.lastStep t.zeroRun t.ratio t.uNorm t.wNorm t.gNorm

/-- The bit of a tag in the mask of R200: of 512 bytes in device memory, or of the mailbox data buffer where the setting named that (R560). -/
def State.maskBit (s : State) (r : RatioCfg) (tag : Nat) : Bool :=
  bitAt (leNat (match r.maskInBox with
    | some o => cellRead s.host.mboxData (o + tag / 8) 1
    | none => (s.read (r.tagMask + tag / 8) 1).data)) (tag % 8)

/-- A layer tag is monitored: the monitor is enabled and the tag's mask bit is set, or no mask is named (R200). -/
def State.monitors (s : State) (tag : Nat) : Bool :=
  s.num.ratio.enable && (decide (s.num.ratio.tagMask = 0) || s.maskBit s.num.ratio tag)

/-- The tags that are monitored now, in ascending order: those that have been updated with an element that is not frozen (R195), of those that the settings let be monitored. -/
def State.monitoredTags (s : State) : List TagMon := sortBy (fun a b => decide (a.tag ≤ b.tag)) (s.num.tags.filter (fun t => s.monitors t.tag))

/-- The records of a table. -/
def State.numRecords (s : State) (table : Nat) : List (List Byte) :=
  if table = 0 then s.monitoredTags.map (fun t => t.bytes s.num.ratio.global)
  else (sortedSets s.num.sets).map CounterSet.bytes

def cfgNumReadInfo : OpInfo where
  code := 0x1111
  used := [(32, 2), (40, 12)]
  static := fun p =>
    [ bAlign (decide (field p 40 8 % 32 ≠ 0)) 40,
      bParam (decide (1 < field p 32 1)) 0 32,
      bParam (decide (1 < field p 33 1) || (decide (field p 33 1 = 1) && decide (field p 32 1 = 0))) 0 33 ]
  dyn := fun s c =>
    let n := ((s.numRecords (c.f 32 1)).flatten).length
    rangeBreach s c (c.f 40 8) n 40 ++ [bResource (decide (c.f 48 4 < n)) 0]

def effectCfgNumRead (s : State) (c : Ctx) : State × Option Result :=
  let recs := s.numRecords (c.f 32 1)
  let s1 := if bitAt (c.f 33 1) 0 then { s with num := { s.num with sets := s.num.sets.map (fun x => { x with flush := 0, nonfinite := 0, miss := 0 }) } } else s
  let w := s1.storeAt c 0 (c.f 40 8) recs.flatten
  (w.1, some ((writeStatus w.2).getD (resIndex recs.length)))

/-- CFG.NUM_READ (R193). -/
def execCfgNumRead (id : Nat) (s : State) : Out State := .next (s.settle (s.runCmd cfgNumReadInfo id effectCfgNumRead))

/-! ### The monitor -/

/-- A tag that has not been seen. -/
def unseenTag (tag : Nat) : TagMon := ⟨tag, 0, 0, 0, false, false, false, false, 0, 0, 0, 0, 0, 0⟩

/-- The sums of squares of an update of a tag's elements enter the monitor (R195). -/
def State.monitorAdd (s : State) (tag : Nat) (g u w : F32) : State :=
  if !s.monitors tag then s else
  let tags := if s.num.tags.any (fun t => t.tag == tag) then s.num.tags else s.num.tags ++ [unseenTag tag]
  let add (t : TagMon) : FpM TagMon :=
    if t.tag ≠ tag then pure t
    else if t.seen then do
      let g' ← addF t.g g
      let u' ← addF t.u u
      let w' ← addF t.w w
      pure { t with g := g', u := u', w := w' }
    else pure { t with g := g, u := u, w := w, seen := true }
  let r := (tags.mapM add).run 0
  { s.countNonfinite r.2 with num := { (s.countNonfinite r.2).num with tags := r.1 } }

/-- An event code raised for a tag: a telemetry record, the status bits and the last event (R194, R199). -/
def State.monitorEvent (s : State) (code : Nat) (t : TagMon) (step : W64) (run : W32) : State :=
  let s := s.telem 1 65 0 0 (monitorBytes code (bnat s.num.ratio.global) t.tag (step.setWidth 32) run t.ratio t.uNorm t.wNorm t.gNorm)
  { s with num := { s.num with
      ratioBit := s.num.ratioBit || decide (code ≤ 2)
      stallBit := s.num.stallBit || decide (code = 3) || decide (code = 4)
      eventCode := BitVec.ofNat 8 code
      eventTag := BitVec.ofNat 12 t.tag } }

/-- A tag judged on its sums at a boundary (R196, R197, R198). -/
def judgeTag (cfg : RatioCfg) (step : W64) (t : TagMon) (g u w : F32) : TagMon :=
  let un := f32Sqrt u
  let wn := f32Sqrt w
  let ratio := if f32IsZero u then (0 : F32) else f32Div un wn
  let zero := f32IsZero g || f32IsZero u
  let run := if zero then satAdd32 t.zeroRun 1 else 0
  { t with
    g := 0, u := 0, w := 0, seen := false
    high := f32IsNan ratio || f32Lt cfg.high ratio
    low := f32Lt ratio cfg.low
    alarm := zero && (t.alarm || decide (cfg.stallN ≤ run.toNat))
    zeroRun := run
    lastStep := step.setWidth 32
    ratio := ratio, uNorm := un, wNorm := wn, gNorm := f32Sqrt g }

/-- The sums of a tag go through the job (R196). -/
def State.reducesSums (s : State) : Bool := s.num.ratio.global && decide (1 < s.jobN)

/-- In stage 9 the sums of every monitored tag leave for the all-reduce across the job (R18, R196). -/
def State.sendSums (s : State) : State :=
  let ts := s.monitoredTags.filter (·.seen)
  if s.reducesSums && !ts.isEmpty then s.send (.monitorSums (ts.map (fun t => (t.tag, t.g, t.u, t.w)))) else s

/-- Sum k of a tag over the job, in deterministic order (R196, R372): dimension by dimension of the grid a pairwise tree in coordinate order, in which this chip's partial sum stands at its own coordinate and the
contribution of every other member is a free value, as its chip holds it. -/
def State.jobSum (s : State) (draw k : Nat) (own : F32) : FpM F32 :=
  (List.range s.coll.dims.length).foldlM (fun v i =>
    pairSum ((List.range (nth s.coll.dims i 1)).map (fun c => if c = coord s.coll.dims s.rank i then v else Config.peerSum draw (3 * i + k) c))) own

/-- The sums on which a tag is judged: the chip's own, or those of the whole job (R196). -/
def State.judgedSums (s : State) (t : TagMon) : (F32 × F32 × F32) × State :=
  if s.reducesSums then
    let d := s.draw
    let r := (do
      let g ← d.2.jobSum d.1 0 t.g
      let u ← d.2.jobSum d.1 1 t.u
      let w ← d.2.jobSum d.1 2 t.w
      pure (g, u, w) : FpM (F32 × F32 × F32)).run 0
    (r.1, d.2.countNonfinite r.2)
  else ((t.g, t.u, t.w), s)

/-- One tag at a boundary: if it is monitored and was updated in the step, it is judged and its events are raised (R197, R198). -/
def State.monitorTag (step : W64) (s : State) (t : TagMon) : State :=
  if !t.seen || !s.monitors t.tag then s else
  let j := s.judgedSums t
  let t' := judgeTag j.2.num.ratio step t j.1.1 j.1.2.1 j.1.2.2
  let s1 := { j.2 with num := { j.2.num with tags := mapWhere (fun x => x.tag == t.tag) (fun _ => t') j.2.num.tags } }
  let s2 := if t'.high && !t.high then s1.monitorEvent 1 t' step t'.zeroRun else s1
  let s3 := if t'.low && !t.low then s2.monitorEvent 2 t' step t'.zeroRun else s2
  let s4 := if t'.alarm && !t.alarm then s3.monitorEvent 3 t' step t'.zeroRun else s3
  if t.alarm && !t'.alarm then s4.monitorEvent 5 t' step t.zeroRun else s4

/-- The monitor at the boundary that ends a step (R197, R198). -/
def State.monitorBoundary (s : State) (step : W64) : State :=
  let s1 := s.num.tags.foldl (State.monitorTag step) s
  let s2 := if step.toNat % 1024 = 0 then (s1.monitoredTags.filter (·.alarm)).foldl (fun s t => s.monitorEvent 4 t step t.zeroRun) s1 else s1
  { s2 with num := s2.num.sumsCleared }

/-- Settings that waited for the boundary (R190, R191, R200). -/
def Numerics.atBoundary (n : Numerics) : Numerics :=
  { n with wideReduce := n.pendingReduce.getD n.wideReduce, pendingReduce := none, ratio := n.pendingRatio.getD n.ratio, pendingRatio := none }

end Sys2Proof.Machine
end

