-- ==== Sys2Proof/Machine/UpdateEngine.lean ====
section
/-! DEFINITION. The parameter update engine (R307 to R327): the hyperparameter table, dense shards, the update rules, freeze masks and step counters. -/
namespace Sys2Proof.Machine

/-! ### Hyperparameters -/

/-- A hyperparameter record (R310). -/
structure Hyper where
  lr : F32
  beta1 : F32
  beta2 : F32
  eps : F32
  decay : F32
  gradScale : F32
  rule : Nat
  flags : Nat
  deriving DecidableEq, Repr, Inhabited

/-- The record that 32 bytes hold. -/
def hyperOf (bs : List Byte) : Hyper :=
  let w (k : Nat) : F32 := BitVec.ofNat 32 (field bs k 4)
  ⟨w 0, w 4, w 8, w 12, w 16, w 20, field bs 24 1, field bs 25 1⟩

/-- The tag is frozen whole (R324). -/
def Hyper.frozen (h : Hyper) : Bool := bitAt h.flags 0

/-- A finite value of at least 0; a value in [0, 1). -/
def f32NonNeg (a : F32) : Bool := f32Finite a && f32Le 0 a
def f32Share (a : F32) : Bool := f32Le 0 a && f32Lt a 0x3F800000

/-- The fields that a rule uses keep R310; reserved bits are ignored (R6). Rules: 0 SIGN_MOM, 1 SIGN, 2 MOM, 3 ROW_SCALED. -/
def Hyper.ok (h : Hyper) (rule : Nat) : Bool :=
  f32NonNeg h.lr && f32NonNeg h.decay && f32Finite h.gradScale
    && (!(rule == 0 || rule == 2) || f32Share h.beta1) && (!(rule == 0 || rule == 3) || f32Share h.beta2)
    && (!(rule == 3) || (f32Finite h.eps && f32Lt 0 h.eps))

/-- The record of a tag as device memory holds it now; no bytes for a word that cannot be corrected. -/
def State.readHyper (s : State) (a tag : Nat) : List Byte :=
  let r := s.read (a + 32 * tag) 32
  if r.uncorr.isEmpty then r.data else []

/-- The read of its record that a directly submitted command makes (R311). -/
def State.noteHyper (s : State) (c : Ctx) (tag : Nat) : State :=
  match s.update.hyper with
  | some a => if c.inPlan then s else s.noteRead 2 (a + 32 * tag) 32
  | none => s

/-- The records that a step reads when it begins: one for every layer tag with an installed shard or table (R311). -/
def State.latchHyper (s : State) : List (Nat × List Byte) :=
  match s.update.hyper with
  | none => []
  | some a => ((s.update.shards.map (·.tag) ++ s.embed.tables.map (·.layerTag)).dedup).map (fun t => (t, s.readHyper a t))

/-- The record in force for a command: that of its step, or the one in memory for a directly submitted command (R311). -/
def State.hyperFor (s : State) (c : Ctx) (tag : Nat) : Option (List Byte) :=
  match s.update.hyper with
  | none => none
  | some a => match c.inPlan, s.plans.step with
    | true, some st => (st.hyper.find? (fun e => e.1 == tag)).map (·.2)
    | _, _ => some (s.readHyper a tag)

/-- Checks 2 to 4 of R321 for a tag, the rule in force and a step counter: the record, or what the command ends with. A record that cannot be read ends it UNCORRECTED, a poisoned one POISONED (R327, R490). -/
def State.updateChecks (s : State) (c : Ctx) (tag : Nat) (rule : Option Nat) (counter : W64) : Result ⊕ Hyper :=
  match s.hyperFor c tag with
  | none => .inl (resOf stBadParam 0x50 32)
  | some bs =>
    let h := hyperOf bs
    let r := rule.getD h.rule
    if bs.isEmpty then .inl (resStatus stUncorrected)
    else if isPoison bs then .inl (resStatus stPoisoned)
    else if !h.ok r || (rule.isNone && decide (2 < h.rule)) then .inl (resOf stBadParam 0x51 32)
    else if counter ≠ s.plans.stepNo then .inl (resStatus stStepMismatch)
    else .inr h

/-! ### The rules -/

/-- sign(x) (R312). -/
def f32Sign (x : F32) : F32 :=
  if f32IsNan x then qNaN else if f32IsZero x then 0 else if f32Neg x then 0xBF800000 else 0x3F800000

/-- One element under rules 0 to 2 (R313): the new weight and moment. -/
def elementRule (rule : Nat) (h : Hyper) (w m gm : F32) : FpM (F32 × F32) := do
  let g ← mulF h.gradScale gm
  let um ← (match rule with
    | 0 => do
      let c1 ← subF 0x3F800000 h.beta1
      let c2 ← subF 0x3F800000 h.beta2
      let a ← mulF h.beta1 m
      let b ← mulF c1 g
      let c ← addF a b
      let p ← mulF h.beta2 m
      let q ← mulF c2 g
      let m' ← addF p q
      pure (f32Sign c, m')
    | 1 => pure (f32Sign g, m)
    | _ => do
      let a ← mulF h.beta1 m
      let m' ← addF a g
      pure (m', m'))
  let e ← mulF h.decay w
  let d ← addF um.1 e
  let l ← mulF h.lr d
  let w' ← subF w l
  pure (w', um.2)

/-- β^δ as R314 forms it: bits 31 down to 0 of δ. -/
def powBits (beta : F32) (delta : Nat) : Nat → F32 → FpM F32
  | 0, p => pure p
  | k + 1, p => do
    let sq ← mulF p p
    let p' ← (if bitAt delta k then mulF sq beta else pure sq)
    powBits beta delta k p'

/-- A row under ROW_SCALED at a step (R314): the new weights and V. -/
def rowRule (h : Hyper) (ws gms : List F32) (v stamp : W32) (step : Nat) : FpM (List F32 × F32) := do
  let gs ← gms.mapM (fun x => mulF h.gradScale x)
  let sq ← gs.mapM (fun x => mulF x x)
  let t ← pairSum sq
  let q ← divF t (f32OfNat gms.length)
  let v' ← (if stamp = 0 ∧ f32IsZero v then pure q else do
    let p ← powBits h.beta2 ((step + 2 ^ 32 - stamp.toNat) % 2 ^ 32) 32 0x3F800000
    let a ← mulF p v
    let c ← subF 0x3F800000 h.beta2
    let b ← mulF c q
    addF a b)
  let root ← sqrtF v'
  let r ← addF root h.eps
  let out ← (gs.zip ws).mapM (fun (x : F32 × F32) => do
    let a ← divF x.1 r
    let b ← mulF h.decay x.2
    let d ← addF a b
    let l ← mulF h.lr d
    subF x.2 l)
  pure (out, v')

/-- The sum of squares of a list, pairwise (R195). -/
def sumSquares (vs : List F32) : FpM F32 := do
  let sq ← vs.mapM (fun v => mulF v v)
  pairSum sq

/-- The sums G, U and W of R195 over updated elements: merged gradients, stored weights before, stored weights after. -/
def monitorSums (xs : List (F32 × F32 × F32)) : FpM (F32 × F32 × F32) := do
  let g ← sumSquares (xs.map (·.1))
  let ds ← xs.mapM (fun x => subF x.2.2 x.2.1)
  let u ← sumSquares ds
  let w ← sumSquares (xs.map (·.2.2))
  pure (g, u, w)

/-- The elements of a tag that an update changed enter the monitor (R195): sums are taken of a tag that is monitored, and their non-finite results counted (R180). -/
def State.monitorUpdate (s : State) (tag : Nat) (xs : List (F32 × F32 × F32)) : State :=
  if xs.isEmpty || !s.monitors tag then s else
  let m := (monitorSums xs).run 0
  (s.countNonfinite m.2).monitorAdd tag m.1.1 m.1.2.1 m.1.2.2

/-! ### Dense shards -/

/-- A loaded plan, or the image of the running step, holds an entry whose packet passes a test. -/
def State.planNames (s : State) (f : List Byte → Bool) : Bool :=
  s.plans.store.any (fun p => p.entries.any (fun e => f e.pkt))
    || (match s.plans.step with
      | some st => st.plan.entries.any (fun e => f e.pkt)
      | none => false)

/-- A packet is an UPDATE.RUN of a tag. -/
def runsTag (tag : Nat) (p : List Byte) : Bool := decide (opcodeOf p = 0x7010) && decide (field p 32 2 = tag)

/-- The shard that a descriptor describes (R319), with a step counter. -/
def dshardOf (bs : List Byte) (counter : W64) : DShard := ⟨field bs 6 2, field bs 8 8, field bs 16 8, field bs 24 8, field bs 32 8, field bs 40 8, counter⟩

/-- Bytes of a dense record (R309). -/
def State.recBytes (s : State) : Nat := if s.num.wideState then 8 else 4

/-- The shard of a tag. -/
def State.dshard? (s : State) (tag : Nat) : Option DShard := s.update.shards.find? (fun x => x.tag == tag)

def updateShardSetInfo : OpInfo where
  code := 0x7001
  used := [(32, 8)]
  static := fun p => [bAlign (decide (field p 32 8 % 64 ≠ 0)) 32]
  dyn := fun s c =>
    let a := c.f 32 8
    let rr := s.read a 64
    let t := dshardOf rr.data 0
    rangeBreach s c a 64 32 ++
    (if (s.rangeReason a 64).isSome || !rr.good then [] else
      [ bAlign (decide (t.records % 32 ≠ 0) || decide (t.grad % 32 ≠ 0) || decide (t.mask % 32 ≠ 0)) 32,
        bParam (decide (field rr.data 0 4 ≠ 0x50445055) || decide (field rr.data 4 2 ≠ 1) || decide (4095 < t.tag) || decide (t.elements = 0)
          || decide (2 ^ 36 < t.elements) || decide (2 ^ 47 < t.first + t.elements)) 0x52 32,
        bParam (inScratch t.grad || (s.rangeReason t.grad (4 * t.elements)).isSome) 0x52 32,
        bParam (!inGddr t.records) 0x53 32,
        bBusy ((s.dshard? t.tag).isSome && s.planNames (runsTag t.tag)) 0 ]
      ++ (if inGddr t.records then rangeBreach s c t.records (s.recBytes * t.elements) 32 else [])
      ++ rangeBreach s c t.grad (4 * t.elements) 32
      ++ rangeBreachOpt s c t.mask (ceilDiv t.elements 8) 32)

def effectUpdateShardSet (s : State) (c : Ctx) : State × Option Result :=
  let a := c.f 32 8
  let rr := s.read a 64
  let s1 := s.noteRead 2 a 64
  match readStatus rr with
  | some r => (s1, some r)
  | none =>
    let t := dshardOf rr.data s1.plans.stepNo
    ({ s1 with update := { s1.update with shards := s1.update.shards.filter (fun x => x.tag != t.tag) ++ [t] } }, some resOK)

/-- UPDATE.SHARD_SET (R320). -/
def execUpdateShardSet (id : Nat) (s : State) : Out State := .next (s.settle (s.runCmd updateShardSetInfo id effectUpdateShardSet))

def updateShardClearInfo : OpInfo where
  code := 0x7002
  used := [(32, 2)]
  dyn := fun s c => [bBusy (s.planNames (runsTag (c.f 32 2))) 0]

def effectUpdateShardClear (s : State) (c : Ctx) : State × Option Result :=
  ({ s with update := { s.update with shards := s.update.shards.filter (fun x => x.tag != c.f 32 2) } }, some resOK)

/-- UPDATE.SHARD_CLEAR (R320). -/
def execUpdateShardClear (id : Nat) (s : State) : Out State := .next (s.settle (s.runCmd updateShardClearInfo id effectUpdateShardClear))

def updateHyperTableInfo : OpInfo where
  code := 0x7003
  used := [(40, 8)]
  static := fun p => [bAlign (decide (field p 40 8 % 32 ≠ 0)) 40]
  dyn := fun s c => rangeBreachOpt s c (c.f 40 8) (2 ^ 17) 40

def effectUpdateHyperTable (s : State) (c : Ctx) : State × Option Result :=
  ({ s with update := { s.update with hyper := if c.f 40 8 = 0 then none else some (c.f 40 8) } }, some resOK)

/-- UPDATE.HYPER_TABLE (R310). -/
def execUpdateHyperTable (id : Nat) (s : State) : Out State := .next (s.settle (s.runCmd updateHyperTableInfo id effectUpdateHyperTable))

/-- Every step counter of the chip set to a value (R325). -/
def State.setCounters (s : State) (v : W64) : State :=
  { s with
    plans := { s.plans with stepNo := v }
    update := { s.update with shards := s.update.shards.map (fun x => { x with counter := v }) }
    embed := { s.embed with tables := s.embed.tables.map (fun x => { x with counter := v }) } }

/-- Every step counter of the chip one higher (R325). -/
def State.countersUp (s : State) : State :=
  { s with
    plans := { s.plans with stepNo := s.plans.stepNo + 1 }
    update := { s.update with shards := s.update.shards.map (fun x => { x with counter := x.counter + 1 }) }
    embed := { s.embed with tables := s.embed.tables.map (fun x => { x with counter := x.counter + 1 }) } }

/-- The step counters of the chip all agree (R326). -/
def State.countersAgree (s : State) : Bool :=
  s.update.shards.all (fun x => x.counter == s.plans.stepNo) && s.embed.tables.all (fun x => x.counter == s.plans.stepNo)

def updateStepSetInfo : OpInfo where
  code := 0x7004
  used := [(40, 8)]

def effectUpdateStepSet (s : State) (c : Ctx) : State × Option Result := (s.setCounters (BitVec.ofNat 64 (c.f 40 8)), some resOK)

/-- UPDATE.STEP_SET (R325). -/
def execUpdateStepSet (id : Nat) (s : State) : Out State := .next (s.settle (s.runCmd updateStepSetInfo id effectUpdateStepSet))

/-! ### UPDATE.RUN -/

/-- The updated record of element i: its bytes, the monitor's values (none for a masked element), the counts of its conversions. -/
structure DenseOut where
  bytes : List Byte
  seen : Option (F32 × F32 × F32)
  conv : ConvCount
  deriving DecidableEq, Repr, Inhabited

/-- One dense element (R309, R313, R316): rec its record, gm its merged gradient. -/
def State.denseElement (s : State) (h : Hyper) (x : DShard) (i : Nat) (masked : Bool) (old : List Byte) (gm : F32) : FpM DenseOut := do
  if masked then pure ⟨old, none, .zero⟩
  else if s.num.wideState then do
    let w : F32 := BitVec.ofNat 32 (field old 0 4)
    let m : F32 := BitVec.ofNat 32 (field old 4 4)
    let r ← elementRule h.rule h w m gm
    let m' := if h.rule = 1 then m else r.2
    pure ⟨toLE 4 r.1.toNat ++ toLE 4 m'.toNat, some (gm, w, r.1), .zero⟩
  else do
    let w := bf16Widen (field old 0 2)
    let m := bf16Widen (field old 2 2)
    let r ← elementRule h.rule h w m gm
    let u := elementBits s.vec.seed.toNat (0xFFFF8000 + x.tag) 1 (s.plans.stepNo.toNat % 2 ^ 16 * 2 ^ 47 + x.first + i)
    let kw := toHalf 1 (.stochastic u 32) r.1
    let km := if h.rule = 1 then (field old 2 2, ConvCount.zero) else toHalf 1 .nearest r.2
    pure ⟨toLE 2 kw.1 ++ toLE 2 km.1, some (gm, w, bf16Widen kw.1), kw.2.add km.2⟩

/-- Elements of one 32-byte sector of records. -/
def State.perSector (s : State) : Nat := 32 / s.recBytes

/-- The reads of elements a to a + n − 1 of a shard: records, gradients, mask bits. -/
def State.denseReads (s : State) (x : DShard) (a n : Nat) : List (Nat × Nat) :=
  (x.records + s.recBytes * a, s.recBytes * n) :: (x.grad + 4 * a, 4 * n)
    :: (if x.mask = 0 then [] else [(x.mask + a / 8, (a + n + 7) / 8 - a / 8)])

/-- The elements of sector k of a shard updated. -/
def State.denseSector (s : State) (h : Hyper) (x : DShard) (k : Nat) : FpM (List DenseOut) := do
  let a := k * s.perSector
  let n := min s.perSector (x.elements - a)
  let recs := chunks s.recBytes (s.read (x.records + s.recBytes * a) (s.recBytes * n)).data
  let gs := (chunks 4 (s.read (x.grad + 4 * a) (4 * n)).data).map leNat
  ((recs.zip gs).zipIdx).mapM (fun (y : (List Byte × Nat) × Nat) =>
    let i := a + y.2
    let masked := decide (x.mask ≠ 0) && bitAt (field (s.read (x.mask + i / 8) 1).data 0 1) (i % 8)
    s.denseElement h x i masked y.1.1 (BitVec.ofNat 32 y.1.2))

/-- The sectors of a shard. -/
def State.denseSectors (s : State) (x : DShard) : Nat := ceilDiv x.elements s.perSector

/-- The sectors that an update which meets an uncorrectable word has already written: none whose own inputs are bad, and of the others those that a free value names (R327). -/
def State.doneSectors (s : State) (x : DShard) (draw : Nat) : List Nat :=
  (List.range (s.denseSectors x)).filter (fun k =>
    let a := k * s.perSector
    (s.readAll (s.denseReads x a (min s.perSector (x.elements - a)))).good && (Config.freeWord draw k).getLsbD 0)

/-- An update has written its records and is under way until its command completes; an earlier one of the same shard or table is over (R323, R327). -/
def State.takesOff (s : State) (f : Flight) : State :=
  { s with update := { s.update with flights := s.update.flights.filter (fun g => g.unit != f.unit && (s.cmd? g.cmd).isSome) ++ [f] } }

/-- The sectors of records that an update writes, with the bytes they hold before it. -/
def State.oldSectors (s : State) (x : DShard) (ks : List Nat) : List (Nat × List Byte) :=
  ks.map (fun k => (x.records + 32 * k, (s.read (x.records + 32 * k) (s.recBytes * min s.perSector (x.elements - k * s.perSector))).data))

/-- The given sectors updated and written; the sums enter the monitor when asked. -/
def State.denseWrite (s : State) (c : Ctx) (h : Hyper) (x : DShard) (ks : List Nat) (monitor : Bool) : State × Nat :=
  let r := (ks.mapM (fun k => do
    let os ← s.denseSector h x k
    pure (x.records + 32 * k, os))).run 0
  let outs := r.1.flatMap (·.2)
  let seen := outs.filterMap (·.seen)
  let s1 := ((s.countNonfinite r.2).countConv c (outs.foldl (fun k o => k.add o.conv) .zero)).storeAll 2 (r.1.map (fun (a, os) => (a, os.flatMap (·.bytes))))
  (if monitor then s1.1.monitorUpdate x.tag seen else s1.1, seen.length)

def updateRunInfo : OpInfo where
  code := 0x7010
  used := [(32, 2)]

def effectUpdateRun (s : State) (c : Ctx) : State × Option Result :=
  match s.dshard? (c.f 32 2) with
  | none => (s, some (resOf stBadParam 0x54 32))
  | some x =>
    let s := s.noteHyper c x.tag
    match s.updateChecks c x.tag none x.counter with
    | .inl r => (s, some r)
    | .inr h =>
      if h.frozen then (s, some resOK) else
      let inputs := (s.denseReads x 0 x.elements).tail
      let all := s.denseReads x 0 x.elements
      let s1 := s.noteReads 2 all
      if !(s.readAll inputs).poisoned.isEmpty then (s1, some (resStatus stPoisoned))
      else if !(s.readAll all).uncorr.isEmpty then
        let d := s1.draw
        ((d.2.denseWrite c h x (s.doneSectors x d.1) false).1, some (resStatus stUncorrected))
      else if !(s.readAll all).poisoned.isEmpty then (s1.poisonRanges 2 [(x.records, s.recBytes * x.elements)], some (resStatus stPoisoned))
      else
        let ks := List.range (s.denseSectors x)
        let r := (s1.takesOff ⟨c.id, x.tag, s.oldSectors x ks⟩).denseWrite c h x ks true
        (r.1, some (resIndex r.2))

/-- UPDATE.RUN (R321). -/
def execUpdateRun (id : Nat) (s : State) : Out State := .next (s.settle (s.runCmd updateRunInfo id effectUpdateRun))

end Sys2Proof.Machine
end

