-- ==== Sys2Proof/Machine/VectorUnit.lean ====
section
/-! DEFINITION. The VEC and FUNC family (R201 to R223). Each command reads its operands, computes its results with the counts of R180, and commits outputs and counts together; a poisoned or uncorrectable
operand ends it with that status and poisons its outputs (R490). -/
namespace Sys2Proof.Machine

/-! ### The common layout (R202) -/

def vSub (p : List Byte) : Nat := field p 32 1
def vXFmt (p : List Byte) : Nat := field p 33 1
def vYFmt (p : List Byte) : Nat := field p 34 1
def vOutFmt (p : List Byte) : Nat := field p 35 1
def vKind (p : List Byte) : Nat := field p 36 1
def vOpt (p : List Byte) : Nat := field p 37 1
def vShare (p : List Byte) : Nat := max (field p 38 1) 1
def vFunc (p : List Byte) : Nat := field p 39 1
def vRows (p : List Byte) : Nat := field p 40 4
def vCols (p : List Byte) : Nat := field p 44 4
def vStream (p : List Byte) : Nat := field p 48 4
def vParamA (p : List Byte) : F32 := word32 p 52
def vParamB (p : List Byte) : F32 := word32 p 56
def vK (p : List Byte) : Nat := field p 60 4
def vX (p : List Byte) : Nat := field p 64 8
def vY (p : List Byte) : Nat := field p 72 8
def vZ (p : List Byte) : Nat := field p 80 8
def vOut (p : List Byte) : Nat := field p 88 8
def vSave (p : List Byte) : Nat := field p 96 8
def vIndexBase (p : List Byte) : Nat := field p 104 8
def vIndexRow (p : List Byte) : Nat := field p 112 8
def vXScales (p : List Byte) : Nat := field p 120 8
def vOutScales (p : List Byte) : Nat := field p 128 8

/-- The logical index of element (r, c) (R220). -/
def vIndex (p : List Byte) (r c : Nat) : Nat := vIndexBase p + r * vIndexRow p + c

/-- A tensor of the common layout: rows at a pitch of their size rounded up to 32 bytes (R203). -/
def vTensor (fmt rows cols addr : Nat) (lay : Layout) (scales : Nat) : Tensor :=
  ⟨fmt, rows, cols, addr, roundUp (rowBytes fmt cols) 32, lay, scales⟩

/-- X, with Row scales, or Square scales when X_SQUARE is set (R203). -/
def vXTensor (p : List Byte) : Tensor :=
  vTensor (vXFmt p) (vRows p) (vCols p) (vX p) (if bitAt (vOpt p) 1 then .square else .row) (vXScales p)

/-- Y or Z as a tensor of Y_FMT, or as FP32. -/
def vOperand (p : List Byte) (fmt addr : Nat) : Tensor := vTensor fmt (vRows p) (vCols p) addr .row 0

/-- OUT under its recipe's layout. -/
def vOutTensor (p : List Byte) : Tensor :=
  vTensor (vOutFmt p) (vRows p) (vCols p) (vOut p) (kindLayout (vKind p)) (vOutScales p)

/-- What a VEC command's rules add to the common limits: its SUBs, whether it reads X, which of Y, Z and SAVE must be present or must be 0, whether OUT is converted, and whether it holds INT32 words, which ignore OUT_FMT alone (R202). An address to which R201 gives the
command no use must be 0 (R202, R204; DEDUCED, log 53). -/
structure VecShape where
  subs : Nat
  readsX : Bool := true
  needY : Bool := false
  needZ : Bool := false
  needSave : Bool := false
  noSave : Bool := false
  noY : Bool := false
  noZ : Bool := false
  typedOut : Bool := true
  typedSave : Bool := false
  wordsOut : Bool := false
  deriving DecidableEq, Repr, Inhabited

/-- The breaches of R202 to R204 that the packet alone decides. -/
def vecStatic (shape : List Byte → VecShape) (p : List Byte) : List Breach :=
  let sh := shape p
  let mxX := sh.readsX && isMx (vXFmt p)
  let mxOut := sh.typedOut && isMx (vOutFmt p)
  let top := if opcodeOf p = 0x4051 ∧ vSub p = 1 then 2 ^ 63 else 2 ^ 64
  let kr := if sh.typedOut || sh.typedSave then kindReason (vKind p) (vOutFmt p) else none
  [ bAlign (sh.readsX && decide (vX p % 32 ≠ 0)) 64,
    bParam (decide (kr = some 0x15)) 0x15 35,
    bParam (decide (kr = some 0x16) && decide (vKind p < 8)) 0x16 35,
    bParam (decide (sh.subs ≤ vSub p)) 0x20 32,
    bParam (sh.readsX && decide (7 < vXFmt p)) 0x20 33,
    bParam (sh.readsX && decide (2 < vYFmt p)) 0x20 34,
    bParam ((sh.typedOut || sh.typedSave) && decide (7 < vOutFmt p)) 0x20 35,
    bParam (sh.typedSave && isMx (vOutFmt p)) 0x20 35,
    bParam ((sh.typedOut || sh.typedSave || sh.wordsOut) && decide (7 < vKind p)) 0x20 36,
    bParam (decide (3 < vOpt p)) 0x20 37,
    bParam (opcodeOf p != 0x4001 && decide (field p 136 8 ≠ 0)) 0x20 136,
    bParam (sh.readsX && decide (vX p = 0)) 0x21 64,
    bParam (!sh.readsX && decide (vX p ≠ 0)) 0x21 64,
    bParam (sh.needY && decide (vY p = 0)) 0x21 72,
    bParam (sh.noY && decide (vY p ≠ 0)) 0x21 72,
    bParam (sh.needZ && decide (vZ p = 0)) 0x21 80,
    bParam (sh.noZ && decide (vZ p ≠ 0)) 0x21 80,
    bParam (decide (vOut p = 0)) 0x21 88,
    bParam (sh.needSave && decide (vSave p = 0)) 0x21 96,
    bParam (sh.noSave && decide (vSave p ≠ 0)) 0x21 96,
    bParam (decide (mxX ≠ decide (vXScales p ≠ 0))) 0x21 120,
    bParam (decide (mxOut ≠ decide (vOutScales p ≠ 0))) 0x21 128,
    bParam (decide (field p 38 1 = 3) || decide (4 < field p 38 1)) 0x22 38,
    bParam ((opcodeOf p == 0x4051 || opcodeOf p == 0x4060) && decide (1 < field p 38 1)) 0x22 38,
    bParam (decide (vRows p = 0) || decide (2 ^ 24 < vRows p)) 0x22 40,
    bParam (decide (vCols p = 0) || decide (65536 < vCols p) || ((mxX || mxOut) && decide (vCols p % 32 ≠ 0))) 0x22 44,
    bParam (if opcodeOf p = 0x4060 then decide (vK p = 0) || decide (256 < vK p) || decide (vCols p < vK p) else decide (vK p ≠ 0)) 0x22 60,
    bParam (decide (top < vIndexBase p + (vRows p - 1) * vIndexRow p + vCols p)) 0x23 104,
    bParam (decide (vIndexRow p < vCols p)) 0x23 112,
    bParam (decide (0xFFFF0000 ≤ vStream p)) 0x24 48,
    bParam (if opcodeOf p = 0x4100 ∨ opcodeOf p = 0x4101 then decide (15 < vFunc p) else decide (vFunc p ≠ 0)) 0x25 39,
    bParam (!f32Finite (vParamA p)) 0x26 52,
    bParam (!f32Finite (vParamB p)) 0x26 56 ]

/-- The range checks of the tensors that a VEC command names (R420). -/
def vecDyn (shape : List Byte → VecShape) (s : State) (c : Ctx) : List Breach :=
  let p := c.pkt
  let sh := shape p
  (if sh.readsX then tensorBreach s c (vXTensor p) 64 120 else [])
    ++ rangeBreachOpt s c (vY p) 1 72 ++ rangeBreachOpt s c (vZ p) 1 80 ++ rangeBreachOpt s c (vSave p) 1 96
    ++ (if sh.typedOut then tensorBreach s c (vOutTensor p) 88 128 else rangeBreach s c (vOut p) 4 88)

/-- The fields of the common layout. -/
def vecUsed : List (Nat × Nat) := [(32, 112)]

/-- A command of the common layout. -/
def vecInfo (code : Nat) (shape : List Byte → VecShape) (more : List Byte → List Breach) (dyn : State → Ctx → List Breach) : OpInfo where
  code := code
  len := some 96
  used := vecUsed
  reason := 0x20
  static := fun p => vecStatic shape p ++ more p
  dyn := fun s c => vecDyn shape s c ++ dyn s c

/-! ### Committing results -/

/-- What a VEC command computes: a status other than OK, its writes, the FP32 results counted, the conversion's counts and block exponents. -/
structure VecOut where
  fail : Option Result
  writes : List (Nat × List Byte)
  nonfinite : Nat
  conv : ConvCount
  es : List (Option Int)

/-- A command with its reads and its outputs: bad operands end it with outputs poisoned, otherwise its results are committed. -/
def State.runVec (s : State) (c : Ctx) (reads outs : List (Nat × Nat)) (compute : VecOut) : State × Option Result :=
  let rr := s.readAll reads
  let s1 := s.noteReads 0 reads
  match readStatus rr with
  | some r => (s1.poisonRanges 0 outs, some r)
  | none =>
    match compute.fail with
    | some r => (s1.poisonRanges 0 outs, some r)
    | none =>
      let s2 := ((s1.countNonfinite compute.nonfinite).countConv c compute.conv).recordHistory c compute.es
      let w := s2.storeAll 0 compute.writes
      match writeStatus w.2 with
      | some r => (w.1, some r)
      | none => (w.1, some resOK)

/-- Rounded to BF16 when asked. -/
def maybeBf16 (b : Bool) (v : F32) : F32 := if b then roundBf16 v else v

/-- The random numbers of EMBED_ROW rounding (R183). -/
def embedBits (s : State) (p : List Byte) : Nat → Nat → Nat × Nat := fun r c =>
  (elementBits s.vec.seed.toNat ((vStream p + 0x80000000) % 0xFFFF0000) 1 (vIndex p r c), 32)

/-- Values converted to OUT under OUT_KIND (R203). -/
def vecConverted (s : State) (c : Ctx) (vals : List (List F32)) : Converted :=
  convertTensor (vKind c.pkt) (vOutFmt c.pkt) (vCols c.pkt) (s.historyOf c) (some (embedBits s c.pkt)) vals

/-- A result that is one converted OUT tensor. -/
def vecOutOf (s : State) (c : Ctx) (r : List (List F32) × Nat) : VecOut :=
  let k := vecConverted s c r.1
  ⟨none, (vOutTensor c.pkt).writes k, r.2, k.count, if vKind c.pkt = 4 ∧ isMx (vOutFmt c.pkt) then k.es else []⟩

/-- Values of FP32 words written packed or at a pitch. -/
def f32Bytes (vs : List F32) : List Byte := vs.flatMap (fun v => toLE 4 v.toNat)

/-- Three rows in step, a shorter one filled with zeros. -/
def rowAt (m : List (List F32)) (r c : Nat) : F32 := (m.getD r []).getD c 0

/-- A computation over every element, row by row. -/
def mapElems (rows cols : Nat) (f : Nat → Nat → FpM F32) : FpM (List (List F32)) :=
  (List.range rows).mapM (fun r => (List.range cols).mapM (fun c => f r c))

/-! ### VEC.MAP (R205) -/

/-- A value that an operation selects: itself in FP32, converted in BF16 (R179). -/
def selected (bf : Bool) (v : F32) : F32 := if bf then bf16Widen (toHalf 1 .nearest v).1 else v

/-- One operation of a chain; with BF16_ARITH its exact result is rounded once, to BF16. -/
def mapOp (bf : Bool) (code : Nat) (pa pb y z a : F32) : FpM F32 :=
  let mb := if bf then 7 else 23
  match code with
  | 0x01 => counted (atAdd mb a y) [a, y]
  | 0x02 => counted (atSub mb a y) [a, y]
  | 0x03 => counted (atMul mb a y) [a, y]
  | 0x04 => counted (atFma mb a y z) [a, y, z]
  | 0x05 => counted (atMul mb a pa) [a, pa]
  | 0x06 => counted (atAdd mb a pb) [a, pb]
  | 0x07 => counted (selected bf (f32Min a y)) [a, y]
  | 0x08 => counted (selected bf (f32Max a y)) [a, y]
  | 0x09 => counted (selected bf (f32Abs a)) [a]
  | 0x0A => counted (selected bf (f32Opp a)) [a]
  | 0x0B => counted (selected bf (f32Max a 0)) [a]
  | 0x0C => counted (atMul mb a a) [a]
  | 0x0D => counted (selected bf y) [y]
  | 0x0E => let v := if f32Lt 0 y then a else z
    counted (selected bf v) [v]
  | 0x0F => counted (atDiv mb 0x3F800000 a) [a]
  | 0x10 => counted (atSqrt mb a) [a]
  | _ => pure a

/-- The codes of a chain up to its first 0x00. -/
def chainCodes (p : List Byte) : List Nat := (((p.drop 136).take 8).map (·.toNat)).takeWhile (· != 0)

/-- A chain applied to one element. -/
def runChain (bf : Bool) (pa pb y z : F32) (codes : List Nat) (x : F32) : FpM F32 :=
  codes.foldlM (fun a k => mapOp bf k pa pb y z a) x

/-- The chain uses y, uses z. -/
def chainUsesY (p : List Byte) : Bool := (chainCodes p).any (fun k => [1, 2, 3, 4, 7, 8, 0xD, 0xE].contains k)
def chainUsesZ (p : List Byte) : Bool := (chainCodes p).any (fun k => [4, 0xE].contains k)

def vecMapInfo : OpInfo := vecInfo 0x4001 (fun p => { subs := 1, needY := chainUsesY p, needZ := chainUsesZ p, noSave := true })
  (fun p => ((chainCodes p).zipIdx).map (fun (k, i) => bParam (decide (0x10 < k)) 0x20 (136 + i))
    ++ (List.range 8).map (fun i => bParam (decide ((chainCodes p).length < i) && decide (field p (136 + i) 1 ≠ 0)) 0x20 (136 + i)))
  (fun s c => (if chainUsesY c.pkt then tensorBreach s c (vOperand c.pkt (vYFmt c.pkt) (vY c.pkt)) 72 72 else [])
    ++ (if chainUsesZ c.pkt then tensorBreach s c (vOperand c.pkt (vYFmt c.pkt) (vZ c.pkt)) 80 80 else []))

/-- OUT is the chain applied to X, Y and Z. -/
def effectVecMap (s : State) (c : Ctx) : State × Option Result :=
  let p := c.pkt
  let x := vXTensor p
  let y := vOperand p (vYFmt p) (vY p)
  let z := vOperand p (vYFmt p) (vZ p)
  let uy := chainUsesY p
  let uz := chainUsesZ p
  let xs := s.tensorF32 x
  let ys := if uy then s.tensorF32 y else []
  let zs := if uz then s.tensorF32 z else []
  let r := (mapElems (vRows p) (vCols p) (fun i j =>
    runChain (bitAt (vOpt p) 0) (vParamA p) (vParamB p) (rowAt ys i j) (rowAt zs i j) (chainCodes p) (rowAt xs i j))).run 0
  s.runVec c (x.reads ++ (if uy then y.reads else []) ++ (if uz then z.reads else [])) (vOutTensor p).ranges (vecOutOf s c r)

/-- VEC.MAP (R205). -/
def execVecMap (id : Nat) (s : State) : Out State := .next (s.settle (s.runCmd vecMapInfo id effectVecMap))

/-! ### VEC.REDUCE (R206) -/

def vecReduceInfo : OpInfo := vecInfo 0x4010 (fun _ => { subs := 6, noY := true, noZ := true, noSave := true, typedOut := false }) (fun _ => [])
  (fun s c => rangeBreach s c (vOut c.pkt) (4 * (if vSub c.pkt = 5 then vCols c.pkt else vRows c.pkt)) 88)

/-- Division by a count. -/
def divCount (v : F32) (n : Nat) : FpM F32 := divF v (f32OfNat n)

/-- One reduction of a row or a column. -/
def reduceRow (sub : Nat) (xs : List F32) : FpM F32 :=
  match sub with
  | 1 => pairMax xs
  | 2 => pairMin xs
  | 3 => do
    let sq ← xs.mapM (fun x => mulF x x)
    pairSum sq
  | 4 => do
    let t ← pairSum xs
    divCount t xs.length
  | _ => pairSum xs

/-- Column j of a matrix. -/
def column (m : List (List F32)) (j : Nat) : List F32 := m.map (fun r => r.getD j 0)

def effectVecReduce (s : State) (c : Ctx) : State × Option Result :=
  let p := c.pkt
  let x := vXTensor p
  let xs := s.tensorF32 x
  let lines := if vSub p = 5 then (List.range (vCols p)).map (column xs) else xs
  let r := (lines.mapM (reduceRow (vSub p))).run 0
  s.runVec c x.reads [(vOut p, 4 * lines.length)] ⟨none, [(vOut p, f32Bytes r.1)], r.2, .zero, []⟩

/-- VEC.REDUCE (R206). -/
def execVecReduce (id : Nat) (s : State) : Out State := .next (s.settle (s.runCmd vecReduceInfo id effectVecReduce))

/-! ### Normalisation (R207, R208) -/

/-- Per-element values are rounded to BF16 when WIDE_REDUCE is 0 (R208). -/
def State.narrowReduce (s : State) : Bool := !s.num.wideReduce

/-- A row of FP32 values packed at an address, and its read. -/
def State.packedRow (s : State) (a n : Nat) : List F32 := ((chunks 4 (s.read a (4 * n)).data).map leNat).map (BitVec.ofNat 32 ·)

def vecNormInfo : OpInfo := vecInfo 0x4020 (fun _ => { subs := 2, needY := true, needSave := true })
  (fun p => [bParam (!f32Lt 0 (vParamA p)) 0x26 52])
  (fun s c => rangeBreach s c (vY c.pkt) (4 * vCols c.pkt) 72 ++ rangeBreachOpt s c (vZ c.pkt) (4 * vCols c.pkt) 80
    ++ rangeBreach s c (vSave c.pkt) (8 * vRows c.pkt) 96)

/-- Mean (0 for RMS norm) and reciprocal deviation of a row. -/
def rowStats (narrow rms : Bool) (eps : F32) (xs : List F32) : FpM (F32 × F32) := do
  let mu ← if rms then pure 0 else do
    let t ← pairSum xs
    divCount t xs.length
  let ds ← xs.mapM (fun x => do
    let d ← if rms then pure x else subF x mu
    let d := maybeBf16 narrow d
    let q ← mulF d d
    pure (maybeBf16 narrow q))
  let t ← pairSum ds
  let v ← divCount t xs.length
  let ve ← addF v eps
  let q ← sqrtF ve
  let r ← divF 0x3F800000 q
  pure (mu, r)

/-- y = (x − μ) × r × gain + bias for a row. -/
def normRow (narrow rms : Bool) (eps : F32) (gain : List F32) (bias : Option (List F32)) (xs : List F32) : FpM (List F32 × F32 × F32) := do
  let st ← rowStats narrow rms eps xs
  let ys ← (xs.zipIdx).mapM (fun (x, j) => do
    let d ← if rms then pure x else subF x st.1
    let h ← mulF (maybeBf16 narrow d) st.2
    let g ← mulF (maybeBf16 narrow h) (gain.getD j 0)
    let g := maybeBf16 narrow g
    let y ← match bias with
      | none => pure g
      | some b => addF g (b.getD j 0)
    pure (maybeBf16 narrow y))
  pure (ys, st.1, st.2)

def effectVecNorm (s : State) (c : Ctx) : State × Option Result :=
  let p := c.pkt
  let x := vXTensor p
  let cols := vCols p
  let gain := s.packedRow (vY p) cols
  let bias := if vZ p = 0 then none else some (s.packedRow (vZ p) cols)
  let r := ((s.tensorF32 x).mapM (normRow s.narrowReduce (vSub p == 1) (vParamA p) gain bias)).run 0
  let o := vecOutOf s c (r.1.map (·.1), r.2)
  let stats := r.1.flatMap (fun t => f32Bytes [t.2.1, t.2.2])
  s.runVec c (x.reads ++ [(vY p, 4 * cols)] ++ (if vZ p = 0 then [] else [(vZ p, 4 * cols)]))
    ((vOutTensor p).ranges ++ [(vSave p, 8 * vRows p)]) { o with writes := o.writes ++ [(vSave p, stats)] }

/-- VEC.NORM (R207). -/
def execVecNorm (id : Nat) (s : State) : Out State := .next (s.settle (s.runCmd vecNormInfo id effectVecNorm))

def vecNormBwdInfo : OpInfo := vecInfo 0x4021 (fun p => { subs := 3, needY := vSub p != 1, needZ := true, needSave := true }) (fun _ => [])
  (fun s c => (if vSub c.pkt = 1 then [] else rangeBreach s c (vY c.pkt) (4 * vCols c.pkt) 72)
    ++ tensorBreach s c (vOperand c.pkt (vYFmt c.pkt) (vZ c.pkt)) 80 80 ++ rangeBreach s c (vSave c.pkt) (8 * vRows c.pkt) 96)

/-- The input gradient of a row of layer norm (SUB 0) or RMS norm (SUB 2), or Z × x̂ (SUB 1). -/
def normBwdRow (narrow : Bool) (sub : Nat) (mu r : F32) (gain xs gs : List F32) : FpM (List F32) := do
  let xh ← xs.mapM (fun x => do
    let d ← if sub = 2 then pure x else subF x mu
    let h ← mulF (maybeBf16 narrow d) r
    pure (maybeBf16 narrow h))
  if sub = 1 then
    (xh.zip gs).mapM (fun (h, g) => do
      let v ← mulF g h
      pure (maybeBf16 narrow v))
  else
    let gh ← (gs.zipIdx).mapM (fun (g, j) => do
      let v ← mulF g (gain.getD j 0)
      pure (maybeBf16 narrow v))
    let n := xs.length
    let m1 ← if sub = 2 then pure 0 else do
      let t ← pairSum gh
      divCount t n
    let pr ← (gh.zip xh).mapM (fun (g, h) => do
      let v ← mulF g h
      pure (maybeBf16 narrow v))
    let t2 ← pairSum pr
    let m2 ← divCount t2 n
    (gh.zip xh).mapM (fun (g, h) => do
      let a ← if sub = 2 then pure g else subF g m1
      let b ← mulF h m2
      let d ← subF (maybeBf16 narrow a) (maybeBf16 narrow b)
      let v ← mulF r (maybeBf16 narrow d)
      pure (maybeBf16 narrow v))

def effectVecNormBwd (s : State) (c : Ctx) : State × Option Result :=
  let p := c.pkt
  let x := vXTensor p
  let z := vOperand p (vYFmt p) (vZ p)
  let cols := vCols p
  let gain := if vSub p = 1 then [] else s.packedRow (vY p) cols
  let st := s.packedRow (vSave p) (2 * vRows p)
  let zs := s.tensorF32 z
  let r := (((s.tensorF32 x).zipIdx).mapM (fun (xs, i) =>
    normBwdRow s.narrowReduce (vSub p) (st.getD (2 * i) 0) (st.getD (2 * i + 1) 0) gain xs (zs.getD i []))).run 0
  s.runVec c (x.reads ++ z.reads ++ [(vSave p, 8 * vRows p)] ++ (if vSub p = 1 then [] else [(vY p, 4 * cols)]))
    (vOutTensor p).ranges (vecOutOf s c r)

/-- VEC.NORM_BWD (R207). -/
def execVecNormBwd (id : Nat) (s : State) : Out State := .next (s.settle (s.runCmd vecNormBwdInfo id effectVecNormBwd))

/-! ### Soft maximum and loss (R207) -/

def vecSoftmaxInfo : OpInfo := vecInfo 0x4030 (fun p => { subs := 2, needZ := vSub p == 1, noY := vSub p == 1, noZ := vSub p != 1, noSave := true }) (fun _ => [])
  (fun s c => if vSub c.pkt = 0 then (if vY c.pkt = 0 then [] else tensorBreach s c (vOperand c.pkt 0 (vY c.pkt)) 72 72)
    else tensorBreach s c (vOperand c.pkt (vYFmt c.pkt) (vZ c.pkt)) 80 80)

/-- The exponentials of a row against its maximum, their sum, and the maximum; none for a row whose every value is −∞. -/
def softParts (narrow : Bool) (zs : List F32) : FpM (Option (List F32 × F32 × F32)) := do
  if zs.all (· == f32Inf true) then pure none else
  let m ← pairMax zs
  let es ← zs.mapM (fun z => do
    let d ← subF z m
    let e ← expPair (maybeBf16 narrow d)
    pure (maybeBf16 narrow e))
  let t ← pairSum es
  pure (some (es, t, m))

/-- y = e / Σe for a row; zeros where every value is −∞. -/
def softRow (narrow : Bool) (zs : List F32) : FpM (List F32) := do
  match ← softParts narrow zs with
  | none => pure (zs.map (fun _ => 0))
  | some (es, t, _) => es.mapM (fun e => do
      let y ← divF e t
      pure (maybeBf16 narrow y))

/-- y × (g − Σ y·g) for a row. -/
def softBwdRow (narrow : Bool) (ys gs : List F32) : FpM (List F32) := do
  let pr ← (ys.zip gs).mapM (fun (y, g) => do
    let v ← mulF y g
    pure (maybeBf16 narrow v))
  let t ← pairSum pr
  (ys.zip gs).mapM (fun (y, g) => do
    let d ← subF g t
    let v ← mulF y (maybeBf16 narrow d)
    pure (maybeBf16 narrow v))

def effectVecSoftmax (s : State) (c : Ctx) : State × Option Result :=
  let p := c.pkt
  let x := vXTensor p
  let xs := s.tensorF32 x
  if vSub p = 0 then
    let y := vOperand p 0 (vY p)
    let masked := decide (vY p ≠ 0)
    let ms := if masked then s.tensorF32 y else []
    let r := ((xs.zipIdx).mapM (fun ((row, i) : List F32 × Nat) => do
      let zs ← if masked then (row.zipIdx).mapM (fun (v, j) => do
        let z ← addF v (rowAt ms i j)
        pure (maybeBf16 s.narrowReduce z)) else pure row
      softRow s.narrowReduce zs)).run 0
    s.runVec c (x.reads ++ (if masked then y.reads else [])) (vOutTensor p).ranges (vecOutOf s c r)
  else
    let z := vOperand p (vYFmt p) (vZ p)
    let gs := s.tensorF32 z
    let r := ((xs.zipIdx).mapM (fun (row, i) => softBwdRow s.narrowReduce row (gs.getD i []))).run 0
    s.runVec c (x.reads ++ z.reads) (vOutTensor p).ranges (vecOutOf s c r)

/-- VEC.SOFTMAX (R207). -/
def execVecSoftmax (id : Nat) (s : State) : Out State := .next (s.settle (s.runCmd vecSoftmaxInfo id effectVecSoftmax))

/-- INT32 labels: one per row, at the row pitch of 32 bytes (R203). -/
def labelTensor (p : List Byte) : Tensor := ⟨0, vRows p, 1, vY p, 32, .row, 0⟩

def vecLossInfo : OpInfo := vecInfo 0x4040 (fun _ => { subs := 2, needY := true, needSave := true, noZ := true, typedOut := false, typedSave := true }) (fun _ => [])
  (fun s c => rangeBreach s c (vOut c.pkt) (4 * vRows c.pkt) 88
    ++ (if vSub c.pkt = 0 then tensorBreach s c (labelTensor c.pkt) 72 72 else tensorBreach s c (vOperand c.pkt (vYFmt c.pkt) (vY c.pkt)) 72 72)
    ++ tensorBreach s c { vOutTensor c.pkt with addr := vSave c.pkt } 96 96)

/-- Loss and scaled gradient of a row under cross-entropy; an ignored row gives 0 and zeros. -/
def crossRow (narrow : Bool) (pa : F32) (label : Option Nat) (xs : List F32) : FpM (F32 × List F32) := do
  match label with
  | none => pure (0, xs.map (fun _ => 0))
  | some l =>
    match ← softParts narrow xs with
    | none => do
      -- m = −∞ and Σe = 0: the loss formula in FP32, y the zeros of the soft maximum
      let ln ← lnPair 0
      let a ← addF (f32Inf true) ln
      let v ← subF a (xs.getD l 0)
      let gs ← (xs.zipIdx).mapM (fun (_, j) => do
        let g ← mulF (if j = l then 0xBF800000 else 0) pa
        pure (maybeBf16 narrow g))
      pure (v, gs)
    | some (es, t, m) => do
      let ln ← lnPair t
      let a ← addF m ln
      let v ← subF a (xs.getD l 0)
      let gs ← (es.zipIdx).mapM (fun (e, j) => do
        let y ← divF e t
        let y := maybeBf16 narrow y
        let d ← if j = l then subF y 0x3F800000 else pure y
        let g ← mulF (maybeBf16 narrow d) pa
        pure (maybeBf16 narrow g))
      pure (v, gs)

/-- Loss and gradient of a row under squared error. -/
def squareRow (narrow : Bool) (pa : F32) (xs ys : List F32) : FpM (F32 × List F32) := do
  let ds ← (xs.zip ys).mapM (fun (x, y) => do
    let d ← subF x y
    pure (maybeBf16 narrow d))
  let sq ← ds.mapM (fun d => do
    let q ← mulF d d
    pure (maybeBf16 narrow q))
  let t ← pairSum sq
  let gs ← ds.mapM (fun d => do
    let e ← mulF 0x40000000 d
    let g ← mulF (maybeBf16 narrow e) pa
    pure (maybeBf16 narrow g))
  pure (t, gs)

def effectVecLoss (s : State) (c : Ctx) : State × Option Result :=
  let p := c.pkt
  let x := vXTensor p
  let xs := s.tensorF32 x
  let save : Tensor := { vOutTensor p with addr := vSave p }
  let outs := (vOut p, 4 * vRows p) :: save.ranges
  let finish (r : List (F32 × List F32) × Nat) : VecOut :=
    let k := vecConverted s c (r.1.map (·.2))
    ⟨none, (vOut p, f32Bytes (r.1.map (·.1))) :: save.writes k, r.2, k.count, []⟩
  if vSub p = 0 then
    let y := labelTensor p
    let labels := (s.tensorRows y).map leNat
    let bad := labels.any (fun l => decide (l ≠ 0xFFFFFFFF) && decide (vCols p ≤ l))
    let r := ((xs.zip labels).mapM (fun (row, l) => crossRow s.narrowReduce (vParamA p) (if l = 0xFFFFFFFF then none else some l) row)).run 0
    let o := if bad then ⟨some (resOf stIndexRange 0x07 0), [], 0, .zero, []⟩ else finish r
    s.runVec c (x.reads ++ y.reads) outs o
  else
    let y := vOperand p (vYFmt p) (vY p)
    let ys := s.tensorF32 y
    let r := ((xs.zipIdx).mapM (fun (row, i) => squareRow s.narrowReduce (vParamA p) row (ys.getD i []))).run 0
    s.runVec c (x.reads ++ y.reads) outs (finish r)

/-- VEC.LOSS (R207). -/
def execVecLoss (id : Nat) (s : State) : Out State := .next (s.settle (s.runCmd vecLossInfo id effectVecLoss))

/-! ### Random operations (R222, R223) -/

/-- The element's bits of the command's own stream. -/
def ownBits (s : State) (p : List Byte) (sh idx : Nat) : Nat := elementBits s.vec.seed.toNat (vStream p) sh idx

def vecDropoutInfo : OpInfo := vecInfo 0x4050 (fun _ => { subs := 2, noY := true, noZ := true, noSave := true })
  (fun p => [bParam (!(f32Le 0 (vParamA p) && f32Lt (vParamA p) 0x3F800000)) 0x26 52]) (fun _ _ => [])

/-- Dropped elements become +0, kept ones are multiplied by 1 / (1 − q); forward and backward take the same decisions, from X. -/
def effectVecDropout (s : State) (c : Ctx) : State × Option Result :=
  let p := c.pkt
  let x := vXTensor p
  let xs := s.tensorF32 x
  let sh := vShare p
  let q := f32ToRat (vParamA p)
  let limit := (q * ((2 ^ (32 / sh) : Nat) : Rat)).floor.toNat
  let scale := f32OfRat (1 / (1 - q))
  let r := (mapElems (vRows p) (vCols p) (fun i j =>
    if ownBits s p sh (vIndex p i j) < limit then pure 0 else mulF (rowAt xs i j) scale)).run 0
  s.runVec c x.reads (vOutTensor p).ranges (vecOutOf s c r)

/-- VEC.DROPOUT (R222). -/
def execVecDropout (id : Nat) (s : State) : Out State := .next (s.settle (s.runCmd vecDropoutInfo id effectVecDropout))

/-- u′ = (u + 0.5) / 2^32 in FP32 (R223). -/
def uniformVariate (u : Nat) : F32 := f32Round false (2 * u + 1) (-33) false

def vecInitInfo : OpInfo := vecInfo 0x4051 (fun _ => { subs := 3, readsX := false, noSave := true, noY := true, noZ := true })
  (fun p => [bParam (decide (vSub p = 0) && !f32Lt (vParamA p) (vParamB p)) 0x26 52,
    bParam (decide (vSub p = 1) && f32Lt (vParamB p) 0) 0x26 56]) (fun _ _ => [])

/-- The initial value of the element with logical index i. -/
def initValue (s : State) (p : List Byte) (i : Nat) : FpM F32 :=
  let a := vParamA p
  let b := vParamB p
  match vSub p with
  | 0 => do
    let d ← subF b a
    let m ← mulF d (uniformVariate (ownBits s p 1 i))
    addF a m
  | 1 => do
    let ln ← lnPair (uniformVariate (ownBits s p 1 (2 * i)))
    let t ← mulF 0xC0000000 ln
    let q ← sqrtF t
    let cs ← (builtinPair 16).eval false (uniformVariate (ownBits s p 1 (2 * i + 1)))
    let bq ← mulF b q
    let v ← mulF bq cs
    addF a v
  | _ => pure a

def effectVecInit (s : State) (c : Ctx) : State × Option Result :=
  let p := c.pkt
  let r := (mapElems (vRows p) (vCols p) (fun i j => initValue s p (vIndex p i j))).run 0
  s.runVec c [] (vOutTensor p).ranges (vecOutOf s c r)

/-- VEC.INIT (R223). -/
def execVecInit (id : Nat) (s : State) : Out State := .next (s.settle (s.runCmd vecInitInfo id effectVecInit))

def vecRandomBitsInfo : OpInfo := vecInfo 0x4052 (fun _ => { subs := 1, readsX := false, noSave := true, noY := true, noZ := true, typedOut := false, wordsOut := true }) (fun _ => [])
  (fun s c => tensorBreach s c (vTensor 0 (vRows c.pkt) (vCols c.pkt) (vOut c.pkt) .row 0) 88 88)

def effectVecRandomBits (s : State) (c : Ctx) : State × Option Result :=
  let p := c.pkt
  let t := vTensor 0 (vRows p) (vCols p) (vOut p) .row 0
  let rows := (List.range (vRows p)).map (fun i => (List.range (vCols p)).flatMap (fun j =>
    toLE 4 (elementWord s.vec.seed.toNat (vStream p) (vShare p) (vIndex p i j))))
  s.runVec c [] t.ranges ⟨none, t.writes ⟨rows, [], .zero, []⟩, 0, .zero, []⟩

/-- VEC.RANDOM_BITS (R218). -/
def execVecRandomBits (id : Nat) (s : State) : Out State := .next (s.settle (s.runCmd vecRandomBitsInfo id effectVecRandomBits))

def vecGumbelInfo : OpInfo := vecInfo 0x4060 (fun _ => { subs := 1, noY := true, noZ := true, typedOut := false, wordsOut := true }) (fun _ => [])
  (fun s c => tensorBreach s c (vTensor 0 (vRows c.pkt) (vK c.pkt) (vOut c.pkt) .row 0) 88 88
    ++ (if vSave c.pkt = 0 then [] else tensorBreach s c (vOperand c.pkt 0 (vSave c.pkt)) 96 96))

/-- Rank a before b: a NaN below −∞, larger first, ties to the lower column (R223). -/
def gumbelBefore (a b : F32 × Nat) : Bool :=
  if f32IsNan a.1 then f32IsNan b.1 && decide (a.2 ≤ b.2)
  else f32IsNan b.1 || f32Lt b.1 a.1 || (decide (f32Key a.1 = f32Key b.1) && decide (a.2 ≤ b.2))

/-- score − ln(−ln u′). -/
def gumbelScore (x : F32) (u : Nat) : FpM F32 := do
  let a ← lnPair (uniformVariate u)
  let b ← lnPair (f32Opp a)
  addF x (f32Opp b)

def effectVecGumbel (s : State) (c : Ctx) : State × Option Result :=
  let p := c.pkt
  let x := vXTensor p
  let xs := s.tensorF32 x
  let r := (mapElems (vRows p) (vCols p) (fun i j => gumbelScore (rowAt xs i j) (ownBits s p 1 (vIndex p i j)))).run 0
  let out := vTensor 0 (vRows p) (vK p) (vOut p) .row 0
  let top := r.1.map (fun row => ((sortBy gumbelBefore row.zipIdx).take (vK p)).flatMap (fun e => toLE 4 e.2))
  let save := vOperand p 0 (vSave p)
  let saves := if vSave p = 0 then [] else save.writes ⟨r.1.map f32Bytes, [], .zero, []⟩
  s.runVec c x.reads (out.ranges ++ (if vSave p = 0 then [] else save.ranges))
    ⟨none, out.writes ⟨top, [], .zero, []⟩ ++ saves, r.2, .zero, []⟩

/-- VEC.GUMBEL (R223). -/
def execVecGumbel (id : Nat) (s : State) : Out State := .next (s.settle (s.runCmd vecGumbelInfo id effectVecGumbel))

/-! ### Function pairs (R209 to R213) -/

/-- The pair under an ID that is occupied. -/
def State.pair? (s : State) (id : Nat) : Option FPair :=
  if id < 8 then some (builtinPair id) else ((s.vec.pairs.find? (fun e => e.1 == id)).map (fun e => pairOfImage e.2))

/-- The pair that a command other than a load or a clear names: that of FUNC_ID, or the one that FUNC.READ_PAIR reads; the internal cosine is no pair. -/
def namedPair (p : List Byte) : Option Nat :=
  if opcodeOf p = 0x4100 ∨ opcodeOf p = 0x4101 then some (vFunc p)
  else if opcodeOf p = 0x4112 ∧ field p 32 1 < 16 then some (field p 32 1)
  else none

/-- A packet names a pair that is empty. -/
def State.namesEmptyPair (s : State) (p : List Byte) : Bool := (namedPair p).any (fun k => (s.pair? k).isNone)

/-- An earlier load or clear of the pair has not ended, so a command that names the pair waits for it (R212). A plan entry waits only for one that runs: a load or clear that its own step holds back is one that
comes after the step (log 121). -/
def State.pairWait (s : State) (id pair : Nat) : Bool :=
  let entry := (s.cmd? id).any (fun c => c.entry?.isSome)
  s.queues.cmds.any (fun d => decide (d.id < id) && (if entry then d.stage.isRunning else d.stage.live) && (opcodeOf d.pkt == 0x4110 || opcodeOf d.pkt == 0x4111)
    && decide (field d.pkt 32 1 = pair))

/-- A command that names the pair is running, so a load or clear waits for it (R212). -/
def State.pairInUse (s : State) (pair : Nat) : Bool := s.queues.cmds.any (fun d => d.stage.isRunning && namedPair d.pkt == some pair)

/-- The pair that a command in flight names at an offset of its packet. -/
def State.pairNamed (s : State) (id off : Nat) : Nat :=
  match s.cmd? id with
  | some c => field c.pkt off 1
  | none => 0

def funcApplyInfo : OpInfo := vecInfo 0x4100 (fun _ => { subs := 1, noY := true, noZ := true, noSave := true }) (fun _ => [])
  (fun s c => [bParam ((s.pair? (vFunc c.pkt)).isNone) 0x25 39])
def funcDerivInfo : OpInfo := vecInfo 0x4101 (fun _ => { subs := 1, needY := true, noZ := true, noSave := true }) (fun _ => [])
  (fun s c => bParam ((s.pair? (vFunc c.pkt)).isNone) 0x25 39 :: tensorBreach s c (vOperand c.pkt (vYFmt c.pkt) (vY c.pkt)) 72 72)

def effectFuncApply (s : State) (c : Ctx) : State × Option Result :=
  let p := c.pkt
  let x := vXTensor p
  let pr := (s.pair? (vFunc p)).getD (builtinPair 0)
  let r := ((s.tensorF32 x).mapM (fun (row : List F32) => row.mapM (pr.eval false))).run 0
  s.runVec c x.reads (vOutTensor p).ranges (vecOutOf s c r)

/-- FUNC.APPLY (R210). -/
def execFuncApply (id : Nat) (s : State) : Out State :=
  .next (s.settle (if s.pairWait id (s.pairNamed id 39) then s else s.runCmd funcApplyInfo id effectFuncApply))

def effectFuncDeriv (s : State) (c : Ctx) : State × Option Result :=
  let p := c.pkt
  let x := vXTensor p
  let y := vOperand p (vYFmt p) (vY p)
  let ys := s.tensorF32 y
  let pr := (s.pair? (vFunc p)).getD (builtinPair 0)
  let r := (((s.tensorF32 x).zipIdx).mapM (fun ((row, i) : List F32 × Nat) => (row.zipIdx).mapM (fun (v, j) => do
    let d ← pr.eval true v
    mulF (rowAt ys i j) d))).run 0
  s.runVec c (x.reads ++ y.reads) (vOutTensor p).ranges (vecOutOf s c r)

/-- FUNC.DERIV (R237). -/
def execFuncDeriv (id : Nat) (s : State) : Out State :=
  .next (s.settle (if s.pairWait id (s.pairNamed id 39) then s else s.runCmd funcDerivInfo id effectFuncDeriv))

def funcLoadPairInfo : OpInfo where
  code := 0x4110
  used := [(32, 1), (40, 8)]
  reason := 0x27
  static := fun p => [bAlign (decide (field p 40 8 % 32 ≠ 0)) 40, bParam (decide (field p 32 1 < 8) || decide (15 < field p 32 1)) 0x27 32]
  dyn := fun s c => rangeBreach s c (c.f 40 8) 8256 40

/-- The digest that measurement slot 6 is extended with is kept by the caller of R536; here the image is checked and installed. -/
def effectFuncLoadPair (extend : State → List Byte → State) (s : State) (c : Ctx) : State × Option Result :=
  let a := c.f 40 8
  let rr := s.read a 8256
  let s1 := s.noteRead 0 a 8256
  match readStatus rr with
  | some r => (s1, some r)
  | none =>
    if !pairImageOk rr.data then (s1, some (badParam 0x27 40))
    else
      let s2 := { s1 with vec := { s1.vec with pairs := assocSet s1.vec.pairs (c.f 32 1) rr.data } }
      (extend s2 rr.data, some resOK)

def funcClearPairInfo : OpInfo where
  code := 0x4111
  used := [(32, 1)]
  static := fun p => [bParam (decide (field p 32 1 < 8) || decide (15 < field p 32 1)) 0 32]
  dyn := fun s c => [bBusy (s.plans.store.any (fun pl => pl.entries.any (fun e => namedPair e.pkt == some (c.f 32 1)))) 0]

def effectFuncClearPair (s : State) (c : Ctx) : State × Option Result :=
  ({ s with vec := { s.vec with pairs := s.vec.pairs.filter (fun e => e.1 != c.f 32 1) } }, some resOK)

/-- FUNC.CLEAR_PAIR (R212). -/
def execFuncClearPair (id : Nat) (s : State) : Out State :=
  .next (s.settle (if s.pairInUse (s.pairNamed id 32) || s.pairWait id (s.pairNamed id 32) then s else s.runCmd funcClearPairInfo id effectFuncClearPair))

def funcReadPairInfo : OpInfo where
  code := 0x4112
  used := [(32, 1), (40, 8)]
  reason := 0x25
  static := fun p => [bAlign (decide (field p 40 8 % 32 ≠ 0)) 40, bParam (decide (16 < field p 32 1)) 0x25 32]
  dyn := fun s c => rangeBreach s c (c.f 40 8) 8256 40
    ++ [bParam (decide (c.f 32 1 < 16) && (s.pair? (c.f 32 1)).isNone) 0x25 32]

def effectFuncReadPair (s : State) (c : Ctx) : State × Option Result :=
  let id := c.f 32 1
  let img := match s.vec.pairs.find? (fun e => e.1 == id) with
    | some e => e.2
    | none => imageOfPair (builtinPair id)
  let w := s.storeAt c 0 (c.f 40 8) img
  match writeStatus w.2 with
  | some r => (w.1, some r)
  | none => (w.1, some resOK)

/-- FUNC.READ_PAIR (R213). -/
def execFuncReadPair (id : Nat) (s : State) : Out State :=
  .next (s.settle (if s.pairWait id (s.pairNamed id 32) then s else s.runCmd funcReadPairInfo id effectFuncReadPair))

def vecRngSeedInfo : OpInfo where
  code := 0x4200
  used := [(40, 8)]

/-- The seed takes effect at the next step boundary, at once when no step runs (R219). -/
def effectVecRngSeed (s : State) (c : Ctx) : State × Option Result :=
  let v : W64 := BitVec.ofNat 64 (c.f 40 8)
  if s.stepRunning then ({ s with vec := { s.vec with pendingSeed := some v } }, some resOK)
  else ({ s with vec := { s.vec with seed := v, pendingSeed := none } }, some resOK)

/-- VEC.RNG_SEED (R219). -/
def execVecRngSeed (id : Nat) (s : State) : Out State := .next (s.settle (s.runCmd vecRngSeedInfo id effectVecRngSeed))

end Sys2Proof.Machine
end

