-- ==== Sys2Proof/Machine/Embed.lean ====
section
/-! DEFINITION. Embedding tables (R273 to R279), routing and tenure (R274, R305), the tracker (R298), and lookups with their serving (R280 to R286). -/
namespace Sys2Proof.Machine

/-! ### Tables and records -/

/-- A (R275): the bytes of the WEIGHTS area. -/
def ETable.weightBytes (t : ETable) : Nat := storedRowBytes t.dtype t.width

/-- M (R275): the bytes of the MOMENTS area. -/
def ETable.momentBytes (t : ETable) : Nat :=
  if t.rule = 0 ∨ t.rule = 2 then (if t.dtype = 0 then 4 * t.width else 2 * t.width) else 0

/-- Bytes of a row record (R275). -/
def ETable.recordBytes (t : ETable) : Nat := t.weightBytes + t.momentBytes + 16

/-- The table of an ID. -/
def State.etable? (s : State) (id : Nat) : Option ETable := s.embed.tables.find? (fun t => t.id == id)

/-- Bytes of an accumulator's entry in the merge area (R290). -/
def mergeEntryBytes (t : ETable) : Nat := 32 + roundUp (4 * t.width) 32

/-- The entries of the merge area in use: address and bytes. -/
def State.mergeEntries (s : State) : List (Nat × Nat) :=
  s.embed.accums.map (fun a => (a.addr, match s.etable? a.table with
    | some t => mergeEntryBytes t
    | none => 0))

/-- The table that a descriptor describes (R273), with a step counter. -/
def etableOf (bs : List Byte) (counter : W64) : ETable :=
  ⟨field bs 7 1, field bs 6 1, field bs 8 1, field bs 9 1, field bs 10 2, field bs 12 2, field bs 16 8, field bs 24 8, field bs 32 8, field bs 40 4, field bs 44 4, field bs 48 8, counter⟩

/-- The home rank of a row key, and its home slot there (R274). -/
def ETable.homeRank (t : ETable) (n key : Nat) : Nat :=
  match t.key with
  | 0 => key / 2 ^ 32
  | 1 => key % 2 ^ 40 % max n 1
  | _ => key % 2 ^ 40 / max t.blockRows 1
def ETable.homeSlot (t : ETable) (n key : Nat) : Nat :=
  match t.key with
  | 0 => key % 2 ^ 32
  | 1 => key % 2 ^ 40 / max n 1
  | _ => key % 2 ^ 40 % max t.blockRows 1

/-- The reason of INDEX_RANGE that a requester finds in a row key (R274). -/
def ETable.keyFault (t : ETable) (n key : Nat) : Option Nat :=
  match t.key with
  | 0 => if n ≤ key / 2 ^ 32 then some 0x0D else none
  | _ => if t.rows ≤ key % 2 ^ 40 then some 0x0C else none

/-- Home slots of a rank. -/
def ETable.homeRows (t : ETable) (n r : Nat) : Nat :=
  match t.key with
  | 0 => t.rows
  | 1 => (t.rows + (max n 1) - 1 - r) / max n 1
  | _ => min t.blockRows (t.rows - r * t.blockRows)

/-- Widths come in units of 8, 16 or 32 elements by DTYPE (R273). -/
def embedTableSetInfo : OpInfo where
  code := 0x6001
  used := [(32, 8)]
  static := fun p => [bAlign (decide (field p 32 8 % 64 ≠ 0)) 32]
  dyn := fun s c =>
    let a := c.f 32 8
    let rr := s.read a 64
    let t := etableOf rr.data 0
    let n := s.jobN
    let own := t.homeRows n s.rank
    bParam s.graph.job.isNone 0x73 0 :: rangeBreach s c a 64 32 ++
    (if (s.rangeReason a 64).isSome || !rr.good then [] else
      [ bAlign (decide (t.base % 32 ≠ 0) || decide (t.stride % 32 ≠ 0) || decide (t.guestBase % 32 ≠ 0)) 32,
        bParam (decide (field rr.data 0 4 ≠ 0x4C42454D) || decide (field rr.data 4 2 ≠ 1) || decide (2 < t.dtype) || decide (2 < t.key) || decide (3 < t.rule)) 0 32,
        bParam (decide (t.width < 16) || decide (1024 < t.width) || decide (t.width % widthUnit t.dtype ≠ 0)) 0 32,
        bParam (decide (4095 < t.layerTag) || decide (t.rows = 0) || decide ((if t.key = 0 then 2 ^ 32 - 1 else 2 ^ 40) < t.rows)) 0 32,
        bParam (if t.key = 2 then decide (t.blockRows * n < t.rows) else decide (t.blockRows ≠ 0)) 0 32,
        bParam (decide (t.stride < t.recordBytes)) 0 32,
        bParam (decide (t.dtype = 2) && (decide (t.rule = 0) || decide (t.rule = 2))) 0 32,
        bParam (decide (2 ^ 20 < t.guestRows) || (decide (t.guestRows = 0) && decide (t.guestBase ≠ 0))) 0 32,
        bBusy (s.etable? t.id).isSome 0 ]
      ++ (if own = 0 then [] else rangeBreach s c t.base ((own - 1) * t.stride + t.recordBytes) 32)
      ++ (if t.guestRows = 0 then [] else rangeBreach s c t.guestBase ((t.guestRows - 1) * t.stride + t.recordBytes) 32))

def effectEmbedTableSet (s : State) (c : Ctx) : State × Option Result :=
  let a := c.f 32 8
  let rr := s.read a 64
  let s1 := s.noteRead 2 a 64
  match readStatus rr with
  | some r => (s1, some r)
  | none => ({ s1 with embed := { s1.embed with tables := s1.embed.tables ++ [etableOf rr.data s1.plans.stepNo] } }, some resOK)

/-- EMBED.TABLE_SET (R277). -/
def execEmbedTableSet (id : Nat) (s : State) : Out State := .next (s.settle (s.runCmd embedTableSetInfo id effectEmbedTableSet))

/-- A packet names an embedding table: the EMBED commands, and a scatter to embedding rows. -/
def namesTable (t : Nat) (p : List Byte) : Bool :=
  let op := opcodeOf p
  ((decide (op = 0x6010) || decide (op = 0x6011) || decide (op = 0x6020)) && decide (field p 32 1 = t))
    || (decide (op = 0x2130) && decide (field p 32 1 = 2) && decide (field p 38 1 = t))

def embedTableClearInfo : OpInfo where
  code := 0x6002
  used := [(32, 1)]
  dyn := fun s c => [bBusy (s.planNames (namesTable (c.f 32 1))) 0]

def effectEmbedTableClear (s : State) (c : Ctx) : State × Option Result :=
  let t := c.f 32 1
  let e := s.embed
  let e1 : Embed := { e with
    tables := e.tables.filter (fun x => x.id != t)
    accums := e.accums.filter (fun x => x.table != t)
    replicas := e.replicas.filter (fun x => x.table != t)
    reloc := e.reloc.filter (fun x => x.table != t)
    pendingReloc := e.pendingReloc.filter (fun x => x.table != t)
    forwards := e.forwards.filter (fun x => x.table != t)
    guests := e.guests.filter (fun x => x.table != t) }
  let e2 : Embed := { e1 with
    lookupLogs := e.lookupLogs.filter (fun x => x.table != t)
    serveLogs := e.serveLogs.filter (fun x => x.table != t)
    subs := e.subs.filter (fun x => x.1 != t)
    asked := e.asked.filter (fun x => x.1 != t)
    refused := e.refused.filter (fun x => x.1 != t)
    migrated := e.migrated.filter (fun x => x.1 != t)
    migrating := e.migrating.filter (fun x => x.1 != t)
    notices := e.notices.filter (fun x => x.table != t)
    top := e.top.filter (fun x => x.table != t) }
  let s1 := { s with embed := e2 }
  ({ s1 with mem := s1.mem.unpin s1.mergeEntries }, some resOK)

/-- EMBED.TABLE_CLEAR (R277). -/
def execEmbedTableClear (id : Nat) (s : State) : Out State := .next (s.settle (s.runCmd embedTableClearInfo id effectEmbedTableClear))

/-! ### Routing and tenure -/

/-- The relocation entry of a row. -/
def State.relocOf (s : State) (t key : Nat) : Option Relocation := s.embed.reloc.find? (fun r => r.table == t && r.key == key)

/-- The forwarding entry of a row that has left (R304). -/
def State.forwardOf (s : State) (t key : Nat) : Option Forward := s.embed.forwards.find? (fun f => f.table == t && f.key == key)

/-- The owner of a row as this chip routes it: its relocation entry, or the home rank (R274). -/
def State.rowOwner (s : State) (t : ETable) (key : Nat) : Nat := ((s.relocOf t.id key).map (·.owner)).getD (t.homeRank s.jobN key)

/-- The tenure that a request for a row carries: that of the relocation entry, or 0 (R282). -/
def State.rowTenure (s : State) (t key : Nat) : Nat := ((s.relocOf t key).map (·.tenure)).getD 0

/-- The guest slot of a row. -/
def State.guestOf (s : State) (t key : Nat) : Option Guest := s.embed.guests.find? (fun g => g.table == t && g.key == key)

/-- A relocation of the row to this chip has not been applied yet: its notice is to be sent, or waits for the boundary. -/
def State.freshlyOwned (s : State) (t key : Nat) : Bool :=
  (s.embed.notices ++ s.embed.pendingReloc).any (fun r => r.table == t && r.key == key && r.owner == s.rank)

/-- The address of the record of a row that this chip owns: its guest slot, or its home slot when the row has not left. -/
def State.rowAddr (s : State) (t : ETable) (key : Nat) : Option Nat :=
  match s.guestOf t.id key with
  | some g => some (t.guestBase + g.slot * t.stride)
  | none =>
    if t.homeRank s.jobN key = s.rank ∧ (s.forwardOf t.id key).isNone ∧ ((s.relocOf t.id key).isNone ∨ s.freshlyOwned t.id key)
    then some (t.base + t.homeSlot s.jobN key * t.stride) else none

/-- The tenure in a record's ROW_STATE (R275). -/
def State.heldTenure (s : State) (t : ETable) (a : Nat) : Nat := field (s.read (a + t.weightBytes + t.momentBytes + 8) 2).data 0 2

/-- The next tenure (R304), and the tenure before a migration to a given one. -/
def nextTenure (n : Nat) : Nat := if n = 65535 then 1 else n + 1
def tenureBefore (n : Nat) : Nat := if n = 1 then 65535 else n - 1

/-- Where a chip sends what it asks of a row or contributes to it: the owner that its relocation table gives, the chip that the record goes to, and the tenure it carries. The two chips differ only where this
chip is itself the old owner of a row that has left: it forwards its own access as it would any other (R304, R305, R306). -/
structure Route where
  owner : Nat
  dest : Nat
  tenure : Nat
  deriving DecidableEq, Repr, Inhabited

/-- The route of a row (R274, R305). -/
def State.route (s : State) (t : ETable) (key : Nat) : Route :=
  let o := s.rowOwner t key
  let plain : Route := ⟨o, o, s.rowTenure t.id key⟩
  if o ≠ s.rank ∨ (s.rowAddr t key).isSome then plain
  else match s.forwardOf t.id key with
    | some f => ⟨o, f.owner, f.tenure⟩
    | none => plain

/-- How a chip judges a request or contribution for a row (R305, R274). -/
inductive Verdict where
  | serve (addr : Nat)
  | forward (owner tenure : Nat)
  | fail (f : ItemFail)
  deriving DecidableEq, Repr, Inhabited

/-- The judgement of a row key and tenure. -/
def State.judge (s : State) (t : ETable) (key tenure : Nat) : Verdict :=
  let home := decide (t.homeRank s.jobN key = s.rank)
  if home && decide (t.homeRows s.jobN s.rank ≤ t.homeSlot s.jobN key) then .fail ⟨stIndexRange, 0x0C⟩
  else match s.rowAddr t key with
    | some a => if tenure = s.heldTenure t a ∨ (tenure = 0 ∧ home) then .serve a else .fail ⟨stTenureStale, 0⟩
    | none => match s.forwardOf t.id key with
      | some f => if (tenure ≠ 0 ∧ tenure = tenureBefore f.tenure) ∨ (tenure = 0 ∧ home) then .forward f.owner f.tenure else .fail ⟨stTenureStale, 0⟩
      | none => .fail ⟨stTenureStale, 0⟩

/-! ### The tracker -/

/-- The counter of a row in row r of the sketch. -/
def sketchKey (r t key : Nat) : Nat × Nat := (r, Config.sketchColumn r t key % 16384)

/-- A row's count: the least of its four counters. -/
def Embed.countOf (e : Embed) (t key : Nat) : Nat :=
  ((List.range 4).map (fun r => assocGet e.sketch (sketchKey r t key) 0)).foldl min (assocGet e.sketch (sketchKey 0 t key) 0)

/-- The entry of a listed row after a record from a source (R298). -/
def TopRow.hit (x : TopRow) (src count : Nat) : TopRow :=
  if x.source = src then { x with count := count, majority := x.majority + 1 }
  else if x.majority = 0 then { x with count := count, source := src, majority := 1 }
  else { x with count := count, majority := x.majority - 1 }

/-- A record counts in the tracker (R298): in each row of the sketch, and in the list when the row is listed, the list has room, or the row's count exceeds the least listed count. -/
def Embed.track (e : Embed) (t key src : Nat) : Embed :=
  let e := { e with sketch := (List.range 4).foldl (fun k r => assocSet k (sketchKey r t key) (assocGet k (sketchKey r t key) 0 + 1)) e.sketch }
  let n := e.countOf t key
  if e.top.any (fun x => x.table == t && x.key == key) then
    { e with top := mapWhere (fun x => x.table == t && x.key == key) (fun x => x.hit src n) e.top }
  else if e.top.length < 4096 then { e with top := e.top ++ [⟨t, key, n, src, 1⟩] }
  else
    let least := e.top.foldl (fun m x => min m x.count) n
    if least < n then
      let i := e.top.findIdx (fun x => x.count == least)
      { e with top := e.top.set i ⟨t, key, n, src, 1⟩ }
    else e

/-- Several rows of a table counted. -/
def State.trackRows (s : State) (t : Nat) (keys : List Nat) (src : Nat) : State :=
  { s with embed := keys.foldl (fun e k => e.track t k src) s.embed }

/-- Every count loses a sixteenth (R298). -/
def Embed.decay (e : Embed) : Embed :=
  let d (c : Nat) : Nat := c - c / 16
  { e with
    sketch := e.sketch.map (fun (k, c) => (k, d c))
    top := e.top.map (fun x => { x with count := d x.count, majority := d x.majority }) }

/-! ### Rows and portions -/

/-- The FP32 weights of a stored row. -/
def ETable.weights (t : ETable) (bs : List Byte) : List F32 := rowF32 t.dtype t.width bs

/-- One row's term: weighted under POOL 3 (R284). -/
def lookupTerm (pool : Nat) (w : F32) (xs : List F32) : FpM (List F32) := if pool = 3 then xs.mapM (fun x => mulF w x) else pure xs

/-- The partial of a portion: the pairwise sum of its terms in entry order, or their maximum with the local winner of each element (R284, R286). -/
def lookupPartial (pool width : Nat) (ws : List F32) (rows : List (List F32)) : FpM (List F32 × List Nat) := do
  if pool = 4 then do
    let r ← (List.range width).mapM (fun j => maxWinner (rows.map (fun x => x.getD j 0)))
    pure (r.map (·.1), r.map (·.2))
  else do
    let ts ← (ws.zip rows).mapM (fun (x : F32 × List F32) => lookupTerm pool x.1 x.2)
    let t ← pairRows width ts
    pure (t, [])

/-- Bytes that a portion takes in a log (R286). -/
def logCost (t : ETable) (pool rows : Nat) : Nat := 16 * rows + (if pool = 4 then 2 * t.width else 0)

/-- Bytes of the serve-log area in use: the portions that this chip has served, and the portions of its lookups of this step, those still under way among them. -/
def State.logUsed (s : State) : Nat :=
  let cost (table pool rows : Nat) : Nat := match s.etable? table with
    | some t => logCost t pool rows
    | none => 0
  (s.embed.serveLogs.filter (·.moved.isNone)).foldl (fun n l => n + cost l.table l.pool l.keys.length) 0
    + s.embed.lookupLogs.foldl (fun n l => n + (l.portions.filter (·.fail.isNone)).foldl (fun n q => n + cost l.table l.pool q.keys.length) 0) 0

/-- The log area has room for more bytes. -/
def State.logRoom (s : State) (n : Nat) : Bool := decide (s.logUsed + n ≤ s.embed.policy.serveLogSize)

/-! ### EMBED.LOOKUP -/

/-- The fields of R280. -/
def lkTable (p : List Byte) : Nat := field p 32 1
def lkPool (p : List Byte) : Nat := field p 33 1
def lkOut (p : List Byte) : Nat := field p 56 8
def lkOutDtype (p : List Byte) : Nat := field p 34 1
def lkId (p : List Byte) : Nat := field p 35 1
def lkBags (p : List Byte) : Nat := field p 36 4
def lkOffsets (p : List Byte) : Nat := field p 40 8
def lkEntries (p : List Byte) : Nat := field p 48 8
def lkOutSize (p : List Byte) : Nat := field p 64 8
def lkSave (p : List Byte) : Nat := field p 72 8

/-- OFFSETS as read. -/
def State.lkOffsetList (s : State) (p : List Byte) : List Nat := (chunks 4 (s.read (lkOffsets p) (4 * (lkBags p + 1))).data).map leNat

/-- Offsets that fall, or a bag of more than 1,024 entries (R280). -/
def offsetsBad (os : List Nat) : Bool := (os.zip os.tail).any (fun (a, b) => decide (b < a) || decide (a + 1024 < b))

/-- Output rows: one per entry under POOL 0, one per bag otherwise; the bytes of one. -/
def State.lkRows (s : State) (p : List Byte) : Nat :=
  let os := s.lkOffsetList p
  if lkPool p = 0 then os.getLast?.getD 0 - os.headD 0 else lkBags p
def lkRowBytes (t : ETable) (p : List Byte) : Nat := if lkOutDtype p = 1 then 4 * t.width else t.weightBytes

/-- The ranges that hold the entries, the output, the winners. -/
def State.lkEntryRange (s : State) (p : List Byte) : Nat × Nat :=
  let os := s.lkOffsetList p
  (lkEntries p + 16 * os.headD 0, 16 * (os.getLast?.getD 0 - os.headD 0))
def State.lkOutRange (s : State) (t : ETable) (p : List Byte) : Nat × Nat := (lkOut p, s.lkRows p * roundUp (lkRowBytes t p) 32)
def lkSaveRange (t : ETable) (p : List Byte) : Nat × Nat := (lkSave p, 4 * t.width * lkBags p)

def embedLookupInfo : OpInfo where
  code := 0x6010
  len := some 32
  used := [(32, 48)]
  static := fun p =>
    [ bAlign (decide (lkOut p % 32 ≠ 0)) 56,
      bParam (decide (4 < lkPool p)) 0 33,
      bParam (decide (1 < lkOutDtype p) || (decide (lkPool p ≠ 0) && decide (lkOutDtype p ≠ 1))) 0 34,
      bParam (decide (lkBags p = 0) || decide (2 ^ 24 < lkBags p)) 0 36,
      bParam (decide (lkPool p ≠ 4) && decide (lkSave p ≠ 0)) 0 72 ]
  dyn := fun s c =>
    let p := c.pkt
    let n := 4 * (lkBags p + 1)
    let ok := (s.rangeReason (lkOffsets p) n).isNone && (s.read (lkOffsets p) n).good
    let bad := ok && offsetsBad (s.lkOffsetList p)
    jobBreach s ++ [bParam (s.etable? (lkTable p)).isNone 0 32,
        bParam (s.embed.lookupLogs.any (fun l => l.table == lkTable p && l.lookup == lkId p)) 0 35, bIndex bad 0x0E 40]
      ++ rangeBreach s c (lkOffsets p) n 40
      ++ (match s.etable? (lkTable p) with
        | none => []
        | some t =>
          (if ok && !bad then
            (let er := s.lkEntryRange p
             if er.2 = 0 then [] else rangeBreach s c er.1 er.2 48) ++ [bResource (decide (lkOutSize p < (s.lkOutRange t p).2)) 0]
           else [])
          ++ (if lkPool p = 4 then rangeBreach s c (lkSaveRange t p).1 (lkSaveRange t p).2 72 else []))
      ++ rangeBreach s c (lkOut p) (lkOutSize p) 56

/-- A bag as the list words give it: its entries, each a row key and a weight, and the failures of the words that cannot be read (R280, R583). -/
structure Bag where
  entries : List (Nat × F32)
  fails : List ItemFail
  deriving DecidableEq, Repr, Inhabited

/-- The entries of bag b, from entry x to entry y − 1. -/
def State.bagEntries (s : State) (p : List Byte) (x y : Nat) : Bag :=
  let at1 (k : Nat) : Nat := lkEntries p + 16 * k
  let ks := (List.range (y - x)).map (· + x)
  ⟨(ks.filter (fun k => (s.failOf [(at1 k, 16)]).isNone)).map (fun k =>
      let bs := (s.read (at1 k) 16).data
      (field bs 0 6, BitVec.ofNat 32 (field bs 8 4))),
    ks.filterMap (fun k => s.failOf [(at1 k, 16)])⟩

/-- The bags of a lookup: a bag whose offsets cannot be read, fall or are too far apart has a failure and no entry (R280, R583). -/
def State.lkBagList (s : State) (p : List Byte) : List Bag :=
  let os := s.lkOffsetList p
  ((os.zip os.tail).zipIdx).map (fun (x, i) => match s.failOf [(lkOffsets p + 4 * i, 8)] with
    | some f => ⟨[], [f]⟩
    | none => if offsetsBad [x.1, x.2] then ⟨[], [⟨stIndexRange, 0x0E⟩]⟩ else s.bagEntries p x.1 x.2)

/-- The reads of the lists: OFFSETS, and ENTRIES where the offsets are good. -/
def State.lkListReads (s : State) (p : List Byte) : List (Nat × Nat) :=
  let offs := (lkOffsets p, 4 * (lkBags p + 1))
  let ok := (s.failOf [offs]).isNone && !offsetsBad (s.lkOffsetList p)
  if ok then [offs, s.lkEntryRange p] else [offs]

/-- Every row of a portion has a replica on this chip (R281). -/
def State.replicated (s : State) (t : Nat) (keys : List Nat) : Bool := keys.all (fun k => s.embed.replicas.any (fun r => r.table == t && r.key == k))

/-- One portion of a bag: entries of one owner, asked of one chip. -/
def State.lookupPortion (s : State) (t : ETable) (id bag owner dest : Nat) (es : List (Nat × F32)) : Portion :=
  let keys := es.map (·.1)
  let rep := decide (dest ≠ s.rank) && s.replicated t.id keys
  ⟨bag, owner, dest, id * 2 ^ 24 + bag, keys, es.map (·.2), decide (dest = s.rank) || rep, rep, none, none, [], none⟩

/-- The portions of a bag: by owner in ascending rank; under POOL 0 each entry by itself. Words that cannot be read and keys out of range have one failed portion each (R274, R583). -/
def State.bagPortions (s : State) (t : ETable) (pool id bag : Nat) (b : Bag) : List Portion :=
  let bad := b.entries.filterMap (fun e => t.keyFault s.jobN e.1)
  let good := b.entries.filter (fun e => (t.keyFault s.jobN e.1).isNone)
  let fails := (b.fails ++ bad.map (fun r => (⟨stIndexRange, r⟩ : ItemFail))).flatMap (fun f => listPortion s.rank bag (some f))
  if pool = 0 then fails ++ good.map (fun e => let r := s.route t e.1
    s.lookupPortion t id bag r.owner r.dest [e])
  else
    let routes := sortBy (fun (a b : Nat × Nat) => decide (a.1 < b.1 ∨ (a.1 = b.1 ∧ a.2 ≤ b.2))) ((good.map (fun e => ((s.route t e.1).owner, (s.route t e.1).dest))).dedup)
    fails ++ routes.map (fun o => s.lookupPortion t id bag o.1 o.2 (good.filter (fun e => ((s.route t e.1).owner, (s.route t e.1).dest) == o)))

/-- A portion that this chip serves from its own rows, as their owner. -/
def Portion.fromOwn (q : Portion) : Bool := q.isLocal && !q.viaReplica

/-- The portions that find room in the serve-log area, in order: each takes its place in the lookup log, and one served from this chip's own rows in the serve log too; the others end NO_RESOURCE (R286). -/
def chargePortions (t : ETable) (pool : Nat) : Nat → List Portion → List Portion
  | _, [] => []
  | room, q :: qs =>
    if q.fail.isSome then q :: chargePortions t pool room qs
    else
      let n := (if q.fromOwn then 2 else 1) * logCost t pool q.keys.length
      if n ≤ room then q :: chargePortions t pool (room - n) qs
      else { q with fail := some ⟨stNoResource, 0⟩ } :: chargePortions t pool room qs

/-- The WEIGHTS of a local row, with the read made: of this chip's own record, or of its replica. -/
def State.localRow (s : State) (t : ETable) (viaReplica : Bool) (key : Nat) : ItemFail ⊕ (List Byte × List (Nat × Nat)) :=
  if viaReplica then
    match s.embed.replicas.find? (fun r => r.table == t.id && r.key == key) with
    | some r => .inr (r.weights, [])
    | none => .inl ⟨stTenureStale, 0⟩
  else if t.homeRank s.jobN key = s.rank ∧ t.homeRows s.jobN s.rank ≤ t.homeSlot s.jobN key then .inl ⟨stIndexRange, 0x0C⟩
  else match s.rowAddr t key with
    | none => .inl ⟨stTenureStale, 0⟩
    | some a =>
      let r := s.read a t.weightBytes
      match readStatus r with
      | some x => .inl ⟨x.status, 0⟩
      | none => .inr (r.data, [(a, t.weightBytes)])

/-- Rows gathered, or the first failure by R583. -/
def gatherRows (xs : List (ItemFail ⊕ (List Byte × List (Nat × Nat)))) : ItemFail ⊕ List (List Byte) :=
  match itemFail (xs.filterMap (fun x => match x with
    | .inl f => some f
    | .inr _ => none)) with
  | some f => .inl f
  | none => .inr (xs.filterMap (fun x => match x with
    | .inl _ => none
    | .inr r => some r.1))

/-- The reads that succeeded. -/
def rowReadsOf (xs : List (ItemFail ⊕ (List Byte × List (Nat × Nat)))) : List (Nat × Nat) :=
  xs.flatMap (fun x => match x with
    | .inl _ => []
    | .inr r => r.2)

/-- A local portion served: the portion, its reads, its non-finite results (R281, R284). -/
def State.serveLookup (s : State) (t : ETable) (pool : Nat) (q : Portion) : Portion × List (Nat × Nat) × Nat :=
  if q.done || !q.isLocal then (q, [], 0) else
  let xs := q.keys.map (s.localRow t q.viaReplica)
  match gatherRows xs with
  | .inl f => ({ q with fail := some f }, rowReadsOf xs, 0)
  | .inr rows =>
    if pool = 0 then ({ q with stored := some (rows.headD []) }, rowReadsOf xs, 0)
    else
      let r := (lookupPartial pool t.width q.weights (rows.map t.weights)).run 0
      ({ q with partRow := some r.1.1, winners := r.1.2 }, rowReadsOf xs, r.2)

/-- The records of a portion's request (R282). -/
def State.lookupRecords (s : State) (t : ETable) (pool : Nat) (q : Portion) : List LookupReq :=
  let via := if q.owner = q.server then none else some q.owner
  ((q.keys.zip q.weights).zipIdx).map (fun ((k, w), i) => ⟨k, t.id, decide (i + 1 = q.keys.length), (s.route t k).tenure, pool, s.step32, w, q.tag, via, false⟩)

/-- Lookup requests enter the open batch to their owner, a portion whole; the batch is sent when it holds 32 or more (R94, R282). -/
def State.batchLookup (s : State) (owner : Nat) (recs : List LookupReq) : State :=
  let held := s.out.batches.findSome? (fun b => match b with
    | .lookup o rs => if o = owner then some rs else none
    | _ => none)
  let rest := s.out.batches.filter (fun b => match b with
    | .lookup o _ => o != owner
    | _ => true)
  let rs := held.getD [] ++ recs
  if 32 ≤ rs.length then ({ s with out := { s.out with batches := rest } }).send (.lookup owner rs)
  else { s with out := { s.out with batches := rest ++ [.lookup owner rs] } }

/-- The portions that need an owner are requested, in order, and each record sent counts in the tracker. -/
def State.askLookups (s : State) (t : ETable) (pool : Nat) (qs : List Portion) : State :=
  qs.foldl (fun s q => if q.done then s else (s.batchLookup q.server (s.lookupRecords t pool q)).trackRows t.id q.keys s.rank) s

/-- The pooled row of a bag from its portions in ascending owner rank, and the index of the portion that won each element (R284). -/
def combineBag (pool width count : Nat) (parts : List (List F32)) : FpM (List F32 × List Nat) := do
  match parts with
  | [] => pure (List.replicate width 0, [])
  | a :: rest =>
    if pool = 4 then do
      let r ← (List.range width).mapM (fun j => maxWinner (parts.map (fun x => x.getD j 0)))
      pure (r.map (·.1), r.map (·.2))
    else do
      let t ← rest.foldlM (fun (acc : List F32) (r : List F32) => (acc.zip r).mapM (fun (x : F32 × F32) => addF x.1 x.2)) a
      let m ← (if pool = 2 then t.mapM (fun x => divF x (f32OfNat count)) else pure t)
      pure (m, [])

/-- The portions of an item in ascending rank of the owners that served them. -/
def Gather.ofItem (g : Gather) (i : Nat) : List Portion := sortBy (fun a b => decide (a.server ≤ b.server)) (g.portions.filter (fun q => q.item == i))

/-- One bag combined: its row, the winning rank of each element, and its portions with the winners that the backward needs: 0xFFFFFFFF in elements that the portion did not win. -/
def Gather.bag (g : Gather) (pool width i : Nat) : FpM (List F32 × List Nat × List Portion) := do
  let qs := g.ofItem i
  let r ← combineBag pool width (nth g.children i 1) (qs.filterMap (·.partRow))
  let won := (qs.zipIdx).map (fun (q, k) =>
    if pool = 4 then { q with winners := (r.2.zipIdx).map (fun (w, j) => if w = k then q.winners.getD j 0 else 0xFFFFFFFF), partRow := none, stored := none }
    else { q with partRow := none, stored := none })
  let ranks := if qs.isEmpty then List.replicate width 0xFFFFFFFF else r.2.map (fun w => (qs.getD w default).server)
  pure (r.1, ranks, won)

/-- The output ranges of a lookup: its rows, or the whole room for them where the offsets cannot be read, and its winners (R489). -/
def State.lkPoisonOuts (s : State) (t : ETable) (p : List Byte) : List (Nat × Nat) :=
  (if (s.lkListReads p).length = 2 then s.lkOutRange t p else (lkOut p, lkOutSize p)) :: (if lkPool p = 4 then [lkSaveRange t p] else [])

/-- The log of a lookup once it has ended without a failure: its portions as answered, without their rows (R286). -/
def State.closeLookup (s : State) (table lookup : Nat) (ps : List Portion) : State :=
  { s with embed := { s.embed with lookupLogs := mapWhere (fun l => l.table == table && l.lookup == lookup) (fun l => { l with portions := ps, whole := true }) s.embed.lookupLogs } }

/-- A lookup whose portions are all answered writes its output, its winners and its log, and ends; with a failure its outputs are poisoned (R284, R286, R583). -/
def State.finishLookup (s : State) (id : Nat) : State :=
  match s.runningCtx id, s.graph.gathers.find? (fun g => g.cmd == id) with
  | some c, some g =>
    if !g.portions.all Portion.done then s else
    let p := c.pkt
    let s1 := { s with graph := { s.graph with gathers := s.graph.gathers.filter (fun k => k.cmd != id) } }
    let r := itemsResult g.poisoned g.fails
    match s.etable? (lkTable p) with
    | none => s1.endCmd id (badParam 0 32)
    | some t =>
      let pitch := roundUp (lkRowBytes t p) 32
      let outs := s.lkPoisonOuts t p
      if r.failed then (s1.poisonRanges 1 outs).endCmd id r
      else if lkPool p = 0 then
        let rows := g.portions.map (fun q => let bs := q.stored.getD []
          if lkOutDtype p = 1 then f32Bytes (t.weights bs) else bs)
        let w := (s1.closeLookup t.id (lkId p) (g.portions.map (fun q => { q with stored := none }))).storeAll 1 ((rows.zipIdx).map (fun (bs, i) => (lkOut p + i * pitch, bs)))
        w.1.endCmd id ((writeStatus w.2).getD r)
      else
        let bs := ((List.range g.items).mapM (fun i => g.bag (lkPool p) t.width i)).run 0
        let rows := (bs.1.zipIdx).map (fun (x, i) => (lkOut p + i * pitch, f32Bytes x.1))
        let save : List (Nat × List Byte) := if lkPool p = 4 then (bs.1.zipIdx).map (fun (x, i) => (lkSave p + 4 * t.width * i, x.2.1.flatMap (toLE 4))) else []
        let w := ((s1.closeLookup t.id (lkId p) (bs.1.flatMap (·.2.2))).countNonfinite bs.2).storeAll 1 (rows ++ save)
        w.1.endCmd id ((writeStatus w.2).getD r)
  | _, _ => s

/-- The serve-log entries of the portions that this chip served from its own rows (R286). -/
def State.ownServeLogs (s : State) (t : ETable) (pool : Nat) (qs : List Portion) : List ServeLog :=
  (qs.filter (fun q => q.fromOwn && !q.fail.isSome)).map (fun q => ⟨s.rank, t.id, q.tag, pool, q.keys, q.weights, q.winners, q.keys.map (s.rowTenure t.id), none⟩)

/-- A lookup begins: its local portions are served, the others are requested, and it is logged. A poisoned word of OFFSETS or ENTRIES is an input poisoned as a whole; an uncorrectable one is the failure of the bags
that need it (R281, R286, R583). -/
def effectEmbedLookup (s : State) (c : Ctx) : State × Option Result :=
  let p := c.pkt
  match s.etable? (lkTable p) with
  | none => (s, some (badParam 0 32))
  | some t =>
    let pool := lkPool p
    let bags := s.lkBagList p
    let qs := chargePortions t pool (s.embed.policy.serveLogSize - s.logUsed) ((bags.zipIdx).flatMap (fun (b, i) => s.bagPortions t pool (lkId p) i b))
    let served := qs.map (s.serveLookup t pool)
    let fin := served.map (·.1)
    let counts := bags.map (fun b => b.entries.length + b.fails.length)
    let s1 := (s.noteReads 1 (s.lkListReads p ++ served.flatMap (·.2.1))).countNonfinite (served.foldl (fun n r => n + r.2.2) 0)
    let own := (fin.filter (fun q => q.fromOwn && !q.fail.isSome)).flatMap (·.keys)
    let e := s1.embed
    let s2 := { s1 with embed := { e with
      lookupLogs := e.lookupLogs ++ [(⟨t.id, lkId p, pool, lkBags p, counts, fin, false⟩ : LookupLog)]
      serveLogs := e.serveLogs ++ s.ownServeLogs t pool fin } }
    let s3 := (s2.trackRows t.id own s.rank).askLookups t pool fin
    let g : Gather := ⟨c.id, bags.length, counts, !(s.readAll (s.lkListReads p)).poisoned.isEmpty, fin⟩
    (({ s3 with graph := { s3.graph with gathers := s3.graph.gathers ++ [g] } }).finishLookup c.id, none)

/-- EMBED.LOOKUP (R281). -/
def execEmbedLookup (id : Nat) (s : State) : Out State := .next (s.settle (s.runCmd embedLookupInfo id effectEmbedLookup))

/-! ### Serving lookups -/

/-- Records grouped into portions by LAST (R282). -/
def lookupGroups : List LookupReq → List (List LookupReq)
  | [] => []
  | r :: rs =>
    match lookupGroups rs with
    | g :: gs => if r.last then [r] :: g :: gs else (r :: g) :: gs
    | [] => [[r]]

/-- An answer without a row. -/
def lookupFail (s : State) (g : List LookupReq) (f : ItemFail) : LookupResp := ⟨(g.headD default).tag, g.length, f.status, f.reason, false, (g.headD default).via, s.rank, 0, []⟩

/-- The answer of an owner to a portion it serves, with the serve-log entry (R283, R286): the stored row of a portion of one row, unless it is part of a larger one, and one FP32 row otherwise. addrs are the rows'
records, tenures those that the whole portion carried. TENURE of the answer is that of its first row (DESIGN CHOICE, log entry 112). -/
def State.answerLookup (s : State) (src : Nat) (t : ETable) (g : List LookupReq) (part : Bool) (tenures addrs : List Nat) : LookupResp × Option ServeLog × Nat :=
  let r := g.headD default
  let rr := s.readAll (addrs.map (fun a => (a, t.weightBytes)))
  let keys := g.map (·.key)
  let log (winners : List Nat) : ServeLog := ⟨src, t.id, r.tag, r.pool, keys, g.map (·.weight), winners, tenures, none⟩
  match readStatus rr with
  | some x => (lookupFail s g ⟨x.status, 0⟩, none, 0)
  | none =>
    if !s.logRoom (logCost t r.pool g.length) then (lookupFail s g ⟨stNoResource, 0⟩, none, 0)
    else
      let tenure := s.heldTenure t (addrs.headD 0)
      if addrs.length = 1 && !part then
        (⟨r.tag, 1, stOK, 0, true, r.via, s.rank, tenure, padTo (roundUp t.weightBytes 32) rr.data⟩, some (log (List.replicate (if r.pool = 4 then t.width else 0) 0)), 0)
      else
        let rows := addrs.map (fun a => t.weights (s.read a t.weightBytes).data)
        let x := (lookupPartial r.pool t.width (g.map (·.weight)) rows).run 0
        (⟨r.tag, g.length, stOK, 0, false, r.via, s.rank, tenure, f32Bytes x.1.1⟩, some (log x.1.2), x.2)

/-- What an owner makes of a portion (R305): its failure; or the records it serves with the addresses of their rows, and the records that it forwards, by new owner in ascending rank, with the tenure there. -/
def portionVerdict (vs : List (Verdict × LookupReq)) : ItemFail ⊕ (List (LookupReq × Nat) × List (Nat × List (LookupReq × Nat))) :=
  let fails := vs.filterMap (fun v => match v.1 with
    | .fail f => some f
    | _ => none)
  let here := vs.filterMap (fun v => match v.1 with
    | .serve a => some (v.2, a)
    | _ => none)
  let away := vs.filterMap (fun v => match v.1 with
    | .forward o ten => some (o, v.2, ten)
    | _ => none)
  match itemFail fails with
  | some f => .inl f
  | none => .inr (here, (sortBy (fun a b => decide (a ≤ b)) ((away.map (·.1)).dedup)).map (fun o => (o, (away.filter (fun x => x.1 == o)).map (·.2))))

/-- The records of a portion, or of a part of one, as an old owner forwards them: with the tenure at their new owner, LAST on the final one, and its own rank as the chip that forwarded them (R305). -/
def forwardedRecords (rank : Nat) (part : Bool) (xs : List (LookupReq × Nat)) : List LookupReq :=
  (xs.zipIdx).map (fun (x, i) => { x.1 with tenure := x.2, last := decide (i + 1 = xs.length), via := some (x.1.via.getD rank), part := x.1.part || part })

/-- One part of a portion forwarded to a new owner. The old owner keeps note of it, so that the contributions of the backward pass find their way (R305). -/
def State.forwardLookup (src : Nat) (part : Bool) (tenures : List Nat) (s : State) (f : Nat × List (LookupReq × Nat)) : State :=
  let recs := forwardedRecords s.rank part f.2
  let r := recs.headD default
  let note : ServeLog := ⟨src, r.table, r.tag, r.pool, recs.map (·.key), recs.map (·.weight), [], tenures, some (f.1, r.tenure)⟩
  ({ s with embed := { s.embed with serveLogs := s.embed.serveLogs ++ [note] } }).send (.forwardedLookup f.1 src recs)

/-- The records of a portion that this owner serves, answered (R283). -/
def State.serveRecords (s : State) (src : Nat) (t : ETable) (part : Bool) (tenures : List Nat) (xs : List (LookupReq × Nat)) : State :=
  let addrs := xs.map (·.2)
  let a := s.answerLookup src t (xs.map (·.1)) part tenures addrs
  let s1 := (s.noteReads 1 (addrs.map (fun a => (a, t.weightBytes)))).countNonfinite a.2.2
  let s2 := match a.2.1 with
    | some l => ({ s1 with embed := { s1.embed with serveLogs := s1.embed.serveLogs ++ [l] } }).trackRows t.id l.keys src
    | none => s1
  s2.send (.lookupAnswer src a.1)

/-- A portion that an owner takes: held for its next step, refused, or served and forwarded, each part by the chip that owns its rows (R96, R283, R305; the division DESIGN CHOICE, log entry 110). -/
def State.takeLookup (src : Nat) (s : State) (g : List LookupReq) : State :=
  let r := g.headD default
  if r.step = (s.step32 + 1) % 2 ^ 32 then { s with graph := { s.graph with held := s.graph.held ++ [.lookup src g] } }
  else if r.step ≠ s.step32 then s.send (.lookupAnswer src (lookupFail s g ⟨stStepMismatch, 0⟩))
  else match s.etable? r.table with
    | none => s.send (.lookupAnswer src (lookupFail s g ⟨stBadParam, 0⟩))
    | some t =>
      match portionVerdict (g.map (fun x => (s.judge t x.key x.tenure, x))) with
      | .inl f => s.send (.lookupAnswer src (lookupFail s g f))
      | .inr (here, away) =>
        let part := r.part || decide (1 < away.length + bnat (!here.isEmpty))
        let tenures := g.map (·.tenure)
        let s1 := if here.isEmpty then s else s.serveRecords src t part tenures here
        away.foldl (State.forwardLookup src part tenures) s1

/-- LOOKUP_REQUEST (R283). -/
def execLookupRequest (src : Nat) (rs : List LookupReq) (s : State) : Out State :=
  .next (s.settle (if s.isHalted then s else (lookupGroups rs).foldl (State.takeLookup src) s))

/-- Held lookup requests are taken again. -/
def State.retakeLookups (s : State) : State :=
  let held := s.graph.held
  let keep := held.filter (fun h => match h with
    | .lookup _ _ => false
    | _ => true)
  held.foldl (fun s h => match h with
    | .lookup src g => State.takeLookup src s g
    | _ => s) { s with graph := { s.graph with held := keep } }

/-- A portion after its owner's answer (R284), with the non-finite results. -/
def answeredLookup (t : ETable) (pool : Nat) (r : LookupResp) (q : Portion) : Portion × Nat :=
  if r.status ≠ stOK then ({ q with fail := some ⟨r.status, r.detail⟩ }, 0)
  else
    let q := { q with server := r.owner }
    if pool = 0 then ({ q with stored := some (r.row.take t.weightBytes) }, 0)
    else if r.asStored then
      let x := (lookupPartial pool t.width q.weights [t.weights r.row]).run 0
      ({ q with partRow := some x.1.1, winners := x.1.2 }, x.2)
    else ({ q with partRow := some (rowF32 0 t.width r.row) }, 0)

/-- The chip that a response's request was sent to: the one that forwarded it, or the one that answers. -/
def askedOf (r : LookupResp) (src : Nat) : Nat := r.via.getD src

/-- The portion that a response answers is waited for. -/
def Portion.awaitsLookup (src : Nat) (r : LookupResp) (q : Portion) : Bool := !q.done && q.tag == r.tag && q.owner == askedOf r src

/-- The first portion that a response answers is answered; where the response covers fewer rows than the portion has, the rest of it goes on waiting (R283, R305). -/
def answerFirst (src : Nat) (r : LookupResp) (f : Portion → Portion × Nat) : List Portion → List Portion × Nat
  | [] => ([], 0)
  | q :: qs =>
    if q.awaitsLookup src r then
      let part := decide (0 < r.count) && decide (r.count < q.keys.length)
      let rest : List Portion := if part then [{ q with keys := q.keys.drop r.count, weights := q.weights.drop r.count }] else []
      let x := f (if part then { q with keys := q.keys.take r.count, weights := q.weights.take r.count } else q)
      (x.1 :: rest ++ qs, x.2)
    else
      let x := answerFirst src r f qs
      (q :: x.1, x.2)

/-- LOOKUP_RESPONSE (R284). -/
def execLookupResponse (src : Nat) (r : LookupResp) (s : State) : Out State :=
  .next (s.settle (s.arrives (match s.graph.gathers.find? (fun g => g.portions.any (Portion.awaitsLookup src r)
      && (match s.cmd? g.cmd with
        | some c => opcodeOf c.pkt == 0x6010
        | none => false)) with
    | none => s
    | some g =>
      match s.cmd? g.cmd with
      | none => s
      | some c =>
        match s.etable? (lkTable c.pkt) with
        | none => s
        | some t =>
          let x := answerFirst src r (answeredLookup t (lkPool c.pkt) r) g.portions
          (({ s with graph := { s.graph with gathers := mapWhere (fun k => k.cmd == g.cmd) (fun k => { k with portions := x.1 }) s.graph.gathers } }).countNonfinite x.2).finishLookup g.cmd)))

end Sys2Proof.Machine
end

