-- ==== Sys2Proof/Machine/HotRows.lean ====
section
/-! DEFINITION. The churn and its contributions (R287 to R292), EMBED.APPLY (R294 to R296, R314, R317), the policy (R302), replicas (R299 to R301) and migration (R303, R304). -/
namespace Sys2Proof.Machine

/-! ### The churn -/

/-- The cache slice whose churn merges a row (R290). -/
def Accum.slice (a : Accum) : Nat := (a.key + 3 * a.table) % 8

/-- Bytes of the merge area in use. -/
def State.mergeUsed (s : State) : Nat := s.mergeEntries.foldl (fun n e => n + e.2) 0

/-- A new accumulator leaves the area at or below 75 % (R290). -/
def State.mergeRoom (s : State) (t : ETable) : Bool := decide (4 * (s.mergeUsed + mergeEntryBytes t) ≤ 3 * s.embed.policy.mergeSize)

/-- The first place in the merge area where n bytes meet no entry (DESIGN CHOICE, log entry 61). -/
def State.mergePlace (s : State) (n : Nat) : Option Nat :=
  let area := s.embed.policy
  let used := s.mergeEntries
  (area.merge :: used.map (fun e => e.1 + e.2)).find? (fun x => decide (x + n ≤ area.merge + area.mergeSize) && used.all (fun e => decide (x + n ≤ e.1) || decide (e.1 + e.2 ≤ x)))

/-- The words of an accumulator's sum: after the header of 32 bytes (R290). -/
def Accum.sumRange (a : Accum) (t : ETable) : Nat × Nat := (a.addr + 32, 4 * t.width)

/-- The churn begins an accumulator with a row's first contribution: its lines are pinned where they can be (R427), and the header, whose contents the manual does not give, becomes free values. The status is
NO_RESOURCE when the area has no room. -/
def State.newAccum (s : State) (t : ETable) (key : Nat) (m : MergeLog) : State × Byte :=
  match if s.mergeRoom t then s.mergePlace (mergeEntryBytes t) else none with
  | none => (s, stNoResource)
  | some at1 =>
    let d := s.draw
    let det := s.embed.policy.detMerge
    let a : Accum := ⟨t.id, key, at1, if det then [m] else []⟩
    let header := (List.range 8).flatMap (fun i => toLE 4 (Config.freeWord d.1 i).toNat)
    let s1 := { d.2 with
      mem := (linesOf at1 (mergeEntryBytes t)).foldl Memory.pin d.2.mem
      embed := { d.2.embed with accums := d.2.embed.accums ++ [a] } }
    ((s1.store 2 at1 (header ++ (if det then [] else f32Bytes m.grad))).1, stOK)

/-- One sector of an add to an accumulator: made by the churn in a pinned line, and by the memory-side adders of its port otherwise (R291, R427, R429). A sector that cannot be read takes no add. -/
def State.churnSector (acc : State × Byte) (r : AddReq) : State × Byte :=
  let s := acc.1
  if !inGddr r.addr || s.mem.pinnedLine r.addr then
    let s1 := s.noteRead 2 r.addr 32
    let rr := s.read r.addr 32
    match readStatus rr with
    | some x => (s1, if acc.2 = stOK then x.status else acc.2)
    | none =>
      let n := (sectorAdd r rr.data).run (0, 0)
      (((s1.countAdds n.2).store 2 r.addr n.1).1, acc.2)
  else
    let k := s.memoryAdd r
    (k.1, match k.2 with
      | some b => if acc.2 = stOK then b else acc.2
      | none => acc.2)

/-- One contribution enters the accumulator of a row: added in arrival order, or logged under deterministic merge (R290 to R292). The status is NO_RESOURCE when it finds no room. -/
def State.churnAdd (s : State) (t : ETable) (key : Nat) (m : MergeLog) : State × Byte :=
  match s.embed.accums.find? (fun a => a.table == t.id && a.key == key) with
  | some a =>
    if s.embed.policy.detMerge then
      ({ s with embed := { s.embed with accums := mapWhere (fun a => a.table == t.id && a.key == key) (fun a => { a with log := a.log ++ [m] }) s.embed.accums } }, stOK)
    else (addReqs .fp32 (a.sumRange t).1 (m.grad.map (·.toNat))).foldl State.churnSector (s, stOK)
  | none => s.newAccum t key m

/-- The order of logged contributions: source rank, ORIGIN, SEQ (R292). -/
def mergeBefore (a b : MergeLog) : Bool :=
  decide (a.src < b.src) || (decide (a.src = b.src) && (decide (a.origin < b.origin) || (decide (a.origin = b.origin) && decide (a.seq ≤ b.seq))))

/-- Logged contributions sorted and summed pairwise (R292). -/
def sortedSum (width : Nat) (ms : List MergeLog) : FpM (List F32) := pairRows width ((sortBy mergeBefore ms).map (·.grad))

/-- The merged gradient of a row: the sum in the merge area, or that of its log. -/
def State.mergedGrad (s : State) (t : ETable) (a : Accum) : FpM (List F32) := if a.log.isEmpty then pure (s.f32sAt (a.sumRange t)) else sortedSum t.width a.log

/-- One logged row sorted and summed, its sum written to the merge area (R292). -/
def State.sortRow (s : State) (a : Accum) : State :=
  match s.etable? a.table with
  | none => s
  | some t =>
    let r := (sortedSum t.width a.log).run 0
    (({ s with embed := { s.embed with accums := mapWhere (fun b => b == a) (fun b => { b with log := [] }) s.embed.accums } }).countNonfinite r.2 |>.store 2 (a.sumRange t).1 (f32Bytes r.1)).1

/-- After the scatter barrier every logged row is sorted and summed (R292). -/
def State.sortMerge (s : State) : State := (s.embed.accums.filter (fun a => !a.log.isEmpty)).foldl State.sortRow s

/-- The accumulators that pass a test are freed, and their lines are no longer pinned (R294, R296, R427). -/
def State.dropAccums (s : State) (gone : Accum → Bool) : State :=
  let s1 := { s with embed := { s.embed with accums := s.embed.accums.filter (fun a => !gone a) } }
  { s1 with mem := s1.mem.unpin s1.mergeEntries }

/-! ### Contributions -/

/-- What an acknowledgement names: SEQ and ORIGIN of a contribution, or the row of a pre-merge. -/
def contribTag (c : Contribution) : Nat := if c.kind = 2 then 2 ^ 64 + c.table * 2 ^ 48 + c.key else c.origin * 2 ^ 32 + c.seq

/-- The item of a command that an acknowledged contribution belongs to: its bag or entry (R583). -/
def ackItem (tag : Nat) : Nat := tag % 2 ^ 32

/-- Contributions enter the open batch to their owner, which is sent when it holds 32 (R94, R289). -/
def State.batchContribution (s : State) (owner : Nat) (c : Contribution) : State :=
  let held := s.out.batches.findSome? (fun b => match b with
    | .contributions o cs => if o = owner then some cs else none
    | _ => none)
  let rest := s.out.batches.filter (fun b => match b with
    | .contributions o _ => o != owner
    | _ => true)
  let cs := held.getD [] ++ [c]
  if 32 ≤ cs.length then ({ s with out := { s.out with batches := rest } }).send (.contributions owner cs)
  else { s with out := { s.out with batches := rest ++ [.contributions owner cs] } }

/-- ORIGIN of a command's contributions (R289): the image index of its plan entry, or for a direct command its issue count since the last EMBED.APPLY. -/
def State.originOf (s : State) (c : Ctx) : Nat :=
  match c.src with
  | .plan e => e
  | _ => s.embed.issueCount % 2 ^ 16

/-- A directly submitted command that contributes counts (R289). -/
def State.issued (s : State) (c : Ctx) : State := if c.inPlan then s else { s with embed := { s.embed with issueCount := s.embed.issueCount + 1 } }

/-- A contribution to a replica's pre-merge buffer (R300). -/
def State.premerge (s : State) (t key : Nat) (m : MergeLog) : State :=
  { s with embed := { s.embed with replicas := mapWhere (fun r => r.table == t && r.key == key) (fun r => { r with premerge := r.premerge ++ [m] }) s.embed.replicas } }

/-- What has come of a command's contributions so far: the state, the acknowledgements it waits for, and the failures of its items. -/
structure Contributed where
  state : State
  acks : List (Nat × Nat)
  fails : List (Nat × ItemFail)

/-- One row contribution of an item: into the pre-merge buffer of a replica, into this chip's churn, or to the owner (R289, R300, R305). -/
def Contributed.row (k : Contributed) (t : ETable) (key origin seq item : Nat) (grad : List F32) : Contributed :=
  let s := k.state
  let r := s.route t key
  if r.dest ≠ s.rank ∧ s.replicated t.id [key] then { k with state := s.premerge t.id key ⟨s.rank, origin, seq, grad⟩ }
  else if r.dest = s.rank then
    if t.homeRank s.jobN key = s.rank ∧ t.homeRows s.jobN s.rank ≤ t.homeSlot s.jobN key then { k with fails := k.fails ++ [(item, ⟨stIndexRange, 0x0C⟩)] }
    else
      let a := s.churnAdd t key ⟨s.rank, origin, seq, grad⟩
      { k with state := a.1, fails := if a.2 = stOK then k.fails else k.fails ++ [(item, ⟨a.2, 0⟩)] }
  else
    let c : Contribution := ⟨key, t.id, 0, r.tenure, origin, seq, grad⟩
    { k with state := s.batchContribution r.dest c, acks := k.acks ++ [(r.dest, (contribTag c))] }

/-- The gradient of each row of a portion (R288): keys, weights and winners in serve-log order. -/
def bagGrads (pool : Nat) (weights : List F32) (winners : List Nat) (n : Nat) (g : List F32) : FpM (List (List F32)) :=
  (List.range n).mapM (fun i =>
    match pool with
    | 3 => g.mapM (fun x => mulF (weights.getD i 0) x)
    | 4 => pure ((g.zip winners).map (fun (x : F32 × Nat) => if x.2 = i then x.1 else 0))
    | _ => pure g)

/-- The gradient that a portion's contribution carries (R288). -/
def portionGrad (pool count : Nat) (winners : List Nat) (g : List F32) : FpM (List F32) :=
  match pool with
  | 2 => g.mapM (fun x => divF x (f32OfNat count))
  | 4 => pure ((g.zip winners).map (fun (x : F32 × Nat) => if x.2 = 0xFFFFFFFF then 0 else x.1))
  | _ => pure g

/-- The contribution of one portion (R288): expanded at once when the portion is local, sent otherwise to the owner that the relocation table gives, as the request was (R305). -/
def Contributed.portion (k : Contributed) (t : ETable) (pool count origin : Nat) (q : Portion) (g : List F32) : Contributed :=
  let r := (portionGrad pool count q.winners g).run 0
  let s := k.state.countNonfinite r.2
  if q.isLocal then
    let x := (bagGrads pool q.weights q.winners q.keys.length r.1).run 0
    (q.keys.zip x.1).foldl (fun k (e : Nat × List F32) => k.row t e.1 origin q.item q.item e.2) { k with state := s.countNonfinite x.2 }
  else
    let c : Contribution := ⟨q.tag, t.id, 1, (s.route t (q.keys.headD 0)).tenure, origin, q.item, r.1⟩
    let dest := if q.owner = s.rank then q.server else q.owner
    { k with state := s.batchContribution dest c, acks := k.acks ++ [(dest, (contribTag c))] }

/-! ### Waiting for contributions -/

/-- The fields of a scatter that its end needs (R125): DEST_KIND, DEST, rows and the pitch of a row (R584). -/
def scKind (p : List Byte) : Nat := field p 32 1
def scDtype (p : List Byte) : Nat := field p 35 1
def scElems (p : List Byte) : Nat := field p 36 2
def scDest (p : List Byte) : Nat := field p 56 8
def scRows (p : List Byte) : Nat := field p 64 4
def scElemBytes (p : List Byte) : Nat := if scDtype p = 2 then 8 else 4
def scPitch (p : List Byte) : Nat := roundUp (scElems p * scElemBytes p) 32

/-- The destination range of a scatter to a tensor. -/
def scDestRange (p : List Byte) : Nat × Nat := (scDest p, if scRows p = 0 then 0 else (scRows p - 1) * scPitch p + scElems p * scElemBytes p)

/-- The outputs that a failed command with contributions leaves poisoned: the destination tensor of a scatter (R130, R489). -/
def scatterOuts (p : List Byte) : List (Nat × Nat) := if opcodeOf p = 0x2130 ∧ scKind p ≠ 2 then [scDestRange p] else []

/-- The failure that decides of one held and a new one: that of the lower-numbered item, and of one item the one that decides for it, in whatever order they come (R583). -/
def lowerFail (a : Option (Nat × ItemFail)) (b : Nat × ItemFail) : Option (Nat × ItemFail) :=
  match a with
  | none => some b
  | some x => if x.1 < b.1 ∨ (x.1 = b.1 ∧ x.2.before b.2) then some x else some b

/-- What a command with contributions ends with: POISONED for an input poisoned as a whole, else the deciding failure with its item, else OK (R583). -/
def Scatter.result (x : Scatter) : Result :=
  if x.poisoned then resStatus stPoisoned
  else match x.fail with
    | none => resOK
    | some (i, f) => { resOf f.status f.reason 0 with index := BitVec.ofNat 32 (min i 0xFFFFFFFF) }

/-- A command all of whose contributions have been applied and acknowledged ends (R128). A scatter barrier goes on to wait unless a pre-merge failed. -/
def State.finishScatter (s : State) (id : Nat) : State :=
  match s.scatters.find? (fun x => x.cmd == id), s.cmd? id with
  | some x, some c =>
    if !(x.adds.isEmpty && x.atomics.isEmpty && x.acks.isEmpty) then s else
    let s1 := { s with scatters := s.scatters.filter (fun y => y.cmd != id) }
    if opcodeOf c.pkt = 0xF020 then (match x.fail with
      | some (_, f) => s1.endCmd id (resOf f.status f.reason 0)
      | none => s1)
    else if x.result.failed then (s1.poisonRanges 1 (scatterOuts c.pkt)).endCmd id x.result
    else s1.endCmd id x.result
  | _, _ => s

/-- A command waits for its contributions, and ends at once when none is out. -/
def State.awaitScatter (s : State) (x : Scatter) : State := ({ s with scatters := s.scatters ++ [x] }).finishScatter x.cmd

/-- CONTRIBUTION_ACK (R128). -/
def execContributionAck (src tag : Nat) (status : Byte) (s : State) : Out State :=
  .next (s.settle (s.arrives (match s.scatters.find? (fun x => x.acks.contains (src, tag) || x.acks.any (fun a => a.2 == tag)) with
    | none => s
    | some x =>
      let acks := if x.acks.contains (src, tag) then x.acks.erase (src, tag) else x.acks.eraseP (fun a => a.2 == tag)
      let fail := if status = stOK then x.fail else lowerFail x.fail (ackItem tag, ⟨status, 0⟩)
      ({ s with scatters := mapWhere (fun y => y.cmd == x.cmd) (fun y => { y with acks := acks, fail := fail }) s.scatters }).finishScatter x.cmd)))

/-! ### EMBED.LOOKUP_BWD -/

/-- The lookup log that the command names, once its lookup has ended without a failure. -/
def State.bwdLog (s : State) (p : List Byte) : Option LookupLog := s.embed.lookupLogs.find? (fun l => l.table == field p 32 1 && l.lookup == field p 33 1 && l.whole)

/-- Gradient rows that the command reads: one per bag, or per entry. -/
def bwdRows (l : LookupLog) : Nat := if l.pool = 0 then l.portions.length else l.bags

def embedLookupBwdInfo : OpInfo where
  code := 0x6011
  used := [(32, 2), (36, 12)]
  dyn := fun s c =>
    let p := c.pkt
    jobBreach s ++ [bParam (s.etable? (field p 32 1)).isNone 0 32]
      ++ (match s.bwdLog p, s.etable? (field p 32 1) with
        | some l, some t => bParam (decide (l.bags ≠ field p 36 4)) 0 36 :: (if bwdRows l = 0 then [] else rangeBreach s c (field p 40 8) (4 * t.width * bwdRows l) 40)
        | _, _ => [bParam true 0 33])

/-- The order in which a lookup's portions contribute: by bag and owner, and of the parts of a portion that an old owner divided, its own first and then those of the new owners in ascending rank, as its log has
them (R305; DESIGN CHOICE, log entry 110). -/
def Portion.sentBefore (a b : Portion) : Bool :=
  let place (q : Portion) : Nat := if q.server = q.owner then 0 else q.server + 1
  decide (a.item < b.item) || (decide (a.item = b.item) && (decide (a.owner < b.owner) || (decide (a.owner = b.owner) && decide (place a ≤ place b))))

/-- The backward pass of a lookup (R288). A poisoned GRAD is an input poisoned as a whole; an uncorrectable word of it is the failure of its bag (R583). -/
def effectEmbedLookupBwd (s : State) (c : Ctx) : State × Option Result :=
  let p := c.pkt
  match s.bwdLog p, s.etable? (field p 32 1) with
  | some l, some t =>
    let r := (field p 40 8, 4 * t.width * bwdRows l)
    let s1 := (s.noteReads 1 [r]).issued c
    let origin := s1.originOf c
    let ps := if l.pool = 0 then l.portions else sortBy Portion.sentBefore l.portions
    let k := (ps.zipIdx).foldl (fun (k : Contributed) (x : Portion × Nat) =>
      let row := (field p 40 8 + 4 * t.width * (if l.pool = 0 then x.2 else x.1.item), 4 * t.width)
      match s.failOf [row] with
      | some f => { k with fails := k.fails ++ [(x.1.item, f)] }
      | none => k.portion t l.pool (nth l.counts x.1.item 1) origin x.1 (s.f32sAt row)) ⟨s1, [], []⟩
    (k.state.awaitScatter ⟨c.id, [], [], k.acks, !(s.read r.1 r.2).poisoned.isEmpty, k.fails.foldl lowerFail none⟩, none)
  | _, _ => (s, some (badParam 0 33))

/-- EMBED.LOOKUP_BWD (R288). -/
def execEmbedLookupBwd (id : Nat) (s : State) : Out State := .next (s.settle (s.runCmd embedLookupBwdInfo id effectEmbedLookupBwd))

/-! ### Receiving contributions -/

/-- Several row contributions of one source into this chip's churn; the status is the worst. -/
def State.churnRows (s : State) (t : ETable) (src origin seq : Nat) (rows : List (Nat × List F32)) : State × Byte :=
  rows.foldl (fun (acc : State × Byte) (r : Nat × List F32) =>
    let x := acc.1.churnAdd t r.1 ⟨src, origin, seq, r.2⟩
    (x.1, if acc.2 = stOK then x.2 else acc.2)) (s, stOK)

/-- The serve-log entry of a bag gradient, moved to the end of the log so that the entries of one TAG are used in turn. -/
def State.useServeLog (s : State) (src table tag : Nat) : Option (ServeLog × State) :=
  match s.embed.serveLogs.find? (fun l => l.src == src && l.table == table && l.tag == tag) with
  | none => none
  | some l => some (l, { s with embed := { s.embed with serveLogs := s.embed.serveLogs.erase l ++ [l] } })

/-- A bag gradient that an owner takes (R288, R305): judged by the tenures that its portion's request carried, expanded to the rows of the portion, or forwarded to the chip that the request was forwarded to. -/
def State.takeBagGradient (s : State) (src : Nat) (t : ETable) (c : Contribution) : State :=
  match s.useServeLog src c.table c.key with
  | none => s.send (.contributionAnswer src (contribTag c) stBadParam)
  | some (l, s1) =>
    if !l.tenures.contains c.tenure then s.send (.contributionAnswer src (contribTag c) stTenureStale)
    else match l.moved with
      | some (o, ten) => s1.send (.forwarded o src { c with tenure := ten })
      | none =>
        let x := (bagGrads l.pool l.weights l.winners l.keys.length c.grad).run 0
        let r := (s1.countNonfinite x.2).churnRows t src c.origin c.seq (l.keys.zip x.1)
        r.1.send (.contributionAnswer src (contribTag c) r.2)

/-- A contribution that an owner takes (R288, R290, R305): its rows enter the churn and it is acknowledged, or it is forwarded, or refused. -/
def State.takeContribution (s : State) (src : Nat) (c : Contribution) : State :=
  match s.etable? c.table with
  | none => s.send (.contributionAnswer src (contribTag c) stBadParam)
  | some t =>
    if c.kind = 1 then s.takeBagGradient src t c
    else match s.judge t c.key c.tenure with
      | .forward o ten => s.send (.forwarded o src { c with tenure := ten })
      | .fail f => s.send (.contributionAnswer src (contribTag c) f.status)
      | .serve _ =>
        let r := s.churnAdd t c.key ⟨src, c.origin, c.seq, c.grad⟩
        r.1.send (.contributionAnswer src (contribTag c) r.2)

/-- CONTRIBUTION_RECEIVE (R290). -/
def execContributionReceive (src : Nat) (c : Contribution) (s : State) : Out State :=
  .next (s.settle (if s.isHalted then s else s.takeContribution src c))

/-- The pre-merged gradient of a replica: in ORIGIN and SEQ order under deterministic merge, in order of arrival otherwise (R292, R300). -/
def premergeSum (det : Bool) (width : Nat) (ms : List MergeLog) : FpM (List F32) :=
  if det then sortedSum width ms
  else match ms with
    | [] => pure (List.replicate width 0)
    | m :: rest => rest.foldlM (fun (acc : List F32) (x : MergeLog) => (acc.zip x.grad).mapM (fun (y : F32 × F32) => addF y.1 y.2)) m.grad

/-- The pre-merges of every replica touched leave for their owners (R300): the state and the acknowledgements to wait for. -/
def State.sendPremerges (s : State) : State × List (Nat × Nat) :=
  let go := s.embed.replicas.filter (fun r => !r.premerge.isEmpty)
  let s1 := { s with embed := { s.embed with replicas := s.embed.replicas.map (fun r => { r with premerge := [] }) } }
  go.foldl (fun (acc : State × List (Nat × Nat)) (r : Replica) =>
    match acc.1.etable? r.table with
    | none => acc
    | some t =>
      let g := (premergeSum acc.1.embed.policy.detMerge t.width r.premerge).run 0
      let w := acc.1.route t r.key
      let c : Contribution := ⟨r.key, r.table, 2, w.tenure, 0xFFFF, 0, g.1⟩
      ((acc.1.countNonfinite g.2).batchContribution w.dest c, acc.2 ++ [(w.dest, (contribTag c))])) (s1, [])

/-! ### EMBED.APPLY -/

/-- A touched row as its update reads it: its key, its address, its record's bytes, its merged gradient and the words that hold it. -/
structure RowUpdate where
  key : Nat
  addr : Nat
  old : List Byte
  grad : List F32
  sum : List (Nat × Nat)
  deriving DecidableEq, Repr, Inhabited

/-- The moments of a record. -/
def ETable.moments (t : ETable) (bs : List Byte) : List F32 :=
  let m := bs.drop t.weightBytes
  if t.dtype = 0 then (rowCodes 0 t.width m).map (BitVec.ofNat 32 ·) else (rowCodes 1 t.width m).map bf16Widen

/-- The bytes of new moments: FP32 as computed, BF16 to nearest even (R317), with the counts of the conversion. -/
def ETable.momentOut (t : ETable) (ms : List F32) : List Byte × ConvCount :=
  if t.momentBytes = 0 then ([], .zero)
  else if t.dtype = 0 then (f32Bytes ms, .zero)
  else
    let ks := ms.map (toHalf 1 .nearest)
    (ks.flatMap (fun k => toLE 2 k.1), ks.foldl (fun a k => a.add k.2) .zero)

/-- Format codes of DTYPE. -/
def etFmt (dtype : Nat) : Nat := nth [0, 1, 3] dtype 3

/-- A row under its rule (R294, R295, R313, R314, R317): the new record, the values that the monitor takes, and the counts of its conversions. -/
def State.rowUpdated (s : State) (t : ETable) (h : Hyper) (u : RowUpdate) : FpM (List Byte × List (F32 × F32 × F32) × ConvCount) := do
  let ws := t.weights u.old
  let state := u.old.drop (t.weightBytes + t.momentBytes)
  let v : W32 := BitVec.ofNat 32 (field state 0 4)
  let stamp : W32 := BitVec.ofNat 32 (field state 4 4)
  let step := s.step32
  let r ← (if t.rule = 3 then do
      let x ← rowRule h ws u.grad v stamp step
      pure (x.1, [], x.2)
    else do
      let ms := if t.momentBytes = 0 then ws.map (fun _ => (0 : F32)) else t.moments u.old
      let xs ← ((ws.zip ms).zip u.grad).mapM (fun (x : (F32 × F32) × F32) => elementRule t.rule h x.1.1 x.1.2 x.2)
      pure (xs.map (·.1), xs.map (·.2), v))
  let stream := 0xFFFF0000 + 256 * (s.plans.stepNo.toNat % 128) + t.id
  let k := convertTensor 6 (etFmt t.dtype) t.width none (some (fun _ e => (elementBits s.vec.seed.toNat stream 1 (u.key * 1024 + e), 32))) [r.1]
  let wb := padTo t.weightBytes (k.rows.headD [] ++ k.scales.take (if t.dtype = 2 then t.width / 32 else 0))
  let m := t.momentOut r.2.1
  let rec' := wb ++ m.1 ++ toLE 4 r.2.2.toNat ++ toLE 4 step ++ state.drop 8
  pure (rec', (u.grad.zip (ws.zip (t.weights wb))).map (fun (x : F32 × F32 × F32) => x), k.count.add m.2)

def embedApplyInfo : OpInfo where
  code := 0x6020
  used := [(32, 1)]
  dyn := fun s c => jobBreach s ++ [bParam (s.etable? (c.f 32 1)).isNone 0 32]

/-- The touched rows of a table that this chip owns, ascending by key. -/
def State.touched (s : State) (t : ETable) : FpM (List RowUpdate) :=
  (sortBy (fun (a b : Accum) => decide (a.key ≤ b.key)) (s.embed.accums.filter (fun a => a.table == t.id))).mapM (fun a => do
    let g ← s.mergedGrad t a
    let addr := (s.rowAddr t a.key).getD 0
    pure ⟨a.key, addr, (s.read addr t.recordBytes).data, g, if a.log.isEmpty then [a.sumRange t] else []⟩)

/-- The words that a row's update reads: its record, and its accumulator. -/
def RowUpdate.reads (u : RowUpdate) (t : ETable) : List (Nat × Nat) := (u.addr, t.recordBytes) :: u.sum

/-- The accumulators of a table are freed, and the issue count starts again (R289, R294). -/
def State.freeAccums (s : State) (t : Nat) : State :=
  let s1 := s.dropAccums (fun a => a.table == t)
  { s1 with embed := { s1.embed with issueCount := 0 } }

/-- The given rows updated and written; with the monitor, the update is under way until its command completes (R327). -/
def State.applyRows (s : State) (c : Ctx) (t : ETable) (h : Hyper) (us : List RowUpdate) (monitor : Bool) : State × Option Result :=
  let r := (us.mapM (s.rowUpdated t h)).run 0
  let s := if monitor then s.takesOff ⟨c.id, 4096 + t.id, us.map (fun u => (u.addr, u.old))⟩ else s
  let w := ((s.countNonfinite r.2).countConv c (r.1.foldl (fun k x => k.add x.2.2) .zero)).storeAll 2 ((us.zip r.1).map (fun (u, x) => (u.addr, x.1)))
  (if monitor then w.1.monitorUpdate t.layerTag (r.1.flatMap (·.2.1)) else w.1, writeStatus w.2)

/-- A row update (R294). An uncorrectable word of a record or of an accumulator ends it UNCORRECTED with some of the good rows written, as a free value says (R327). -/
def effectEmbedApply (s : State) (c : Ctx) : State × Option Result :=
  match s.etable? (c.f 32 1) with
  | none => (s, some (badParam 0 32))
  | some t =>
    let s := s.noteHyper c t.layerTag
    match s.updateChecks c t.layerTag (some t.rule) t.counter with
    | .inl r => (s, some r)
    | .inr h =>
      if h.frozen then (s.freeAccums t.id, some resOK) else
      let us := (s.touched t).run 0
      let reads := us.1.flatMap (fun u => u.reads t)
      let s1 := ((s.noteReads 2 reads).countNonfinite us.2).freeAccums t.id
      let rr := s.readAll reads
      if !rr.uncorr.isEmpty then
        let d := s1.draw
        let done := ((us.1.zipIdx).filter (fun (u, i) => (s.readAll (u.reads t)).good && (Config.freeWord d.1 i).getLsbD 0)).map (·.1)
        ((d.2.applyRows c t h done false).1, some (resStatus stUncorrected))
      else if !rr.poisoned.isEmpty then (s1.poisonRanges 2 (us.1.map (fun u => (u.addr, t.recordBytes))), some (resStatus stPoisoned))
      else
        let r := s1.applyRows c t h us.1 true
        (r.1, some (r.2.getD resOK))

/-- EMBED.APPLY (R294). -/
def execEmbedApply (id : Nat) (s : State) : Out State := .next (s.settle (s.runCmd embedApplyInfo id effectEmbedApply))

/-! ### EMBED.POLICY -/

/-- The settings that a packet names (R302). -/
def embedPolicyOf (p : List Byte) : EmbedPolicy :=
  let f := field p 32 1
  { detMerge := bitAt f 0, oneStale := bitAt f 1, pinRepl := bitAt f 2, pinOwner := bitAt f 3, migMax := field p 33 2, replOn := word32 p 36, replOff := word32 p 40, migOn := word32 p 44,
    replMax := field p 48 4, relocMax := field p 52 4, merge := field p 56 8, mergeSize := field p 64 8, serveLog := field p 72 8, serveLogSize := field p 80 8 }

/-- An FP32 value in 1.0 to 65,535.0. -/
def f32Rate (a : F32) : Bool := f32Le 0x3F800000 a && f32Le a 0x477FFF00

def embedPolicyInfo : OpInfo where
  code := 0x6003
  len := some 32
  used := [(32, 3), (36, 52)]
  static := fun p =>
    let e := embedPolicyOf p
    [ bAlign (decide (e.merge % 32 ≠ 0)) 56,
      bParam (decide (15 < field p 32 1)) 0 32,
      bParam (decide (1024 < e.migMax)) 0 33,
      bParam (!f32Rate e.replOn) 0 36,
      bParam (!(f32Le 0 e.replOff && f32Lt e.replOff e.replOn)) 0 40,
      bParam (!f32Rate e.migOn) 0 44,
      bParam (decide (65536 < e.replMax)) 0 48,
      bParam (decide (1048576 < e.relocMax)) 0 52 ]
  dyn := fun s c =>
    let e := embedPolicyOf c.pkt
    (if e.mergeSize = 0 then [] else rangeBreach s c e.merge e.mergeSize 56) ++ (if e.serveLogSize = 0 then [] else rangeBreach s c e.serveLog e.serveLogSize 72)

def effectEmbedPolicy (s : State) (c : Ctx) : State × Option Result :=
  ({ s with embed := { s.embed with pendingPolicy := some (embedPolicyOf c.pkt) } }, some resOK)

/-- EMBED.POLICY (R302). -/
def execEmbedPolicy (id : Nat) (s : State) : Out State := .next (s.settle (s.runCmd embedPolicyInfo id effectEmbedPolicy))

/-! ### Replicas -/

/-- A count is at least a rate in records per step (R298). -/
def countAtLeast (count : Nat) (rate : F32) : Bool := decide (16 * f32ToRat rate ≤ (count : Rat))

/-- The decision record of a replica or a migration (R484). -/
def State.rowDecision (s : State) (policy t key : Nat) (vals : List Nat) (action : Nat) : State := s.decision policy t ([key % 2 ^ 32, key / 2 ^ 32] ++ vals) action 0

/-- The chip has asked not to be refused again for this row yet (R299). -/
def State.mayAsk (s : State) (t key : Nat) : Bool :=
  !s.embed.asked.any (fun a => a.1 == t && a.2.1 == key) && !s.embed.refused.any (fun r => r.1 == t && r.2.1 == key && decide (s.plans.stepNo.toNat < r.2.2.toNat))

/-- One listed row is judged for subscription (R299). A subscription that PIN_REPL or REPL_MAX prevents is only logged (R302, R482). -/
def State.considerReplica (s : State) (x : TopRow) : State :=
  match s.etable? x.table with
  | none => s
  | some t =>
    let o := (s.route t x.key).dest
    if o = s.rank || !countAtLeast x.count s.embed.policy.replOn || s.replicated t.id [x.key] || !s.mayAsk t.id x.key then s
    else if s.embed.policy.pinRepl || decide (s.embed.policy.replMax ≤ s.embed.replicas.length + s.embed.asked.length) then s.rowDecision 8 t.id x.key [x.count / 16] 1
    else ((({ s with embed := { s.embed with asked := s.embed.asked ++ [(t.id, x.key, o)] } }).rowDecision 8 t.id x.key [x.count / 16] 0)).send (.subscribe o t.id x.key)

/-- One replica is judged for dropping (R299). -/
def State.considerDrop (s : State) (r : Replica) : State :=
  match s.etable? r.table with
  | none => s
  | some t =>
    let n := s.embed.countOf r.table r.key
    if countAtLeast n s.embed.policy.replOff then s
    else if s.embed.policy.pinRepl then s.rowDecision 8 r.table r.key [n / 16] 1
    else (({ s with embed := { s.embed with replicas := s.embed.replicas.filter (fun x => !(x.table == r.table && x.key == r.key)) } }).rowDecision 8 r.table r.key [n / 16] 0).send
      (.unsubscribe (s.rowOwner t r.key) r.table r.key)

/-- The replica decisions of an update barrier (R299). -/
def State.decideReplicas (s : State) : State := s.embed.replicas.foldl State.considerDrop (s.embed.top.foldl State.considerReplica s)

/-- The weights of a row that this chip owns, with the tenure. -/
def State.ownedWeights (s : State) (t key : Nat) : Option (Nat × List Byte) :=
  (s.etable? t).bind (fun x => (s.rowAddr x key).map (fun a => (s.heldTenure x a, (s.read a x.weightBytes).data)))

/-- A copy of a row leaves for subscribers, as one multicast (R301). -/
def State.sendCopy (s : State) (table key : Nat) (dests : List Nat) : State :=
  match s.ownedWeights table key with
  | some w => s.send (.refresh dests table key w.1 w.2)
  | none => s

/-- The refresh of every row with subscribers, one multicast per row (R301): with it each newly accepted subscriber gets its first copy. -/
def State.refreshAll (s : State) : State :=
  ((s.embed.subs.map (fun x => (x.1, x.2.1))).dedup).foldl (fun s r => s.sendCopy r.1 r.2 ((s.embed.subs.filter (fun x => x.1 == r.1 && x.2.1 == r.2)).map (·.2.2))) s

/-- The refresh of stage 9 may run: the update barrier has passed, no migration is out, and ONE_STALE does not put it off (R301). -/
def State.refreshOpen (s : State) : Bool :=
  match s.plans.step with
  | some st => st.updatePassed && s.embed.migrating.isEmpty && !s.embed.policy.oneStale
  | none => false

/-- The refresh of stage 9 runs once it may. -/
def State.refreshDue (s : State) : State := if s.refreshOpen then s.refreshAll else s

/-- SUBSCRIPTION_REQUEST (R299): accepted, or refused at the limits, for a row that has left or is leaving, or for one that this chip does not own. The first copy of an accepted subscriber leaves with the next
refresh, or at once when the refresh of stage 9 has already run (R301). -/
def execSubscriptionRequest (src table key : Nat) (s : State) : Out State :=
  .next (s.settle (s.arrives (
    let rows := (s.embed.subs.map (fun x => (x.1, x.2.1))).dedup
    let known := rows.contains (table, key)
    let leaving := (s.forwardOf table key).isSome || s.embed.migrating.any (fun m => m.1 == table && m.2.1 == key)
    if (s.ownedWeights table key).isNone || leaving || (!known && decide (4096 ≤ rows.length)) || decide (1048576 ≤ s.embed.subs.length) then
      ({ s with health := { s.health with counts := { s.health.counts with subsRefused := satAdd32 s.health.counts.subsRefused 1 } } }).send (.subscriptionRefused src table key)
    else
      let s1 := if s.embed.subs.contains (table, key, src) then s else { s with embed := { s.embed with subs := s.embed.subs ++ [(table, key, src)] } }
      if s.refreshOpen then s1.sendCopy table key [src] else s1)))

/-- SUBSCRIPTION_REFUSED (R299): the chip does not ask again for 64 steps. -/
def execSubscriptionRefused (_src table key : Nat) (s : State) : Out State :=
  .next (s.settle (s.arrives (
    if s.embed.asked.any (fun a => a.1 == table && a.2.1 == key) then
      let e := s.embed
      let refused := e.refused.filter (fun (r : Nat × Nat × W64) => !(r.1 == table && r.2.1 == key)) ++ [(table, key, s.plans.stepNo + 64)]
      let e1 : Embed := { e with asked := e.asked.filter (fun a => !(a.1 == table && a.2.1 == key)), refused := refused }
      ({ s with embed := e1 }).rowDecision 8 table key [e.countOf table key / 16] 2
    else s)))

/-- UNSUBSCRIBE (R299). -/
def execUnsubscribe (src table key : Nat) (s : State) : Out State :=
  .next (s.settle (s.arrives { s with embed := { s.embed with subs := s.embed.subs.filter (· != (table, key, src)) } }))

/-- Bytes of pinned lines that a table's replica takes (R302), the bytes pinned for accumulators and replicas, and the bytes of the caching region that may be pinned: 8 ways of 16 (R427). -/
def replicaBytes (t : ETable) : Nat := 32 + roundUp t.weightBytes 32
def State.pinned (s : State) : Nat :=
  256 * (s.mem.lines.filter (·.pinned)).length + s.embed.replicas.foldl (fun n r => n + (match s.etable? r.table with
    | some t => replicaBytes t
    | none => 0)) 0
def State.pinLimit (s : State) : Nat := 8 * (28 * 2 ^ 20 - 7 * 2 ^ 19 - s.mem.direct * 2 ^ 20) / 2

/-- REPLICA_REFRESH (R301): a first copy creates the replica when its lines can be pinned; a later one updates it, at the next boundary under ONE_STALE. -/
def execReplicaRefresh (_src table key tenure : Nat) (weights : List Byte) (s : State) : Out State :=
  .next (s.settle (s.arrives (
    let e := s.embed
    if e.replicas.any (fun r => r.table == table && r.key == key) then
      let upd (r : Replica) : Replica := if e.policy.oneStale then { r with nextWeights := some weights } else { r with weights := weights, tenure := tenure }
      { s with embed := { e with replicas := mapWhere (fun r => r.table == table && r.key == key) upd e.replicas } }
    else if e.asked.any (fun a => a.1 == table && a.2.1 == key) then
      match s.etable? table with
      | none => s
      | some t =>
        let s1 := { s with embed := { e with asked := e.asked.filter (fun a => !(a.1 == table && a.2.1 == key)) } }
        if s.pinned + replicaBytes t ≤ s.pinLimit ∧ e.replicas.length < e.policy.replMax then
          { s1 with embed := { s1.embed with replicas := s1.embed.replicas ++ [⟨table, key, tenure, weights, [], none⟩] } }
        else ({ s1 with health := { s1.health with counts := { s1.health.counts with replicasRefused := satAdd32 s1.health.counts.replicasRefused 1 } } }).rowDecision 8 table key [e.countOf table key / 16] 2
    else s)))

/-! ### Migration -/

/-- A listed row may migrate (R303), with its table and the address of its record. -/
def State.migrates (s : State) (x : TopRow) : Option (ETable × Nat) :=
  match s.etable? x.table with
  | none => none
  | some t =>
    match s.rowAddr t x.key with
    | none => none
    | some a =>
      if countAtLeast x.count s.embed.policy.migOn && decide (x.count ≤ 2 * x.majority) && decide (x.source ≠ s.rank)
        && !s.embed.subs.any (fun z => z.1 == x.table && z.2.1 == x.key)
        && !s.embed.migrated.any (fun z => z.1 == x.table && z.2.1 == x.key && decide (s.plans.stepNo.toNat ≤ z.2.2.toNat + 4))
      then some (t, a) else none

/-- Rows that have a relocation entry, or will have one by the notices and migrations under way (R303). -/
def State.relocHeld (s : State) : Nat :=
  let e := s.embed
  (((e.reloc ++ e.pendingReloc ++ e.notices).map (fun r => (r.table, r.key)) ++ e.migrating.map (fun m => (m.1, m.2.1))).dedup).length

/-- One chosen row leaves for its dominant source (R304), or is only logged where PIN_OWNER, RELOC_MAX or MIG_MAX prevents it (R302, R482). -/
def State.sendRow (s : State) (x : TopRow) (allowed : Bool) : State :=
  match s.migrates x with
  | none => s
  | some (t, a) =>
    let ten := s.heldTenure t a
    if s.embed.policy.pinOwner || !allowed || decide (s.embed.policy.relocMax ≤ s.relocHeld) then s.rowDecision 9 t.id x.key [x.source, nextTenure ten] 1
    else
      let m : MigCopy := ⟨s.rank, t.id, x.key, ten, (s.read a t.recordBytes).data⟩
      (({ s with embed := { s.embed with migrating := s.embed.migrating ++ [(t.id, x.key, x.source)] } }).rowDecision 9 t.id x.key [x.source, nextTenure ten] 0).send (.migration x.source m)

/-- The migrations of an update barrier: at most MIG_MAX rows, highest rate first (R303). -/
def State.chooseMigrations (s : State) : State :=
  ((sortBy (fun (a b : TopRow) => decide (b.count ≤ a.count)) (s.embed.top.filter (fun x => (s.migrates x).isSome))).zipIdx).foldl
    (fun s' x => s'.sendRow x.1 (decide (x.2 < s.embed.policy.migMax))) s

/-- The first free guest slot of a table. -/
def State.freeGuest (s : State) (t : ETable) : Option Nat :=
  (List.range t.guestRows).find? (fun i => !s.embed.guests.any (fun g => g.table == t.id && g.slot == i))

/-- A migrated record with its next tenure (R304). -/
def withTenure (t : ETable) (bs : List Byte) (ten : Nat) : List Byte := splice bs (t.weightBytes + t.momentBytes + 8) (toLE 2 ten)

/-- MIGRATION_COPY (R304): the new owner takes the row into its home slot or a guest slot and acknowledges, or declines for want of a slot. -/
def execMigrationCopy (m : MigCopy) (s : State) : Out State :=
  .next (s.settle (s.arrives (match s.etable? m.table with
    | none => s.send (.migrationAnswer m.src m.table m.key false)
    | some t =>
      let home := decide (t.homeRank s.jobN m.key = s.rank)
      let place := if home then some (none, t.base + t.homeSlot s.jobN m.key * t.stride) else (s.freeGuest t).map (fun g => (some g, t.guestBase + g * t.stride))
      match place with
      | none => s.send (.migrationAnswer m.src m.table m.key false)
      | some (g, a) =>
        let ten := nextTenure m.tenure
        let e := s.embed
        let guests := match g with
          | some g => e.guests ++ [⟨m.table, m.key, g⟩]
          | none => e.guests
        let e1 : Embed := { e with
          guests := guests
          forwards := e.forwards.filter (fun f => !(f.table == m.table && f.key == m.key))
          notices := e.notices ++ [⟨m.table, m.key, s.rank, ten⟩]
          migrated := e.migrated ++ [(m.table, m.key, s.plans.stepNo)] }
        ((({ s with embed := e1 }).store 2 a (withTenure t m.record ten)).1).send (.migrationAnswer m.src m.table m.key true))))

/-- MIGRATION_ACK (R304): the old owner replaces the row by a forwarding entry, which lasts until the boundary that ends step s + 2; a declined row stays, and the failed decision is logged (R302, R482). -/
def execMigrationAck (src table key : Nat) (accepted : Bool) (s : State) : Out State :=
  .next (s.settle (s.arrives (
    if !s.embed.migrating.contains (table, key, src) then s else
    let e := s.embed
    let rest := e.migrating.filter (· != (table, key, src))
    match s.etable? table with
    | none => ({ s with embed := { e with migrating := rest } }).refreshDue
    | some t =>
      match s.rowAddr t key, accepted with
      | some a, true =>
        let f : Forward := ⟨table, key, src, nextTenure (s.heldTenure t a), BitVec.ofNat 32 (s.step32 + 2)⟩
        ({ s with embed := { e with migrating := rest, forwards := e.forwards ++ [f], guests := e.guests.filter (fun g => !(g.table == table && g.key == key)) } }).refreshDue
      | at1, _ =>
        let ten := (at1.map (s.heldTenure t)).getD 0
        (({ s with embed := { e with migrating := rest } }).rowDecision 9 table key [src, nextTenure ten] 2).refreshDue)))

/-- RELOCATION_NOTICE (R304): applied at the boundary that ends the step. -/
def execRelocationNotice (r : Relocation) (s : State) : Out State :=
  .next (s.settle (s.arrives { s with embed := { s.embed with pendingReloc := s.embed.pendingReloc ++ [r] } }))

/-- The notices of the rows that came in the step before leave, and wait with the others for the boundary (R304). -/
def State.sendNotices (s : State) : State :=
  let ns := s.embed.notices
  let s1 := { s with embed := { s.embed with notices := [], pendingReloc := s.embed.pendingReloc ++ ns } }
  ns.foldl (fun s r => s.send (.relocation r)) s1

/-- A relocation notice applied: a row back at its home rank has no entry (R304). -/
def State.applyReloc (s : State) (r : Relocation) : State :=
  let rest := s.embed.reloc.filter (fun x => !(x.table == r.table && x.key == r.key))
  match s.etable? r.table with
  | none => s
  | some t => { s with embed := { s.embed with reloc := if t.homeRank s.jobN r.key = r.owner then rest else rest ++ [r] } }

/-- Unconsumed accumulators are discarded and counted by table (R296). -/
def State.discardAccums (s : State) : State :=
  let d := s.embed.accums.foldl (fun k a => assocSet k a.table (satAdd32 (assocGet k a.table 0) 1)) s.health.counts.discards
  let s1 := s.dropAccums (fun _ => true)
  { s1 with health := { s1.health with counts := { s1.health.counts with discards := d } } }

/-- The embedding side of the boundary that ends a step: notices apply, forwarding entries of step s expire, logs and accumulators go, held-back refreshes apply, the tracker decays, and a new policy takes effect. -/
def State.embedBoundary (s : State) (ended : W64) : State :=
  let s1 := (s.embed.pendingReloc.foldl State.applyReloc { s with embed := { s.embed with pendingReloc := [] } }).discardAccums
  let e := s1.embed.decay
  let e1 : Embed := { e with
    forwards := e.forwards.filter (fun f => f.lastStep != ended.setWidth 32)
    lookupLogs := []
    serveLogs := []
    replicas := e.replicas.map (fun r => match r.nextWeights with
      | some w => { r with weights := w, nextWeights := none }
      | none => r) }
  let e2 : Embed := { e1 with
    migrated := e1.migrated.filter (fun z => decide (ended.toNat < z.2.2.toNat + 5))
    refused := e1.refused.filter (fun z => decide (ended.toNat < z.2.2.toNat))
    policy := e1.pendingPolicy.getD e1.policy
    pendingPolicy := none }
  { s1 with embed := e2 }

end Sys2Proof.Machine
end

