-- ==== Sys2Proof/Machine/ScatterUnit.lean ====
section
/-! DEFINITION. Scatters (R125 to R130) with the commands of the memory-side adders (R415, R416) and of the slices (R430). -/
namespace Sys2Proof.Machine

/-! ### GRAPH.SCATTER -/

/-- The other fields of R125. -/
def scOp (p : List Byte) : Nat := field p 33 1
def scIndex (p : List Byte) : Nat := field p 34 1
def scTable (p : List Byte) : Nat := field p 38 1
def scList (p : List Byte) : Nat := field p 40 8
def scSrc (p : List Byte) : Nat := field p 48 8
def scCount (p : List Byte) : Nat := field p 68 4

/-- The element type of DTYPE. -/
def scTy (p : List Byte) : ElemTy := match scDtype p with
  | 0 => .fp32
  | 1 => .int32
  | _ => .int64

/-- Entries: those of the path log, or of the index array. -/
def State.scEntries (s : State) (p : List Byte) : Nat := if scIndex p = 2 then scCount p else field (s.read (scList p) 64).data 12 4

/-- The list of a scatter can be judged. -/
def State.scReadable (s : State) (p : List Byte) : Bool := decide (scIndex p = 2) || ((s.read (scList p) 64).good && (s.rangeReason (scList p) 64).isNone)

def graphScatterInfo : OpInfo where
  code := 0x2130
  len := some 32
  used := [(32, 7), (40, 32)]
  static := fun p =>
    let k := scKind p
    [ bAlign (decide (scDest p % scElemBytes p ≠ 0)) 56,
      bParam (decide (2 < k)) 0 32,
      bParam (decide (3 < scOp p) || (decide (k = 1) != decide (scOp p ≠ 0))) 0 33,
      bParam (decide (2 < scIndex p) || (decide (k = 2) && decide (scIndex p ≠ 1))) 0 34,
      bParam (decide (2 < scDtype p) || (decide (k = 2) && decide (scDtype p ≠ 0))) 0 35,
      bParam (decide (scElems p = 0) || decide (4096 < scElems p)) 0 36,
      bParam (decide (k ≠ 2) && decide (scTable p ≠ 0)) 0 38,
      bParam (decide (k = 2) && decide (scDest p ≠ 0)) 0 56,
      bParam (decide (k = 2) && decide (scRows p ≠ 0)) 0 64,
      bParam (decide (scIndex p ≠ 2) && decide (scCount p ≠ 0)) 0 68,
      bParam (decide (k = 0) && inDirect (scDest p)) 0x96 56,
      bParam (decide (k = 1) && inScratch (scDest p)) 0x96 56 ]
  dyn := fun s c =>
    let p := c.pkt
    jobBreach s
      ++ (if scKind p = 2 then (match s.etable? (scTable p) with
          | none => [bParam true 0 38]
          | some t => [bParam (decide (t.key ≠ 0)) 0 38, bParam (decide (t.width ≠ scElems p)) 0 36])
        else if scRows p = 0 then [] else rangeBreach s c (scDestRange p).1 (scDestRange p).2 56)
      ++ (if scIndex p = 2 then (if scCount p = 0 then [] else rangeBreach s c (scList p) (4 * scCount p) 40) else pathLogBreach s c (scList p) 40)
      ++ (if !s.scReadable p || s.scEntries p = 0 then [] else rangeBreach s c (scSrc p) (rowsBytes (s.scEntries p) (scPitch p) (scElems p * scElemBytes p)) 48)

/-- The index of each entry: a destination row, a node, or the failure of R130, of R125, or of the list words that give it. -/
def State.scIndices (s : State) (p : List Byte) : List (ItemFail ⊕ Nat) :=
  let row (n : Nat) : ItemFail ⊕ Nat := if scRows p ≤ n then .inl ⟨stIndexRange, 0x06⟩ else .inr n
  if scIndex p = 2 then (((chunks 4 (s.read (scList p) (4 * scCount p)).data).map leNat).zipIdx).map (fun (n, i) => match s.failOf [(scList p + 4 * i, 4)] with
    | some f => .inl f
    | none => row n)
  else (((s.pathLog (scList p)).entries).zipIdx).map (fun (e, i) => match s.logEntryFail (scList p) i with
    | some f => .inl f
    | none =>
      if scIndex p = 0 then row e.parentPos
      else if scKind p = 2 then .inr e.node
      else if ownerOf e.node ≠ s.rank then .inl ⟨stIndexRange, 0x01⟩ else row (localOf e.node))

/-- The SRC row of an entry. -/
def scSrcRange (p : List Byte) (i : Nat) : Nat × Nat := (scSrc p + i * scPitch p, scElems p * scElemBytes p)

/-- The reads that give the list. -/
def State.scListReads (s : State) (p : List Byte) : List (Nat × Nat) :=
  if scIndex p = 2 then [(scList p, 4 * scCount p)] else logRanges (scList p) (s.read (scList p) 64).data

/-- The entries that contribute, with entry number, index and row values; the failures of the others. -/
def State.scRowsOf (s : State) (p : List Byte) : List (Nat × Nat × List Nat) × List (Nat × ItemFail) :=
  let xs := ((s.scIndices p).zipIdx).map (fun (x, i) =>
    match x with
    | .inl f => Sum.inr (i, f)
    | .inr n => match readStatus (s.read (scSrcRange p i).1 (scSrcRange p i).2) with
      | some r => Sum.inr (i, (⟨r.status, 0⟩ : ItemFail))
      | none => Sum.inl (i, n, elemsOf (scTy p) (s.read (scSrcRange p i).1 (scSrcRange p i).2).data))
  (xs.filterMap (fun x => match x with
    | .inl a => some a
    | .inr _ => none), xs.filterMap (fun x => match x with
    | .inl _ => none
    | .inr f => some f))

/-- An input named as a whole is poisoned (R583). -/
def State.scPoisoned (s : State) (p : List Byte) : Bool :=
  (decide (scIndex p ≠ 2) && (s.pathLog (scList p)).poisoned) || !(s.readAll (s.scListReads p)).poisoned.isEmpty
    || !(s.readAll ((List.range (s.scEntries p)).map (scSrcRange p))).poisoned.isEmpty

/-- One contribution to a destination row: the first of its entries, the row, its values. -/
structure RowAdd where
  item : Nat
  row : Nat
  vals : List Nat
  deriving DecidableEq, Repr, Inhabited

/-- Entries grouped by destination row, rows in the order of their first entries, each group folded into one contribution. -/
def groupRows (fold : List (List Nat) → AddM (List Nat)) (es : List (Nat × Nat × List Nat)) : AddM (List RowAdd) :=
  ((es.map (·.2.1)).dedup).mapM (fun row => do
    let g := es.filter (fun e => e.2.1 == row)
    let v ← fold (g.map (·.2.2))
    pure ⟨(g.map (·.1)).foldl min ((g.headD default).1), row, v⟩)

/-- Contributions of a command: one per run of 64 entries and row, summed in entry order (R127); or one per row, summed pairwise, under deterministic merge (R129). -/
def scContributions (det : Bool) (ty : ElemTy) (es : List (Nat × Nat × List Nat)) : AddM (List RowAdd) := do
  if det then groupRows (rowTree ty 64) es
  else do
    let runs := ((es.map (fun e => e.1 / 64)).dedup).map (fun j => es.filter (fun e => decide (e.1 / 64 = j)))
    let gs ← runs.mapM (groupRows (rowChain ty))
    pure gs.flatten

/-- The order in which contributions meet at their places: a free order (R126). -/
def arrivalOrder {α : Type} (draw : Nat) (xs : List α) : List α :=
  (sortBy (fun (a b : α × Nat) => decide (Config.arrivalKey draw a.2 ≤ Config.arrivalKey draw b.2)) xs.zipIdx).map (·.1)

/-- One contribution added to a row in scratch by the vector unit of its ridge (R126). -/
def State.scratchAdd (p : List Byte) (acc : State × List (Nat × ItemFail)) (r : RowAdd) : State × List (Nat × ItemFail) :=
  let s := acc.1
  let n := scElems p * scElemBytes p
  let a := scDest p + r.row * scPitch p
  let rr := s.read a n
  let s1 := s.noteRead 0 a n
  match readStatus rr with
  | some x => (s1, acc.2 ++ [(r.item, ⟨x.status, 0⟩)])
  | none =>
    let v := (rowAdd (scTy p) (elemsOf (scTy p) rr.data) r.vals).run (0, 0)
    ((((s1.countAdds v.2).store 0 a (elemBytes (scTy p) v.1))).1, acc.2)

/-- The add requests of a contribution to GDDR-7 (R415). -/
def sectorAdds (p : List Byte) (r : RowAdd) : List AddReq := addReqs (scTy p) (scDest p + r.row * scPitch p) r.vals

/-- The atomics of one entry (R126). -/
def entryAtoms (p : List Byte) (e : Nat × Nat × List Nat) : List AtomReq :=
  (e.2.2.zipIdx).map (fun (v, j) => ⟨scDest p + e.2.1 * scPitch p + j * scElemBytes p, match scOp p with
    | 1 => .min
    | 2 => .max
    | _ => .swap, scTy p, v, 0⟩)

/-- The contributions of a scatter to embedding rows: combined in runs as R127 states, or one per entry under deterministic merge (R129). -/
def Contributed.scatter (k : Contributed) (t : ETable) (origin : Nat) (xs : List RowAdd) : Contributed :=
  xs.foldl (fun k r => match t.keyFault k.state.jobN r.row with
    | some f => { k with fails := k.fails ++ [(r.item, ⟨stIndexRange, f⟩)] }
    | none => k.row t r.row origin r.item r.item (r.vals.map (BitVec.ofNat 32 ·))) k

/-- A scatter begins (R126 to R130). A list whose header cannot be read ends it; a poisoned list or SRC is an input poisoned as a whole, and an uncorrectable word the failure of its entry (R583). -/
def effectGraphScatter (s : State) (c : Ctx) : State × Option Result :=
  let p := c.pkt
  match if scIndex p = 2 || (s.read (scList p) 64).uncorr.isEmpty then none else some (resStatus stUncorrected) with
  | some r => (s.poisonRanges 1 (scatterOuts p), some r)
  | none =>
    let s1 := (s.noteReads 1 (s.scListReads p ++ (List.range (s.scEntries p)).map (scSrcRange p))).issued c
    let x := s.scRowsOf p
    let poisoned := s.scPoisoned p
    let fail := x.2.foldl lowerFail none
    let det := s1.embed.policy.detMerge
    match scKind p with
    | 2 => match s1.etable? (scTable p) with
      | none => (s1, some (badParam 0 38))
      | some t =>
        let xs := if det then (x.1.map (fun e => (⟨e.1, e.2.1, e.2.2⟩ : RowAdd)), (0, 0)) else (scContributions false (scTy p) x.1).run (0, 0)
        let k := Contributed.scatter ⟨s1.countAdds xs.2, [], []⟩ t (s1.originOf c) xs.1
        (k.state.awaitScatter ⟨c.id, [], [], k.acks, poisoned, k.fails.foldl lowerFail fail⟩, none)
    | 1 => (s1.awaitScatter ⟨c.id, [], x.1.flatMap (entryAtoms p), [], poisoned, fail⟩, none)
    | _ =>
      let k := (scContributions det (scTy p) x.1).run (0, 0)
      let s2 := s1.countAdds k.2
      if inScratch (scDest p) then
        let d := s2.draw
        let r := (arrivalOrder d.1 k.1).foldl (State.scratchAdd p) (d.2, [])
        (r.1.awaitScatter ⟨c.id, [], [], [], poisoned, r.2.foldl lowerFail fail⟩, none)
      else (s2.awaitScatter ⟨c.id, k.1.flatMap (sectorAdds p), [], [], poisoned, fail⟩, none)

/-- GRAPH.SCATTER (R126). -/
def execGraphScatter (id : Nat) (s : State) : Out State := .next (s.settle (s.runCmd graphScatterInfo id effectGraphScatter))

/-- The lowest entry of a scatter that names the row at an address (R583). -/
def State.scItemAt (s : State) (p : List Byte) (a : Nat) : Nat :=
  let row := (a + 31 - scDest p) / scPitch p
  let rows := (s.scIndices p).map (fun x => match x with
    | .inl _ => none
    | .inr n => some n)
  rows.findIdx (fun n => n == some row || n == some ((a - scDest p) / scPitch p))

/-- The packet of a command. -/
def State.pktOf (s : State) (id : Nat) : List Byte := ((s.cmd? id).map (·.pkt)).getD []

/-- A pending add or atomic of a command is done: its failure, if any, is kept, and the command ends when it was the last. -/
def State.scatterDone (s : State) (id : Nat) (addr : Nat) (f : Scatter → Scatter) (st : Option Byte) : State :=
  let item := s.scItemAt (s.pktOf id) addr
  let upd (x : Scatter) : Scatter := match st with
    | none => f x
    | some b => { f x with fail := lowerFail x.fail (item, ⟨b, 0⟩) }
  ({ s with scatters := mapWhere (fun x => x.cmd == id) upd s.scatters }).finishScatter id

/-- MEMORY_SIDE_ADD (R415). -/
def execMemorySideAdd (id : Nat) (r : AddReq) (s : State) : Out State :=
  .next (s.settle (match s.scatters.find? (fun x => x.cmd == id) with
    | none => s
    | some x =>
      if !x.adds.contains r then s else
      let k := s.memoryAdd r
      k.1.scatterDone id r.addr (fun x => { x with adds := x.adds.erase r }) k.2))

/-- SLICE_ATOMIC (R430). -/
def execSliceAtomic (id : Nat) (r : AtomReq) (s : State) : Out State :=
  .next (s.settle (match s.scatters.find? (fun x => x.cmd == id) with
    | none => s
    | some x =>
      if !x.atomics.contains r then s else
      let k := s.sliceAtomic r
      let st : Option Byte := match k.2 with
        | .inl b => some b
        | .inr _ => none
      k.1.scatterDone id r.addr (fun x => { x with atomics := x.atomics.erase r }) st))

/-- ADD_BUFFER_EVICT (R416). -/
def execAddBufferEvict (port sector : Nat) (s : State) : Out State :=
  .next (s.settle (s.updMemPort port (fun m => { m with addBuffer := m.addBuffer.filter (· != sector) })))

end Sys2Proof.Machine
end

