-- ==== Sys2Proof/Machine/MemUnit.lean ====
section
/-! DEFINITION. The GDDR-7 system and the MEM family (R392 to R435): build record, shares and policy, refresh, timing samples and retrains, row remapping, patrol scrubbing of GDDR-7, scratch and cache,
held writes, the cache split, copies, fills and atomics. -/
namespace Sys2Proof.Machine

/-! ### Ports -/

/-- A port's record, present ports alone. -/
def State.memPort? (s : State) (p : Nat) : Option MemPort := s.gddr.ports.find? (fun m => m.num == p && m.present)

/-- The refresh rate in force on a port: the highest of what its temperature asks for, quadruple under SENSOR_FAULT, and the minimum of MEM.POLICY (R407 to R409). -/
def State.refreshOf (s : State) (m : MemPort) : Nat := max (max m.refresh (if m.sensorFault then 2 else 0)) s.gddr.minRefresh

/-- A rational as a 32-bit two's complement value, rounded down. -/
def ratWord (q : Rat) : Nat := (BitVec.ofInt 32 q.floor).toNat

/-- A rational as an 8-bit two's complement value, rounded down and held to the range. -/
def ratByte (q : Rat) : Byte := BitVec.ofInt 8 (max (-128) (min 127 q.floor))

/-- The hottest plausible reading of a port, 0 before the first. -/
def MemPort.temp (m : MemPort) : Rat := m.lastTemp.getD 0

/-- A change of a port's refresh rate is logged (R408, R484). -/
def State.refreshLogged (s : State) (old : Nat) (p cause : Nat) : State :=
  match s.memPort? p with
  | none => s
  | some m => if s.refreshOf m = old then s else s.decision 1 p [old, s.refreshOf m, ratWord m.temp] 0 cause

/-! ### Retrains (R401) -/

/-- A port's margin in hundredths of a percent, as logged. -/
def marginWord (q : Rat) : Nat := ratClamp (q * 100) 0 0xFFFFFFFF

/-- A port begins its retrain: its accesses wait. The retrain is logged with the port's trained margin and the one last measured (R401, R484). -/
def State.startRetrain (s : State) (p cause : Nat) : State :=
  match s.memPort? p with
  | none => s
  | some m =>
    if m.retraining then s
    else (s.updMemPort p (fun m => { m with retraining := true, retrainPending := false })).decision 2 p [marginWord m.trainedMargin, marginWord m.measuredMargin] 0 cause

/-- MEM_TIMING_SAMPLE (R401): below half of the trained margin the port is retrained at the next boundary, or at once when no step runs; below a quarter at once. -/
def execMemTimingSample (port : Nat) (margin : Rat) (s : State) : Out State :=
  .next (s.settle (match s.memPort? port with
    | none => s
    | some m =>
      if m.retraining then s else
      let s1 := s.updMemPort port (fun m => { m with measuredMargin := margin })
      if m.trainedMargin / 2 ≤ margin then s1
      else if margin < m.trainedMargin / 4 ∨ !s.stepRunning then s1.startRetrain port 0
      else s1.updMemPort port (fun m => { m with retrainPending := true })))

/-- MEM_PORT_RETRAIN_DONE (R401): waiting accesses resume; a port that fails its retrain at its running rate raises the wave (R488). -/
def execMemPortRetrainDone (port : Nat) (ok : Bool) (margin : Rat) (s : State) : Out State :=
  .next (s.settle (match s.memPort? port with
    | none => s
    | some m =>
      if !m.retraining then s else
      let s := s.updMemPort port (fun m => { m with retraining := false, measuredMargin := margin, trainedMargin := if ok then margin else m.trainedMargin })
      if ok then s.memEvent port (fun g => { g with evRetrain := true })
      else (s.decision 2 port [marginWord m.trainedMargin, marginWord margin] 2 3).raiseWave 0x0F 0))

/-! ### Refresh (R407 to R409) -/

/-- A temperature reading is plausible (R407). -/
def plausibleTemp (lo hi : Rat) (last : Option Rat) (reading : Option Rat) : Bool :=
  match reading with
  | none => false
  | some t => decide (lo ≤ t) && decide (t ≤ hi) && (match last with
    | none => true
    | some u => decide (|t - u| ≤ 10))

/-- The rate after two consecutive readings (R408): the thresholds that both have reached, and those below which both lie. -/
def nextRefresh (rate : Nat) (a b : Rat) : Nat :=
  let lo := min a b
  let hi := max a b
  let up := if 95 ≤ lo then 2 else if 85 ≤ lo then max rate 1 else rate
  if hi < 82 then 0 else if hi < 92 then min up 1 else up

/-- A reading enters a port's record: plausible readings count towards the end of SENSOR_FAULT, implausible ones towards its start (R407). -/
def MemPort.take (m : MemPort) (reading : Option Rat) : MemPort :=
  if plausibleTemp (-40) 140 m.lastTemp reading then
    let t := reading.getD 0
    let two := decide (m.implausible = 0) && m.lastTemp.isSome
    let n := m.plausible + 1
    { m with
      implausible := 0
      plausible := min n 1000
      lastTemp := some t
      refresh := if two then nextRefresh m.refresh m.temp t else m.refresh
      sensorFault := m.sensorFault && decide (n < 1000) }
  else { m with implausible := min (m.implausible + 1) 3, plausible := 0, sensorFault := m.sensorFault || decide (2 ≤ m.implausible) }

/-- MEM_TEMP_READ (R408). From two consecutive readings of 105 °C on MEM_HOT is logged, from 110 °C the fault wave is raised. -/
def execMemTempRead (port : Nat) (reading : Option Rat) (s : State) : Out State :=
  .next (s.settle (match s.memPort? port with
    | none => s
    | some m =>
      let m2 := m.take reading
      let lo := min m.temp m2.temp
      let both := decide (m.implausible = 0) && decide (m2.implausible = 0) && m.lastTemp.isSome
      let s1 := s.updMemPort port (fun _ => m2)
      let s2 := if m2.sensorFault && !m.sensorFault then s1.memEvent port (fun g => { g with evSensor := true }) else s1
      let s3 := s2.refreshLogged (s.refreshOf m) port (if m2.sensorFault && !m.sensorFault then 3 else 0)
      let s4 := if both && decide (105 ≤ lo) then s3.decision 1 port [s.refreshOf m, s3.refreshOf m2, ratWord m2.temp] 0 0 else s3
      if both && decide (110 ≤ lo) then s4.raiseWave 0x0E 0 else s4))

/-! ### Row remapping (R410 to R413) -/

/-- The pre-remap row that a physical row of a channel serves: itself, or the row whose spare it is. -/
def MemPort.origin (m : MemPort) (ch row : Nat) : Nat := ((m.remaps.find? (fun e => e.channel == ch && e.spare == row)).map (·.row)).getD row

/-- A physical row is in use: a data row that is not remapped, or a spare that serves one (R394, R414). -/
def State.rowInUse (s : State) (m : MemPort) (ch row : Nat) : Bool :=
  decide (row < s.physRows) && (if row % 128 = 127 then m.remaps.any (fun e => e.channel == ch && e.spare == row)
    else !m.remaps.any (fun e => e.channel == ch && e.row == row))

/-- The spare is free: of the channel, serving no row and not marked bad. -/
def MemPort.spareFree (m : MemPort) (ch sp : Nat) : Bool :=
  !(m.remaps ++ m.badSpares).any (fun e => e.channel == ch && e.spare == sp)

/-- The free spare nearest to a row, the lower taking ties (R411): the search goes outwards over the spares 128 k + 127; fuel bounds the distance. -/
def MemPort.nearestSpare (m : MemPort) (ch rows row : Nat) : Option Nat :=
  let spares := (List.range (rows / 128)).map (fun k => 128 * k + 127)
  let free := spares.filter (fun sp => m.spareFree ch sp)
  free.foldl (fun (best : Option Nat) sp => match best with
    | none => some sp
    | some b => if max sp row - min sp row < max b row - min b row then some sp else some b) none

/-- The 32-byte words in error in a physical row of a channel. -/
def State.rowErrs (s : State) (port ch row : Nat) : List Nat :=
  (s.mem.errs.map (·.1)).filter (fun wa => inGddr wa && (let g := s.gddrPlace wa
    decide (g.1 = port) && decide (g.2.1 = ch) && decide (s.remapRow port ch g.2.2 = row)))

/-- A remap entry waits to be written to flash (R413). -/
def State.remapToFlash (s : State) (e : FlashRemap) : State :=
  { s with flash := { s.flash with remapWaiting := s.flash.remapWaiting ++ [e] } }

/-- A chosen row is remapped to a spare (R411): every correctable sector corrected, uncorrectable ones poisoned, the entry written; a spare that was itself chosen is marked bad. -/
def State.remapTo (s : State) (port ch row spare : Nat) (m : MemPort) : State :=
  let words := s.rowErrs port ch row
  let orig := m.origin ch row
  let cnt := assocGet m.counts (ch, row) 0
  let wasSpare := decide (orig ≠ row)
  let s1 := { s with mem := words.foldl Memory.copyWord s.mem }
  let s2 := s1.updMemPort port (fun m => { m with
    remaps := if wasSpare then mapWhere (fun e => e.channel == ch && e.row == orig) (fun e => { e with spare := spare }) m.remaps else m.remaps ++ [⟨ch, orig, spare⟩]
    badSpares := if wasSpare then m.badSpares ++ [⟨ch, orig, row⟩] else m.badSpares
    counts := m.counts.filter (fun e => e.1 != (ch, row)) })
  let s3 := if wasSpare then s2.remapToFlash ⟨port, ch, orig, row, false, true⟩ else s2
  ((s3.remapToFlash ⟨port, ch, orig, spare, false, false⟩).memEvent port (fun g => { g with evRemap := true })).decision 3 port [row, spare, cnt] 0 0

/-- ROW_REMAP (R411, R412): the port's oldest chosen row is remapped; with a full table or no free spare it stays and REMAP_FULL is set. -/
def execRowRemap (port : Nat) (s : State) : Out State :=
  .next (s.settle (match s.memPort? port with
    | none => s
    | some m => match m.remapQueue with
      | [] => s
      | (ch, row) :: rest =>
        let s1 := s.updMemPort port (fun m => { m with remapQueue := rest })
        if s.gddr.pinRemap then s1
        else if !s.rowInUse m ch row then s1
        else match if 4096 ≤ m.remaps.length ∧ m.origin ch row = row then none else m.nearestSpare ch s.physRows row with
          | some sp => s1.remapTo port ch row sp m
          | none => ((s1.updMemPort port (fun m => { m with remapFull := true })).memEvent port (fun g => { g with evRemapFull := true })).decision 3 port
              [row, 0, assocGet m.counts (ch, row) 0] 2 0))

/-- Entries of the row-remap record that no later entry supersedes and that are not released (R522). -/
def liveRemaps (es : List FlashRemap) : List FlashRemap :=
  let same (a b : FlashRemap) : Bool := a.port == b.port && a.channel == b.channel && a.row == b.row
  ((es.zipIdx).filter (fun (e, i) => !e.released && !(es.drop (i + 1)).any (fun f => same e f))).map (·.1)

/-- An entry of the row-remap record is written; a half seven-eighths full is compacted into the other half first (R522): 131,071 entries of 16 bytes fit beside the header. -/
def Flash.writeRemap (f : Flash) (e : FlashRemap) : Flash :=
  let f1 := if 16 + 16 * (f.remapUsed + 1) > 2 ^ 21 * 7 / 8 then
      let l := liveRemaps f.remaps
      { f with remaps := l, remapUsed := l.length, remapGen := f.remapGen + 1 }
    else f
  { f1 with remaps := f1.remaps ++ [e], remapUsed := f1.remapUsed + 1 }

/-- REMAP_FLASH_WRITE (R413). -/
def execRemapFlashWrite (s : State) : Out State :=
  .next (s.settle (match s.flash.remapWaiting with
    | [] => s
    | e :: rest => { s with flash := { (s.flash.writeRemap e) with remapWaiting := rest } }))

/-! ### Patrol scrubbing -/

/-- The last row that a patrol pass of a port reads (R414): the highest row in use of channel 3. -/
def State.lastScrubbed (s : State) (m : MemPort) : Nat :=
  let top := s.physRows - 1
  if s.rowInUse m 3 top then top else top - 1

/-- The GDDR-7 lines that a physical row of a channel holds (R396): the eight of the logical row that it serves. -/
def State.rowLines (s : State) (m : MemPort) (ch row : Nat) : List Nat :=
  let p := m.origin ch row
  let k := 4 * (s.presentPorts.takeWhile (· != m.num)).length + ch
  (List.range 8).map (fun i => (8 * (p - p / 128) + i) * max s.channels 1 + k)

/-- GDDR_SCRUB (R414): a row in use is read with its check bursts; corrected sectors are repaired and counted, an uncorrectable one has its row chosen (R410). The port's counts clear when a pass completes. -/
def execGddrScrub (port channel row : Nat) (s : State) : Out State :=
  .next (s.settle (match s.memPort? port with
    | none => s
    | some m =>
      if m.retraining ∨ 4 ≤ channel ∨ !s.rowInUse m channel row then s else
      let words := s.rowErrs port channel row
      let s1 := words.foldl (fun s wa =>
        match (s.mem.readWord wa (cellRead s.mem.cells wa 32)).1 with
        | .corrected _ _ => ({ s with mem := s.mem.repair wa }).noteCorrected wa
        | .uncorrectable => s.noteUncorr wa
        | .clean => s) (s.useBursts (s.rowLines m channel row))
      if channel = 3 ∧ row = s.lastScrubbed m then s1.updMemPort port (fun m => { m with counts := [] }) else s1))

/-- A patrol of one word of scratch or cache: a corrected word is written back, an uncorrectable one overwritten with the poison pattern and counted (R473). -/
def State.patrolWord (s : State) (wa : Nat) : State :=
  match (s.mem.readWord wa (cellRead s.mem.cells wa 32)).1 with
  | .corrected _ _ => ({ s with mem := s.mem.repair wa }).noteCorrected wa
  | .uncorrectable => ({ s with mem := s.mem.putWords wa poisonWord }).noteUncorr wa
  | .clean => s

/-- Words of a ridge's scratch. -/
def scratchWords : Nat := scratchBytes / 32

/-- SCRATCH_PATROL (R473, R474): a word of a physical ridge's scratch. The counts of the scratch period end with its last word. -/
def execScratchPatrol (ridge word : Nat) (s : State) : Out State :=
  .next (s.settle (
    if !s.enabled.contains ridge ∨ scratchWords ≤ word then s else
    let s1 := s.patrolWord (scratchBase + s.logical ridge * 0x2000000 + 32 * word)
    if word + 1 = scratchWords then { s1 with mem := { s1.mem with bankCorr := s1.mem.bankCorr.filter (fun e => e.1.1 != ridge) } } else s1))

/-- The device address of a word of a slice, in the direct region (R424). -/
def directAddr (slice word : Nat) : Nat := directBase + (32 * word / 256 * 8 + slice) * 256 + 32 * word % 256

/-- CACHE_PATROL (R473): words of the direct region; the words of lines that the caching region holds are kept at their GDDR-7 addresses. -/
def execCachePatrol (slice word : Nat) (s : State) : Out State :=
  .next (s.settle (if 8 ≤ slice ∨ s.mem.direct * 2 ^ 20 ≤ 32 * word then s else s.patrolWord (directAddr slice word)))

/-- QUARANTINE_COPY_DONE (R474): the stand-in copies complete, and the step begin that waited proceeds. -/
def execQuarantineCopyDone (s : State) : Out State := .next (s.settle { s with mem := { s.mem with copying := [] } })

/-- The channel of a GDDR-7 address, counted over present ports (R396). -/
def State.channelOf (s : State) (a : Nat) : Nat := (a - gddrBase) / 256 % max s.channels 1

/-- The lines of sectors, each once. -/
def linesOfSectors (ws : List Nat) : List Nat := (ws.map (fun a => (a - gddrBase) / 256)).dedup

/-- MEM_WRITE_BATCH_SEND (R404): the sectors that wait at the channel are written, with the check bursts of their lines (R398). -/
def execMemWriteBatchSend (channel : Nat) (s : State) : Out State :=
  .next (s.settle (({ s with mem := { s.mem with held := s.mem.held.filter (fun a => decide (s.channelOf a ≠ channel)) } }).useBursts
    (linesOfSectors (s.mem.held.filter (fun a => decide (s.channelOf a = channel))))))

/-! ### MEM 0x9000 to 0x90FF (R417, R418) -/

/-- The 64-byte build record (R418). -/
def State.buildRecord (s : State) : List Byte :=
  padTo 64 (toLE 4 (maskOf s.presentPorts) ++ [BitVec.ofNat 8 s.gddr.density, BitVec.ofNat 8 (bnat s.gddr.clamshell), BitVec.ofNat 8 (28 + 2 * s.gddr.rate), 0]
    ++ toLE 4 s.physRows ++ toLE 4 s.usableRows ++ toLE 8 s.capacity
    ++ (List.range 24).map (fun n => match s.memPort? n with
      | some m => BitVec.ofNat 8 (s.refreshOf m)
      | none => 0))

def memInfoInfo : OpInfo where
  code := 0x9001
  used := [(40, 8)]
  reason := 0x91
  static := fun p => [bAlign (decide (field p 40 8 % 32 ≠ 0)) 40]
  dyn := fun s c => rangeBreach s c (c.f 40 8) 64 40

/-- The result of a store: what its partial words met. -/
def storedResult (w : WriteRes) : Option Result := some ((writeStatus w).getD resOK)

def effectMemInfo (s : State) (c : Ctx) : State × Option Result :=
  let r := s.storeAt c 4 (c.f 40 8) s.buildRecord
  (r.1, storedResult r.2)

/-- MEM.INFO (R418). -/
def execMemInfo (id : Nat) (s : State) : Out State := .next (s.settle (s.runCmd memInfoInfo id effectMemInfo))

def memShareInfo : OpInfo where
  code := 0x9002
  used := [(32, 6)]
  reason := 0x91
  static := fun p => (List.range 6).map (fun i => bParam (decide (field p (32 + i) 1 = 0)) 0x91 (32 + i))

def effectMemShare (s : State) (c : Ctx) : State × Option Result :=
  let w := (List.range 6).map (fun i => c.f (32 + i) 1)
  ({ s with gddr := { s.gddr with pendingWeights := some w } }, some resOK)

/-- MEM.SHARE (R406): from the next step boundary. -/
def execMemShare (id : Nat) (s : State) : Out State := .next (s.settle (s.runCmd memShareInfo id effectMemShare))

def memPolicyInfo : OpInfo where
  code := 0x9003
  used := [(32, 3), (36, 4)]
  reason := 0x91
  static := fun p =>
    [ bParam (decide (2 < field p 32 1)) 0x91 32, bParam (decide (1 < field p 34 1)) 0x91 34,
      bParam (decide (field p 36 4 < 600) || decide (86400 < field p 36 4)) 0x91 36 ]

def effectMemPolicy (s : State) (c : Ctx) : State × Option Result :=
  let t := c.f 33 1
  let s1 := { s with gddr := { s.gddr with minRefresh := c.f 32 1, threshold := if t = 0 then 8 else t, pinRemap := bitAt (c.f 34 1) 0, scrubPeriod := c.f 36 4 } }
  let olds := s.presentPorts.map (fun p => (p, match s.memPort? p with
    | some m => s.refreshOf m
    | none => 0))
  (olds.foldl (fun s o => s.refreshLogged o.2 o.1 1) s1, some resOK)

/-- MEM.POLICY (R417). -/
def execMemPolicy (id : Nat) (s : State) : Out State := .next (s.settle (s.runCmd memPolicyInfo id effectMemPolicy))

/-- The remap entries of a port as MEM.REMAP_READ writes them: those in use, then the spares marked bad, each with the row that it served; at most 4,096. -/
def MemPort.remapBytes (m : MemPort) : List Byte :=
  ((m.remaps.map (fun e => (e, 0)) ++ m.badSpares.map (fun e => (e, 2 ^ 31))).take 4096).flatMap (fun (x : Remap × Nat) => toLE 4 x.1.row ++ toLE 4 (x.1.spare + x.2))

/-- The check of a port named in byte 32: 0x91 beyond the ports, 0x92 absent. -/
def portBreach (s : State) (c : Ctx) : List Breach :=
  let p := c.f 32 1
  [bParam (decide (23 < p)) 0x91 32, bParam (decide (p ≤ 23) && (s.memPort? p).isNone) 0x92 32]

def memRemapReadInfo : OpInfo where
  code := 0x9004
  used := [(32, 1), (40, 8)]
  reason := 0x91
  static := fun p => [bAlign (decide (field p 40 8 % 32 ≠ 0)) 40]
  dyn := fun s c => portBreach s c ++ rangeBreach s c (c.f 40 8) (match s.memPort? (c.f 32 1) with
    | some m => m.remapBytes.length
    | none => 0) 40

def effectMemRemapRead (s : State) (c : Ctx) : State × Option Result :=
  match s.memPort? (c.f 32 1) with
  | none => (s, some (badParam 0x92 32))
  | some m =>
    let r := s.storeAt c 4 (c.f 40 8) m.remapBytes
    (r.1, storedResult r.2)

/-- MEM.REMAP_READ (R417). -/
def execMemRemapRead (id : Nat) (s : State) : Out State := .next (s.settle (s.runCmd memRemapReadInfo id effectMemRemapRead))

def memRetrainInfo : OpInfo where
  code := 0x9005
  used := [(32, 1)]
  reason := 0x91
  dyn := portBreach

def effectMemRetrain (s : State) (c : Ctx) : State × Option Result := (s.startRetrain (c.f 32 1) 1, some resOK)

/-- MEM.RETRAIN (R417). -/
def execMemRetrain (id : Nat) (s : State) : Out State := .next (s.settle (s.runCmd memRetrainInfo id effectMemRetrain))

/-! ### MEM 0x9100 to 0x9FFF (R432 to R435, R585) -/

/-- Every dirty line is written back and stays valid. -/
def Memory.flush (m : Memory) : Memory :=
  let d := m.lines.filter (·.dirty)
  { (m.hold (d.flatMap (fun c => sectorsOf (lineAddr c.line) 256))) with lines := m.lines.map (fun c => { c with dirty := false }) }

def memCacheSplitInfo : OpInfo where
  code := 0x9101
  used := [(32, 1)]
  reason := 0x91
  static := fun p => [bParam (decide (20 < field p 32 1)) 0x91 32]
  dyn := fun s _ => [bBusy s.planLoaded 0]

/-- The caching region is written back and invalidated, contents of the direct region beyond the new one are discarded, and the split applies (R433). -/
def Memory.split (m : Memory) (d : Nat) : Memory :=
  let lo := directBase + 8 * d * 2 ^ 20
  let n := 8 * (m.direct - d) * 2 ^ 20
  { m.flush with
    lines := []
    direct := d
    cells := if n = 0 then m.cells else cellErase m.cells lo n
    errs := m.errs.filter (fun e => decide (e.1 < lo) || decide (lo + n ≤ e.1)) }

def effectMemCacheSplit (s : State) (c : Ctx) : State × Option Result := ({ s with mem := s.mem.split (c.f 32 1) }, some resOK)

/-- MEM.CACHE_SPLIT (R433). -/
def execMemCacheSplit (id : Nat) (s : State) : Out State := .next (s.settle (s.runCmd memCacheSplitInfo id effectMemCacheSplit))

def memCacheFlushInfo : OpInfo where
  code := 0x9102
  reason := 0x91

def effectMemCacheFlush (s : State) (_ : Ctx) : State × Option Result :=
  ({ s with mem := s.mem.flush }, some (resIndex (s.mem.lines.filter (·.dirty)).length))

/-- MEM.CACHE_FLUSH (R433). -/
def execMemCacheFlush (id : Nat) (s : State) : Out State := .next (s.settle (s.runCmd memCacheFlushInfo id effectMemCacheFlush))

def memStackAreaInfo : OpInfo where
  code := 0x9103
  used := [(32, 1)]
  reason := 0x91
  static := fun p => [bParam (decide (24 < field p 32 1)) 0x91 32]
  dyn := fun s _ => [bBusy (s.planLoaded || !s.matrix.groups.isEmpty) 0]

def effectMemStackArea (s : State) (c : Ctx) : State × Option Result := ({ s with mem := { s.mem with stack := c.f 32 1 } }, some resOK)

/-- MEM.STACK_AREA (R585). -/
def execMemStackArea (id : Nat) (s : State) : Out State := .next (s.settle (s.runCmd memStackAreaInfo id effectMemStackArea))

def memCopyInfo : OpInfo where
  code := 0x9110
  used := [(40, 24)]
  reason := 0x91
  static := fun p =>
    let a := field p 40 8
    let d := field p 48 8
    let n := field p 56 8
    [ bAlign (decide (a % 32 ≠ 0)) 40, bAlign (decide (d % 32 ≠ 0)) 48, bAlign (decide (n % 32 ≠ 0)) 56,
      bParam (decide (a < d + n) && decide (d < a + n)) 0x95 40 ]
  dyn := fun s c => rangeBreach s c (c.f 40 8) (c.f 56 8) 40 ++ rangeBreach s c (c.f 48 8) (c.f 56 8) 48

/-- The words before the first uncorrectable one are copied; poison travels as data (R434, R490). -/
def effectMemCopy (s : State) (c : Ctx) : State × Option Result :=
  let a := c.f 40 8
  let n := c.f 56 8
  let r := s.readAt c a n
  let good := match r.uncorr with
    | [] => n
    | w :: _ => w - a
  let s1 := s.noteReadAt c 4 a (min n (good + 32))
  let k := s1.storeAt c 4 (c.f 48 8) (r.data.take good)
  (k.1, some (if r.uncorr.isEmpty then resOK else resStatus stUncorrected))

/-- MEM.COPY (R434). -/
def execMemCopy (id : Nat) (s : State) : Out State := .next (s.settle (s.runCmd memCopyInfo id effectMemCopy))

def memFillInfo : OpInfo where
  code := 0x9111
  len := some 32
  used := [(40, 16), (64, 32)]
  reason := 0x91
  static := fun p => [bAlign (decide (field p 40 8 % 32 ≠ 0)) 40, bAlign (decide (field p 48 8 % 32 ≠ 0)) 48]
  dyn := fun s c => rangeBreach s c (c.f 40 8) (c.f 48 8) 40

def effectMemFill (s : State) (c : Ctx) : State × Option Result :=
  let pat := (c.pkt.drop 64).take 32
  let r := s.storeAt c 4 (c.f 40 8) ((List.replicate (c.f 48 8 / 32) (padTo 32 pat)).flatten)
  (r.1, some resOK)

/-- MEM.FILL (R434). -/
def execMemFill (id : Nat) (s : State) : Out State := .next (s.settle (s.runCmd memFillInfo id effectMemFill))

/-- OP and TYPE of MEM.ATOMIC. -/
def atOp (p : List Byte) : AtomOp := nth [.min, .max, .swap, .cas, .add] (field p 32 1) .min
def atTy (p : List Byte) : ElemTy := nth [.int32, .int64, .uint32, .uint64, .fp32] (field p 33 1) .int32
def atAddr (p : List Byte) : Nat := field p 40 8
def atResult (p : List Byte) : Nat := field p 64 8

def memAtomicInfo : OpInfo where
  code := 0x9120
  len := some 32
  used := [(32, 2), (40, 32)]
  reason := 0x91
  static := fun p =>
    let a := atAddr p
    [ bAlign (decide (a % tyBytes (atTy p) ≠ 0)) 40,
      bParam (decide (4 < field p 32 1)) 0x91 32, bParam (decide (4 < field p 33 1)) 0x91 33,
      bParam (inScratch a || (inDirect a && decide (atOp p = .add))) 0x96 40 ]
  dyn := fun s c => bParam (s.mem.pinnedLine (atAddr c.pkt) && decide (atOp c.pkt ≠ .add)) 0x96 40 :: windowBreach s (atAddr c.pkt) (tyBytes (atTy c.pkt)) 40
    ++ rangeBreachOpt s c (atResult c.pkt) (tyBytes (atTy c.pkt)) 64

/-- The type under which an add is made: UINT wraps as INT (R435). -/
def addTy : ElemTy → ElemTy
  | .uint32 => .int32
  | .uint64 => .int64
  | t => t

/-- One element's add as a request to its port (R415). -/
def oneAdd (a : Nat) (ty : ElemTy) (v : Nat) : AddReq :=
  let n := tyBytes ty
  let k := a % 32 / n
  ⟨a / 32 * 32, ty, (List.range (32 / n)).map (fun i => decide (i = k)), padTo 32 (zeros (a % 32) ++ toLE n v)⟩

/-- The operation at its place (R429): the state, and the old value or the status of the read. -/
def State.memAtomicAt (s : State) (p : List Byte) : State × (Byte ⊕ Nat) :=
  let ty := atTy p
  let n := tyBytes ty
  let v := field p 48 8 % 256 ^ n
  if atOp p = .add then
    let old := leNat (s.read (atAddr p) n).data
    let k := s.memoryAdd (oneAdd (atAddr p) (addTy ty) v)
    (k.1, match k.2 with
      | some st => .inl st
      | none => .inr old)
  else s.sliceAtomic ⟨atAddr p, atOp p, ty, v, field p 56 8 % 256 ^ n⟩

def effectMemAtomic (s : State) (c : Ctx) : State × Option Result :=
  let p := c.pkt
  let n := tyBytes (atTy p)
  let k := s.memAtomicAt p
  match k.2 with
  | .inl st => (if atResult p = 0 ∨ (c.mailboxOffset (atResult p)).isSome then k.1 else k.1.poisonRanges 4 [(atResult p, n)], some (resStatus st))
  | .inr old =>
    if atResult p = 0 then (k.1, some resOK)
    else
      let r := k.1.storeAt c 4 (atResult p) (toLE n old)
      (r.1, storedResult r.2)

/-- MEM.ATOMIC (R435). -/
def execMemAtomic (id : Nat) (s : State) : Out State := .next (s.settle (s.runCmd memAtomicInfo id effectMemAtomic))

end Sys2Proof.Machine
end

