-- ==== Sys2Proof/Machine/PowerUnit.lean ====
section
/-! DEFINITION. Power, clock and thermal control and the POWER family (R446 to R471): domains, the estimator and the bubble law, calibration, the clock governor, droop, hints, junction sensors, the thermal trip,
and the board faults of R488. -/
namespace Sys2Proof.Machine

/-! ### Clock and voltage (R457) -/

/-- V(f) in volts at a clock code, f = code × 12.5 MHz. -/
def voltsAt (code : Nat) : Rat :=
  let f : Rat := code / 80
  if f ≤ 3 / 2 then max (65 / 100) (75 / 100 - 20 / 100 * (3 / 2 - f)) else 75 / 100 + 1 / 2 * (f - 3 / 2)

/-- The part's fused offset in millivolts, held to its range. -/
def fusedOffset : Rat := max (-25) (min 25 Config.railOffset)

/-- The set point of the core rail at a clock code: V(f) + OFFSET + GUARD. -/
def Power.setPoint (p : Power) (code : Nat) : Rat := voltsAt code + (fusedOffset + p.guard) / 1000

/-- The effective cap (R454): the lowest of the runtime cap, the board cap and the Staez default. -/
def Power.effectiveCap (p : Power) : Nat := min (min p.cap p.staezCap) (p.boardCap.getD p.cap)

/-- The board cap is the effective cap, and lower than the others. -/
def Power.boardBinds (p : Power) : Bool := match p.boardCap with
  | none => false
  | some b => decide (b < min p.cap p.staezCap)

/-! ### The estimator (R450, R455, R456) -/

/-- The counters of a hint class (R464): ridges, memory ports, link groups, at their positions in R450. -/
def State.classCounters (s : State) (cls : Nat) : List (Nat × Nat) :=
  match cls with
  | 0 => s.enabled.flatMap (fun r => (List.range 7).map (fun k => (r, k)))
  | 1 => s.presentPorts.flatMap (fun m => (List.range 4).map (fun k => (67 + m, k)))
  | _ => (List.range 16).flatMap (fun g => (List.range 2).map (fun k => (91 + g, k)))

/-- The count of a counter. -/
def countOf (cs : List Activity) (island counter : Nat) : Rat :=
  ((cs.filter (fun a => a.island == island && a.counter == counter)).map (fun a => (a.count : Rat))).sum

/-- The floor that the listed hints put under a counter: the largest LEVEL of its class times the class's full count. -/
def State.hintFloor (s : State) (hs : List Hint) (island counter : Nat) : Rat :=
  let ls := (hs.filter (fun h => (s.classCounters h.cls).contains (island, counter))).map (·.level)
  (ls.foldl max 0 : Nat) * (Config.fullCount island counter : Rat) / 100

/-- The weighted power in watts of a counter that counted c in 2 µs, with the gain on the calibrated rails. -/
def Power.watts (p : Power) (island counter : Nat) (c : Rat) : Rat :=
  c * Config.eventWeight island counter * 500000 * (if Config.onCoreRails island counter then p.gain else 1)

/-- Every counter that counted or that a listed hint floors. -/
def State.counters (s : State) (cs : List Activity) (hs : List Hint) : List (Nat × Nat) :=
  (cs.map (fun a => (a.island, a.counter)) ++ hs.flatMap (fun h => s.classCounters h.cls)).dedup

/-- Dynamic power of the counters that pass a test, their counts divided by the share of slots that bubbles leave. -/
def State.dynamic (s : State) (cs : List Activity) (hs : List Hint) (left : Rat) (p : Nat → Bool) : Rat :=
  (((s.counters cs hs).filter (fun k => p k.1)).map (fun k => s.power.watts k.1 k.2 (max (countOf cs k.1 k.2 / left) (s.hintFloor hs k.1 k.2)))).sum

/-- The domain of a link group is on: a port of it trains, or has trained lanes in it, active or not (R334, R337). -/
def State.groupOn (s : State) (g : Nat) : Bool :=
  s.link.ports.any (fun p => p.groups.contains g && match p.state with
    | .training | .handshake => true
    | .auth | .up | .authFailed => p.configured.any (fun l => l / 4 == g && (s.lane? l).any (fun x => !x.removed))
    | .none | .down | .failed => false)

/-- A power domain, by its position in the table of R16, is powered. -/
def State.domainOn (s : State) (d : Nat) : Bool :=
  if s.trip.pinLow && decide (d < 156) then false
  else if s.boot.state == .safe && decide (d < 164) then false
  else if d < 64 then s.ridges.any (fun r => r.num == d && r.matrixOn)
  else if d < 128 then s.ridges.any (fun r => r.num == d - 64 && r.enabled)
  else if d < 144 then s.groupOn (d - 128)
  else if d < 156 then s.presentPorts.contains (2 * (d - 144)) || s.presentPorts.contains (2 * (d - 144) + 1)
  else true

/-- The hottest plausible reading on the chip. -/
def hottestPlausible (xs : List Sensor) : Rat := (xs.filterMap (fun x => if x.faulted then none else x.last)).foldl max (-40)

/-- The value of a sensor: a faulted one is replaced by the hottest plausible reading plus 5 °C (R465). -/
def sensorValue (xs : List Sensor) (x : Sensor) : Rat := if x.faulted then hottestPlausible xs + 5 else x.last.getD (-40)

/-- Leakage of the powered domains. -/
def State.leakage (s : State) : Rat :=
  (((s.power.sensors.zipIdx).filter (fun x => s.domainOn x.2)).map (fun x => Config.leakage x.2 (sensorValue s.power.sensors x.1) s.power.rail)).sum

/-- An island is a ridge. -/
def isRidge (i : Nat) : Bool := decide (i < 64)

/-- The estimate without bubbles under some hints: all power, and the ridges' dynamic part (R455). -/
def State.unbubbled (s : State) (cs : List Activity) (hs : List Hint) : Rat × Rat :=
  let r := s.dynamic cs hs (1 - s.power.bubble) isRidge
  (r + s.dynamic cs hs 1 (fun i => !isRidge i) + s.leakage, r)

/-- The hints whose windows are open. -/
def openHints (hs : List Hint) : List Hint := hs.filter (fun h => decide (h.lead = 0))

/-- Time passes for the hints: 2 µs. -/
def ageHints (hs : List Hint) : List Hint :=
  (hs.map (fun h => if h.lead = 0 then { h with remain := h.remain - 2 } else { h with lead := h.lead - 2, remain := h.remain - (2 - min 2 h.lead) })).filter
    (fun h => decide (0 < h.remain))

/-- The bubble share of R455; held at 0.90 from 105 °C on (R466). -/
def bubbleShare (limit : Bool) (excess ridge : Rat) : Rat :=
  if limit then 9 / 10 else if excess ≤ 0 then 0 else if ridge ≤ 0 then 9 / 10 else min (9 / 10) (excess / ridge)

/-- What the counters of the islands counted: those of the ridges count nothing while their clocks are gated (R384). -/
def State.counted (s : State) (cs : List Activity) : List Activity := if s.ridgesGated then cs.filter (fun a => !isRidge a.island) else cs

/-- ESTIMATOR_TICK (R455): every 2 µs the estimate is formed and the bubble share set. -/
def execEstimatorTick (listed : List Activity) (s : State) : Out State :=
  .next (s.settle (
    let counts := s.counted listed
    let p := s.power
    let hs := openHints p.hints
    let u := s.unbubbled counts hs
    let est := s.dynamic counts hs 1 (fun _ => true) + s.leakage
    let b := bubbleShare p.limit (u.1 + p.overAmps - p.effectiveCap) u.2
    let unmet := decide (b = 9 / 10) && decide (p.freq ≤ 48) && decide ((p.effectiveCap : Rat) < u.1 - b * u.2)
    { s with power := { p with
        pEst := est
        estWindow := (est :: p.estWindow).take 50
        pUnb := u.1
        ridgeDyn := u.2
        lastCounts := counts
        overAmps := 0
        bubble := b
        hints := ageHints p.hints
        cause := if p.cause = 0 ∧ 0 < b ∧ !p.limit then (if p.boardBinds then 3 else 1) else p.cause
        evCapUnmet := p.evCapUnmet || unmet } }))

/-! ### Calibration (R451, R452) -/

/-- A current reading is implausible. -/
def Power.ampsBad (p : Power) (amps : Rat) (ok : Bool) : Bool :=
  !ok || decide (amps < 0) || decide (1300 < amps) || (match p.lastAmps with
    | none => false
    | some a => decide (400 < |amps - a|) && decide (|p.pEst - p.lastEst| < 100))

/-- A reading in milliwatt-free whole amperes, for the log. -/
def ampWord (q : Rat) : Nat := ratClamp q 0 0xFFFFFFFF

/-- The gain after an update: towards measured over estimated power, by at most 2 %, within 0.85 to 1.20 (R451). -/
def nextGain (k measured share : Rat) : Rat :=
  if share ≤ 0 then k else
  let want := k * measured / share
  max (85 / 100) (min (120 / 100) (max (k * (98 / 100)) (min (k * (102 / 100)) want)))

/-- CALIBRATION_TICK (R451, R452, R456). -/
def execCalibrationTick (amps volts shareWatts : Rat) (ok disturbed : Bool) (s : State) : Out State :=
  .next (s.settle (
    let p := s.power
    let bad := p.ampsBad amps ok
    let rs := (amps :: p.lastReadings).take 3
    let p1 := { p with lastReadings := rs, calBad := if bad then min (p.calBad + 1) 3 else 0, calGood := if bad then 0 else min (p.calGood + 1) 100 }
    if bad then
      if p1.calBad = 3 ∧ !p.calFallback then
        ({ s with power := { p1 with calFallback := true, gain := max p.gain (110 / 100), evCal := true } }).decision 7 0 (rs.map ampWord) 0 0
      else { s with power := p1 }
    else
      let leave := p.calFallback && decide (p1.calGood = 100)
      let frozen := p.calFallback && !leave
      let w := amps * volts
      let s1 := { s with power := { p1 with
        lastAmps := some amps
        lastEst := p.pEst
        measured := w
        overAmps := if (p.icc : Rat) < amps then (amps - p.icc) * volts else 0
        calFallback := frozen
        gain := if frozen || disturbed then p.gain else nextGain p.gain w shareWatts } }
      if leave then s1.decision 7 0 (rs.map ampWord) 0 0 else s1))

/-! ### The clock governor (R457 to R460) -/

/-- The power predicted at a clock code with b = 0 (R458): the ridges' dynamic power scaled by frequency and the square of voltage. -/
def Power.predicted (p : Power) (all ridge : Rat) (code : Nat) : Rat :=
  let now := max p.freq 1
  all - ridge + ridge * (code / now) * (p.setPoint code / p.setPoint now) ^ 2

/-- The codes of R457, highest first. -/
def clockCodes : List Nat := ((List.range 85).map (· + 48)).reverse

/-- The highest code that the cap allows, over the whole range; the lowest code when none does. -/
def Power.capCode (p : Power) (all ridge : Rat) : Nat :=
  (clockCodes.find? (fun c => decide (p.predicted all ridge c ≤ 98 / 100 * p.effectiveCap) && decide (p.setPoint c ≤ 85 / 100))).getD 48

/-- The target of the governor: F_MAX when pinned, else the highest code of the range that the cap allows, or F_MIN; the thermal limit alone takes it lower. -/
def Power.targetCode (p : Power) (capCode : Nat) : Nat :=
  let top := (clockCodes.find? (fun c => decide (c ≤ p.fMax) && decide (p.setPoint c ≤ 85 / 100))).getD 48
  min p.thermalCode (if p.pin then top else max p.fMin (min top capCode))

/-- The pace CAUSE of a clock held below 1.5 GHz (R460): of the limits below code 120, the lowest; among equal ones the cap, then the thermal limit (log 83). -/
def Power.clockCause (p : Power) (capCode : Nat) : Nat :=
  let cap := if p.pin then 132 else capCode
  let m := min (min cap p.thermalCode) p.fMax
  if 120 ≤ m then 0
  else if cap = m then (if p.boardBinds then 3 else 1)
  else if p.thermalCode = m then 2 else 4

/-- The clock changes to a code: logged with the old code and the target. -/
def State.clockTo (s : State) (code : Nat) : State :=
  if s.power.freq = code then s else
  ({ s with power := { s.power with freq := code } }).decision 5 0xFF [s.power.freq, code, s.power.target] 0 0

/-- GOVERNOR_TICK (R458, R459): a lowering changes the clock, then the rail; a raise sets the rail and waits for RAIL_SETTLED. Hints within their LEAD predict their windows' power (R464). -/
def execGovernorTick (s : State) : Out State :=
  .next (s.settle (
    let p := s.power
    let ahead := s.unbubbled p.lastCounts p.hints
    let all := if p.hints.isEmpty then p.pUnb else max p.pUnb ahead.1
    let ridge := if p.hints.isEmpty then p.ridgeDyn else max p.ridgeDyn ahead.2
    let cc := p.capCode all ridge
    let t := p.targetCode cc
    let s1 := { s with power := { p with target := t, raiseTo := none, railReported := false, cause := p.clockCause cc } }
    if t < p.freq then
      let c := max t (p.freq - 8)
      let s2 := s1.clockTo c
      { s2 with power := { s2.power with rail := s2.power.setPoint c } }
    else if p.freq < t then
      let c := min t (p.freq + 2)
      { s1 with power := { s1.power with raiseTo := some c, rail := s1.power.setPoint c } }
    else { s1 with power := { s1.power with rail := s1.power.setPoint p.freq } }))

/-- A stretch is in force on some ridge (R462). -/
def State.stretching (s : State) : Bool := s.ridges.any (·.stretching)

/-- A raise that waited is made. -/
def State.raiseClock (s : State) : State :=
  match s.power.raiseTo with
  | none => s
  | some c => ({ s with power := { s.power with raiseTo := none, railReported := false } }).clockTo c

/-- RAIL_SETTLED (R459, R468): the raise is made, or waits for the droop to clear. -/
def execRailSettled (s : State) : Out State :=
  .next (s.settle (if s.power.raiseTo.isNone then s
    else if s.power.droop then { s with power := { s.power with railReported := true } } else s.raiseClock))

/-- DROOP_CLEARED (R462, R468): for 1 µs no stretch has been in force on any ridge, and a raise that waited for it is made. -/
def execDroopCleared (s : State) : Out State :=
  .next (s.settle (
    if s.stretching then s else
    let s1 := { s with power := { s.power with droop := false } }
    if s.power.railReported then s1.raiseClock else s1))

/-! ### Droop (R461 to R463) -/

/-- DROOP_DETECT (R461): the ridge's clock stretches; each stretch counts once. -/
def execDroopDetect (ridge : Nat) (s : State) : Out State :=
  .next (s.settle (match s.ridge? ridge with
    | none => s
    | some r =>
      if r.stretching || !r.enabled then s
      else ({ s with power := { s.power with droop := true } }).updRidge ridge (fun r => { r with stretching := true, droops := satAdd32 r.droops 1 })))

/-- DROOP_STRETCH_END (R461). -/
def execDroopStretchEnd (ridge : Nat) (s : State) : Out State := .next (s.settle (s.updRidge ridge (fun r => { r with stretching := false })))

/-- GUARD_WINDOW (R463): share is the largest stretch share of any ridge in a 1 ms or, when long, a 100 ms window. -/
def execGuardWindow (long : Bool) (share : Rat) (s : State) : Out State :=
  .next (s.settle (
    let g := s.power.guard
    let n := if s.power.pinGuard then g
      else if !long && decide (1 / 100 < share) then min 25 (g + 5)
      else if long && decide (share ≤ 1 / 1000) then g - 5 else g
    if n = g then s else
    let p1 := { s.power with guard := n, evGuard := true }
    ({ s with power := { p1 with rail := p1.setPoint p1.freq } }).decision 6 0 [g, n, ratClamp (share * 10000) 0 10000] 0 0))

/-! ### Temperature (R465 to R467) -/

/-- A reading enters a sensor's record. -/
def Sensor.take (x : Sensor) (reading : Option Rat) : Sensor :=
  if plausibleTemp (-40) 150 x.last reading then
    let n := min (x.plausible + 1) 1000
    { last := reading, implausible := 0, plausible := n, faulted := x.faulted && decide (n < 1000) }
  else { x with implausible := min (x.implausible + 1) 3, plausible := 0, faulted := x.faulted || decide (2 ≤ x.implausible) }

/-- T_j and the first sensor that holds it. -/
def hottestOf (xs : List Sensor) : Rat × Nat :=
  (xs.zipIdx).foldl (fun (b : Rat × Nat) x => let v := sensorValue xs x.1
    if b.1 < v then (v, x.2) else b) (-40, 0)

/-- JUNCTION_SENSOR_READ (R465, R466). -/
def execJunctionSensorRead (readings : List (Option Rat)) (s : State) : Out State :=
  .next (s.settle (
    let p := s.power
    let xs := (p.sensors.zipIdx).map (fun x => x.1.take (readings.getD x.2 none))
    let newFault := (p.sensors.zip xs).any (fun x => !x.1.faulted && x.2.faulted)
    let h := hottestOf xs
    let throttle := decide (100 ≤ h.1) || (p.throttle && decide (97 ≤ h.1))
    let limit := decide (105 ≤ h.1) || (p.limit && decide (103 ≤ h.1))
    { s with power := { p with
        sensors := xs
        tj := h.1
        hottest := h.2
        throttle := throttle
        limit := limit
        thermalCode := if throttle then max 48 (p.thermalCode - 4) else min 132 (p.thermalCode + 2)
        bubble := if limit then 9 / 10 else p.bubble
        evSensor := p.evSensor || newFault
        evThrottle := p.evThrottle || (throttle && !p.throttle)
        evLimit := p.evLimit || (limit && !p.limit) } }))

/-- THERMAL_TRIP (R467): halt cells are sent with CAUSE 0x0A and the chip halts. -/
def execThermalTrip (sensor : Nat) (temp : Byte) (s : State) : Out State :=
  .next (s.settle (if s.trip.pending.isSome || s.trip.pinLow then s
    else ({ s with trip := { s.trip with pending := some (sensor, temp) } }).raiseWave 0x0A 0))

/-- Scratch and GDDR-7 lose their contents, and the channels' controllers what they hold. -/
def Memory.powerLost (m : Memory) : Memory :=
  { m with
    cells := m.cells.filter (fun c => inDirect c.1)
    errs := m.errs.filter (fun e => inDirect e.1)
    held := []
    bursts := []
    lines := [] }

/-- TRIP_POWER_OFF (R467): THERM_TRIP_N falls, the ridge, link-group and memory-pair domains switch off, and PWR_TRIP is set. -/
def execTripPowerOff (s : State) : Out State :=
  .next (s.settle (match s.trip.pending with
    | none => s
    | some (sensor, temp) =>
      { s with
        trip := { s.trip with tripped := true, sensor := BitVec.ofNat 8 sensor, temp := temp, pending := none, pinLow := true }
        ridges := s.ridges.map (fun r => { r with matrixOn := false, waking := false })
        link := { s.link with ports := s.link.ports.map (fun p => if p.state = .none then p else { p.reset with state := .down }) }
        mem := s.mem.powerLost }))

/-- RAIL_FAULT, REFCLK_LOSS, STEWARD_HEARTBEAT_TIMEOUT (R488). -/
def execRailFault (s : State) : Out State := .next (s.settle (s.raiseWave 0x12 0))
def execRefclkLoss (s : State) : Out State := .next (s.settle (s.raiseWave 0x14 0))
def execStewardHeartbeatTimeout (s : State) : Out State := .next (s.settle (s.raiseWave 0x11 0))

/-! ### Ridge-matrix domains (R17, R446 to R448) -/

/-- DOMAIN_ON_DONE (R17): the domain is on; commands that waited start once no domain is switching on. -/
def execDomainOnDone (ridge : Nat) (s : State) : Out State :=
  .next (s.settle (
    let s1 := s.updRidge ridge (fun r => if r.waking then { r with matrixOn := true, waking := false } else r)
    if s1.ridges.any (·.waking) then s1
    else { s1 with queues := { s1.queues with cmds := mapWhere (fun c => c.stage == .waking) (fun c => { c with stage := .taken }) s1.queues.cmds } }))

/-- The self-tests that run the tree array (R477). -/
def testsTree (k : Nat) : Bool := k == 2 || k == 15

/-- A command runs on tree arrays: the MATRIX family, SPARSE.MATMUL and its group opening, and the tests of the tree array. -/
def usesTree (p : List Byte) : Bool :=
  let op := opcodeOf p
  familyOf op == 3 || op == 0x5001 || op == 0x5002 || (op == 0xB002 && testsTree (field p 32 1))

/-- A loaded plan uses the tree array of a logical ridge. -/
def Plan.usesMatrix (p : Plan) (r : Nat) : Bool :=
  p.entries.any (fun e => usesTree e.pkt && (e.branch == 0xFF || ((p.branches.getD e.branch default).ridges).contains r))

/-- MATRIX_DOMAIN_IDLE_OFF (R448): 10 ms unused, with no loaded plan, no group and no command in flight using the array. -/
def execMatrixDomainIdleOff (ridge : Nat) (s : State) : Out State :=
  .next (s.settle (
    if s.plans.store.any (fun p => p.usesMatrix (s.logical ridge)) || !s.matrix.groups.isEmpty
      || s.queues.cmds.any (fun c => c.stage.live && usesTree c.pkt) then s
    else s.updRidge ridge (fun r => if r.waking then r else { r with matrixOn := false })))

/-! ### POWER (R470) -/

def powerCapInfo : OpInfo where
  code := 0xA001
  used := [(32, 4)]
  reason := 0xA0
  static := fun p =>
    let w := field p 32 2
    let a := field p 34 2
    [ bParam (decide (w ≠ 0) && (decide (w < 450) || decide (1200 < w))) 0xA0 32, bParam (decide (a ≠ 0) && (decide (a < 500) || decide (1150 < a))) 0xA0 34 ]

def effectPowerCap (s : State) (c : Ctx) : State × Option Result :=
  let w := c.f 32 2
  let a := c.f 34 2
  ({ s with power := { s.power with cap := if w = 0 then s.power.cap else w, icc := if a = 0 then s.power.icc else a } }, some resOK)

/-- POWER.CAP (R454, R456). -/
def execPowerCap (id : Nat) (s : State) : Out State := .next (s.settle (s.runCmd powerCapInfo id effectPowerCap))

def powerClockInfo : OpInfo where
  code := 0xA002
  used := [(32, 3)]
  reason := 0xA0
  static := fun p =>
    let lo := field p 32 1
    let hi := field p 33 1
    [ bParam (decide (lo < 48) || decide (132 < lo)) 0xA0 32, bParam (decide (hi < lo) || decide (132 < hi)) 0xA0 33, bParam (decide (3 < field p 34 1)) 0xA0 34 ]

def effectPowerClock (s : State) (c : Ctx) : State × Option Result :=
  ({ s with power := { s.power with fMin := c.f 32 1, fMax := c.f 33 1, pin := bitAt (c.f 34 1) 0, pinGuard := bitAt (c.f 34 1) 1 } }, some resOK)

/-- POWER.CLOCK (R458, R463). -/
def execPowerClock (id : Nat) (s : State) : Out State := .next (s.settle (s.runCmd powerClockInfo id effectPowerClock))

def powerHintInfo : OpInfo where
  code := 0xA010
  used := [(32, 2), (36, 4)]
  reason := 0xA0
  static := fun p =>
    let lv := field p 33 1
    let ld := field p 36 2
    [ bParam (decide (2 < field p 32 1)) 0xA0 32, bParam (decide (lv = 0) || decide (100 < lv)) 0xA0 33,
      bParam (decide (ld < 20) || decide (2000 < ld)) 0xA0 36, bParam (decide (field p 38 2 = 0)) 0xA0 38 ]

def effectPowerHint (s : State) (c : Ctx) : State × Option Result :=
  ({ s with power := { s.power with hints := s.power.hints ++ [⟨c.f 32 1, c.f 33 1, c.f 36 2, c.f 36 2 + c.f 38 2⟩] } }, some resOK)

/-- POWER.HINT (R464). -/
def execPowerHint (id : Nat) (s : State) : Out State := .next (s.settle (s.runCmd powerHintInfo id effectPowerHint))

end Sys2Proof.Machine
end

