-- ==== Sys2Proof/Machine/HealthUnit.lean ====
section
/-! DEFINITION. The HEALTH and TELEM families (R473 to R491): policy, self-tests and their consequences, clearing a halt, retirement, the telemetry ring and its counters. -/
namespace Sys2Proof.Machine

/-! ### HEALTH.POLICY -/

def healthPolicyInfo : OpInfo where
  code := 0xB001
  used := [(32, 7)]
  reason := 0xB0
  static := fun p =>
    let a := field p 32 2
    let b := field p 34 2
    [ bParam (decide (a < 2) || decide (64 < a)) 0xB0 32, bParam (decide (b = 0) || decide (64 < b)) 0xB0 34, bParam (decide (field p 36 1 = 0)) 0xB0 36,
      bParam (decide (10 < field p 37 1)) 0xB0 37, bParam (decide (3 < field p 38 1)) 0xB0 38 ]

def effectHealthPolicy (s : State) (c : Ctx) : State × Option Result :=
  ({ s with health := { s.health with
      scratchPeriod := c.f 32 2
      cachePeriod := c.f 34 2
      quarLimit := c.f 36 1
      testShare := c.f 37 1
      pinQuar := bitAt (c.f 38 1) 0
      pinRetire := bitAt (c.f 38 1) 1 } }, some resOK)

/-- HEALTH.POLICY (R476). -/
def execHealthPolicy (id : Nat) (s : State) : Out State := .next (s.settle (s.runCmd healthPolicyInfo id effectHealthPolicy))

/-! ### Self-tests (R477 to R479) -/

/-- TEST and RIDGES of HEALTH.TEST. -/
def testCode (p : List Byte) : Nat := field p 32 1
def testMask (p : List Byte) : Nat := field p 40 8

/-- A code is intrusive, is continuous. -/
def intrusive (k : Nat) : Bool := k == 1 || k == 2 || k == 3 || k == 4 || k == 15
def continuous (k : Nat) : Bool := decide (16 ≤ k) && decide (k ≤ 19)

/-- The logical ridges that a test names. -/
def State.testRidges (s : State) (p : List Byte) : List Nat := if testMask p = 0 then List.range s.E else bitsSet (testMask p) 64

/-- A group is open on one of the ridges: groups of directly submitted commands are open on every enabled ridge. -/
def State.groupOnRidges (s : State) (rs : List Nat) : Bool := s.matrix.groups.any (fun g => (s.ridgeSet g.set).any (fun r => rs.contains r))

def healthTestInfo : OpInfo where
  code := 0xB002
  used := [(32, 1), (40, 8)]
  reason := 0xB1
  static := fun p => [bParam (!intrusive (testCode p) && !continuous (testCode p)) 0xB1 32, bParam (continuous (testCode p) && decide (testMask p ≠ 0)) 0xB1 40]
  dyn := fun s c =>
    let k := testCode c.pkt
    [ bParam (decide (2 ^ s.E ≤ testMask c.pkt)) 0xB1 40,
      bBusy (intrusive k && (s.stepRunning || s.isHalted || s.groupOnRidges (s.testRidges c.pkt))) 0 ]

/-- A test starts; an intrusive one puts its ridges into register mode (R160, R477). A test of the tree array first waits for the ridge-matrix domains of its ridges (R17). -/
def effectHealthTest (s : State) (c : Ctx) : State × Option Result :=
  let k := testCode c.pkt
  let rs := if intrusive k then s.testRidges c.pkt else []
  let off := if testsTree k then s.switchedOff (rs.map s.physical) else []
  if !off.isEmpty then (s.wakeFor c.id off, none) else
  let s1 := { s with health := { s.health with testing := s.health.testing ++ [(c.id, k, rs)] } }
  (rs.foldl (fun s r => s.updRidge (s.physical r) (fun x => { x with registerMode := true })) s1, none)

/-- HEALTH.TEST (R478). -/
def execHealthTest (id : Nat) (s : State) : Out State := .next (s.settle (s.runCmd healthTestInfo id effectHealthTest))

/-- The unit number that a failure reports, and its bit in the masks of ridges and of ports or regions. -/
def failUnit : TestFailure → Option Nat
  | .bank r _ => some r
  | .unit r => some r
  | .spareRow p _ _ => some p
  | .standIn k => some k
  | .reserve => none
  | .pairMismatch r _ => some r
def failRidge : TestFailure → Option Nat
  | .bank r _ => some r
  | .unit r => some r
  | .pairMismatch r _ => some r
  | _ => none
def failPort : TestFailure → Option Nat
  | .spareRow p _ _ => some p
  | .standIn k => some k
  | _ => none

/-- The ridge is recorded for retirement unless PIN_RETIRE is set (R479). -/
def State.retireFor (s : State) (r code : Nat) : State :=
  let ph := s.physical r
  if s.health.pinRetire then s.decision 12 ph [code] 1 3 else s.retirePending ph code 3

/-- The consequence of a failure of a test, without the fault wave; the wave's CAUSE where there is one (R479). -/
def State.testFailure (s : State) (code : Nat) : TestFailure → State × Option Byte
  | .bank r b =>
    if s.health.pinQuar || !s.mem.standInLeft then (s.retireFor r code, some 0x10) else (s.flagBank (s.physical r) b, none)
  | .unit r => (s.retireFor r code, some 0x10)
  | .spareRow p ch row => (s.updMemPort p (fun m => { m with badSpares := m.badSpares ++ [⟨ch, row, row⟩] }), none)
  | .standIn k => ({ s with mem := { s.mem with withdrawn := s.mem.withdrawn ++ [k] } }, none)
  | .reserve => (s, some 0x0D)
  | .pairMismatch r k =>
    if s.health.mismatched.contains r then (s.retireFor r code, some 0x10)
    else ({ s with health := { s.health with mismatched := s.health.mismatched ++ [r], recopy := s.health.recopy ++ [(r, k)] } }, none)

/-- The result of a test: OK, with the failing units in DETAIL and the lowest in INDEX. -/
def testResult (fs : List TestFailure) : Result :=
  let us := fs.filterMap failUnit
  { resOK with detail := detailOf (min fs.length 255) 0, index := if us.isEmpty then 0xFFFFFFFF else BitVec.ofNat 32 (us.foldl min 0xFFFFFFFF) }

/-- The body of a self-test record (R483). -/
def testBody (code : Nat) (fs : List TestFailure) : List Byte :=
  padTo 32 ([BitVec.ofNat 8 code, BitVec.ofNat 8 (min fs.length 255), 0, 0] ++ toLE 8 (maskOf (fs.filterMap failRidge).dedup) ++ toLE 4 (maskOf (fs.filterMap failPort).dedup))

/-- SELF_TEST_DONE (R479): the reply first, then the consequences, then the wave. -/
def execSelfTestDone (id : Nat) (failures : List TestFailure) (s : State) : Out State :=
  .next (s.settle (match s.health.testing.find? (fun t => t.1 == id) with
    | none => s
    | some (_, code, _) =>
      let s1 := { s with health := { s.health with testing := s.health.testing.filter (fun t => t.1 != id), testFail := s.health.testFail || !failures.isEmpty } }
      let s2 := if (s.runningCtx id).isSome then s1.endCmd id (testResult failures) else s1
      let s3 := s2.telem 5 66 0 0 (testBody code failures)
      let k := failures.foldl (fun (a : State × Option Byte) f => let r := a.1.testFailure code f
        (r.1, a.2.or r.2)) (s3, none)
      match k.2 with
      | none => k.1
      | some cause => k.1.raiseWave cause 0))

/-! ### Clearing a halt (R491) -/

/-- What a cleared halt and a finished restore discard (R491, R499). -/
def State.discardTransient (s : State) : State :=
  { s with
    plans := { s.plans with step := none, barrier := none, earlyFlags := [] }
    mem := s.mem.unpin []
    embed := { s.embed with
      accums := [], replicas := [], lookupLogs := [], serveLogs := [], subs := [], asked := [], refused := [], migrating := [], sketch := [], top := [] }
    link := { s.link with reasm := [], ports := s.link.ports.map (fun (x : Port) => { x with egress := x.egress.filter (·.reduce.isNone) }) }
    coll := { s.coll with jobs := [], early := [] }
    num := { s.num.sumsCleared with histories := s.num.histories.map (fun h => { h with steps := [] }) }
    out := { s.out with batches := [] } }

/-- CAUSE 0x0A, a thermal trip, is not cleared. -/
def tripCause : Byte := 0x0A

def healthClearHaltInfo (sinceHalt : Nat) : OpInfo where
  code := 0xB003
  reason := 0
  dyn := fun s _ => [bBusy (s.isHalted && (decide (sinceHalt < 100) || s.halt.cause == tripCause)) 0]

def effectHealthClearHalt (s : State) (_ : Ctx) : State × Option Result :=
  if s.isHalted then ({ s.discardTransient with halt := { s.halt with halted := false } }, some resOK) else (s, some resOK)

/-- HEALTH.CLEAR_HALT (R491), sinceHalt microseconds after the chip halted. -/
def execHealthClearHalt (id sinceHalt : Nat) (s : State) : Out State :=
  .next (s.settle (s.runCmd (healthClearHaltInfo sinceHalt) id effectHealthClearHalt))

/-! ### HEALTH.RETIRE (R480) -/

/-- Ridges that would start at the next boot once one more is pending. -/
def State.leftAfter (s : State) (ph : Nat) : Nat :=
  (s.enabled.filter (fun r => decide (r ≠ ph) && !s.flash.retire.ridgesPending.getLsbD r)).length

def healthRetireInfo : OpInfo where
  code := 0xB004
  used := [(32, 2)]
  static := fun p => [bParam (decide (1 < field p 33 1)) 0 33]
  dyn := fun s c =>
    let r := c.f 32 1
    [bParam (decide (s.E ≤ r)) 0 32, bParam (decide (r < s.E) && decide (c.f 33 1 = 0) && decide (s.leftAfter (s.physical r) < 52)) 0xB2 32]

def effectHealthRetire (s : State) (c : Ctx) : State × Option Result :=
  let ph := s.physical (c.f 32 1)
  let pending := s.flash.retire.ridgesPending.getLsbD ph
  if bitAt (c.f 33 1) 0 then
    if !pending then (s, some resOK) else
    (({ s with flash := { s.flash with retire := { s.flash.retire with
        seq := s.flash.retire.seq + 1
        ridgesPending := s.flash.retire.ridgesPending &&& ~~~(1 <<< ph : W64) } } }).decision 12 ph [0] 0 1, some resOK)
  else (if pending then s else s.retirePending ph 0 1, some resOK)

/-- HEALTH.RETIRE (R480). -/
def execHealthRetire (id : Nat) (s : State) : Out State := .next (s.settle (s.runCmd healthRetireInfo id effectHealthRetire))

/-! ### TELEM (R481, R485, R486) -/

def telemRingInfo : OpInfo where
  code := 0xE001
  used := [(32, 1), (34, 2), (40, 16)]
  reason := 0xE0
  static := fun p =>
    let a := field p 40 8
    let n := field p 32 1
    let r := field p 34 2
    [ bAlign (decide (a % 32 ≠ 0)) 40,
      bParam (decide (a ≠ 0) && (decide (n < 16) || decide (30 < n))) 0xE0 32,
      bParam (decide (a ≠ 0) && (decide (r = 0) || decide (1024 < r))) 0xE0 34,
      bParam (inScratch a) 0xE0 40 ]
  dyn := fun s c =>
    let n := c.f 32 1
    if n < 16 ∨ 30 < n ∨ c.f 40 8 = 0 then [] else windowBreach s (c.f 40 8) (2 ^ n) 40

def effectTelemRing (s : State) (c : Ctx) : State × Option Result :=
  let a := c.f 40 8
  let ring := if a = 0 then none else some (a, c.f 32 1, c.f 34 2, BitVec.ofNat 64 (c.f 48 8))
  ({ s with health := { s.health with ring := ring, head := 0, headLag := 0, tail := 0 } }, some resOK)

/-- TELEM.RING (R481, R486). -/
def execTelemRing (id : Nat) (s : State) : Out State := .next (s.settle (s.runCmd telemRingInfo id effectTelemRing))

/-- n 32-bit counts of a list keyed by number. -/
def countWords (xs : List (Nat × W32)) (n : Nat) : List Byte := (List.range n).flatMap (fun i => toLE 4 (assocGet xs i 0).toNat)

/-- The counter table of R485. -/
def State.counterTable (s : State) : List Byte :=
  let k := s.health.counts
  padTo 3072 (countWords k.weightFaults 256 ++ countWords k.discards 256 ++ toLE 4 k.wraps.toNat ++ toLE 4 k.longSums.toNat ++ toLE 4 k.replicasRefused.toNat
    ++ toLE 4 k.subsRefused.toNat ++ countWords (s.gddr.ports.map (fun m => (m.num, m.remapDrops))) 24
    ++ countWords s.link.replayCounts 64 ++ countWords s.link.replayedCells 64 ++ countWords s.link.escapes 64)

/-- The counters of R485 at 0. -/
def State.clearCounters (s : State) : State :=
  { s with
    health := { s.health with counts := ⟨[], [], 0, 0, 0, 0⟩ }
    gddr := { s.gddr with ports := s.gddr.ports.map (fun m => { m with remapDrops := 0 }) }
    link := { s.link with replayCounts := [], replayedCells := [], escapes := [] } }

def telemCountersInfo : OpInfo where
  code := 0xE002
  used := [(33, 1), (40, 8)]
  reason := 0xE0
  static := fun p => [bAlign (decide (field p 40 8 % 32 ≠ 0)) 40, bParam (decide (1 < field p 33 1)) 0xE0 33]
  dyn := fun s c => rangeBreach s c (c.f 40 8) 3072 40

def effectTelemCounters (s : State) (c : Ctx) : State × Option Result :=
  let r := s.storeAt c 4 (c.f 40 8) s.counterTable
  (if bitAt (c.f 33 1) 0 then r.1.clearCounters else r.1, storedResult r.2)

/-- TELEM.COUNTERS (R485, R486). -/
def execTelemCounters (id : Nat) (s : State) : Out State := .next (s.settle (s.runCmd telemCountersInfo id effectTelemCounters))

/-- A write to HST_TELEM_TAIL (R481). -/
def telemTail (value : W32) (s : State) : State := { s with health := { s.health with tail := value } }

/-- HST_TELEM_TAIL (R481). -/
def execHstTelemTail (value : W32) (s : State) : Out State := .next (s.settle (s.bar (telemTail value)))

end Sys2Proof.Machine
end

