-- ==== Sys2Proof/Machine/CtxUnit.lean ====
section
/-! DEFINITION. Context images (R493 to R499): their layout, saving to memory or to a gateway, and restoring. -/
namespace Sys2Proof.Machine

/-! ### The image -/

/-- A section before it is laid out: its header's fields, its body, and the memory it was read from. -/
structure Section where
  kind : Nat
  id : Nat
  first : Nat
  count : Nat
  body : List Byte
  reads : List (Nat × Nat)
  deriving DecidableEq, Repr, Inhabited

/-- Bytes of a row record in an image (R496). -/
def ETable.imageBytes (t : ETable) : Nat := roundUp t.recordBytes 32

/-- The section of a dense shard: its records in element order. -/
def State.shardSection (s : State) (x : DShard) : Section :=
  let r := (x.records, x.elements * s.recBytes)
  ⟨1, x.tag, x.first, x.elements, (s.read r.1 r.2).data, [r]⟩

/-- A row record as an image holds it. -/
def State.rowImage (s : State) (t : ETable) (a : Nat) : List Byte := padTo t.imageBytes (s.read a t.recordBytes).data

/-- The sections of a table: its home slots on this rank, and its guest rows if there are any. -/
def State.tableSections (s : State) (t : ETable) : List Section :=
  let n := t.homeRows s.jobN s.rank
  let homes := (List.range n).map (fun j => t.base + j * t.stride)
  let gs := s.embed.guests.filter (fun g => g.table == t.id)
  let at' (g : Guest) := t.guestBase + g.slot * t.stride
  let home : Section := ⟨2, t.id, 0, n, homes.flatMap (s.rowImage t), homes.map (fun a => (a, t.recordBytes))⟩
  let guest : Section := ⟨3, t.id, 0, gs.length,
    gs.flatMap (fun g => padTo 32 (toLE 6 g.key ++ [0, 0] ++ toLE 4 g.slot) ++ s.rowImage t (at' g)), gs.map (fun g => (at' g, t.recordBytes))⟩
  if gs.isEmpty then [home] else [home, guest]

/-- An entry of the relocation section. -/
def relocEntry (key table flags owner tenure last : Nat) : List Byte :=
  toLE 6 key ++ toLE 1 table ++ toLE 1 flags ++ toLE 2 owner ++ toLE 2 tenure ++ toLE 4 last

/-- The relocation section: entries, forwarding entries, and notices not yet applied. -/
def State.relocSection (s : State) : List Section :=
  let e := s.embed
  let es := e.reloc.map (fun r => relocEntry r.key r.table 0 r.owner r.tenure 0)
    ++ e.forwards.map (fun f => relocEntry f.key f.table 1 f.owner f.tenure f.lastStep.toNat)
    ++ (e.pendingReloc ++ e.notices).map (fun r => relocEntry r.key r.table 2 r.owner r.tenure 0)
  if es.isEmpty then [] else [⟨4, 0, 0, es.length, es.flatten, []⟩]

/-- All sections of this chip's image (R494). -/
def State.sections (s : State) : List Section :=
  s.update.shards.map s.shardSection ++ s.embed.tables.flatMap s.tableSections ++ s.relocSection
    ++ s.vec.pairs.map (fun p => (⟨5, p.1, 0, 1, p.2, []⟩ : Section))

/-- A section meets poison. -/
def State.sectionPoisoned (s : State) (x : Section) : Bool := !(s.readAll x.reads).poisoned.isEmpty

/-- A section's bytes (R496). -/
def State.sectionBytes (s : State) (x : Section) : List Byte :=
  toLE 1 x.kind ++ toLE 1 (bnat (s.sectionPoisoned x)) ++ toLE 2 x.id ++ toLE 4 (crc32 x.body) ++ toLE 8 x.body.length ++ toLE 8 x.first ++ toLE 8 x.count
    ++ padTo (roundUp x.body.length 32) x.body

/-- The header of an image (R495), its CRC formed with the field at 0. -/
def State.imageHeader (s : State) (xs : List Section) (length : Nat) : List Byte :=
  let h := toLE 4 0x58544E43 ++ toLE 2 1 ++ toLE 1 (bnat s.num.wideState + 2 * bnat (xs.any s.sectionPoisoned)) ++ [0] ++ toLE 4 s.jobN ++ toLE 4 s.rank
    ++ toLE 8 s.plans.stepNo.toNat ++ toLE 8 s.vec.seed.toNat ++ toLE 4 xs.length ++ zeros 4 ++ toLE 8 length ++ zeros 16
  splice h 48 (toLE 4 (crc32 h))

/-- The image of this chip. -/
def State.image (s : State) : List Byte :=
  let xs := s.sections
  let body := xs.flatMap s.sectionBytes
  s.imageHeader xs (64 + body.length) ++ body

/-- LENGTH of the image. -/
def State.imageLength (s : State) : Nat := 64 + (s.sections.map (fun x => 32 + roundUp x.body.length 32)).sum

/-- The reads behind the image. -/
def State.imageReads (s : State) : List (Nat × Nat) := s.sections.flatMap (·.reads)

def ctxSizeInfo : OpInfo where
  code := 0xC001
  used := [(40, 8)]
  dyn := fun s c => rangeBreach s c (c.f 40 8) 8 40

def effectCtxSize (s : State) (c : Ctx) : State × Option Result :=
  let r := s.storeAt c 4 (c.f 40 8) (toLE 8 s.imageLength)
  (r.1, storedResult r.2)

/-- CTX.SIZE (R493). -/
def execCtxSize (id : Nat) (s : State) : Out State := .next (s.settle (s.runCmd ctxSizeInfo id effectCtxSize))

/-! ### Saving (R493, R494, R497) -/

/-- TARGET, the gateway chip, the TAG, the address and the bytes at it. -/
def cxTarget (p : List Byte) : Nat := field p 32 1
def cxChip (p : List Byte) : Nat := field p 34 2
def cxTag (p : List Byte) : Nat := field p 36 4
def cxAddr (p : List Byte) : Nat := field p 40 8
def cxBytes (p : List Byte) : Nat := field p 48 8

/-- The checks that saving and restoring share. -/
def ctxDyn (s : State) (c : Ctx) : List Breach :=
  let p := c.pkt
  (if cxTarget p = 0 then rangeBreach s c (cxAddr p) (cxBytes p) 40 else []) ++ [bBusy (s.stepRunning || !s.matrix.groups.isEmpty) 0]

def ctxSaveInfo : OpInfo where
  code := 0xC002
  used := [(32, 1), (34, 22)]
  static := fun p => [bParam (decide (1 < cxTarget p)) 0 32]
  dyn := fun s c => ctxDyn s c ++ [bResource (decide (cxTarget c.pkt = 0) && decide (cxBytes c.pkt < s.imageLength)) 0]

/-- The window of unacknowledged data and of outstanding reads: 64 MiB. -/
def gatewayWindow : Nat := 64 * 2 ^ 20

/-- Image data from one offset to another goes to the gateway. -/
def State.sendImage (s : State) (x : Stream) (lo hi : Nat) : State :=
  if hi ≤ lo then s else s.send (.gatewayData x.chip x.tag (lo / 32) (decide (hi = x.image.length)) ((x.image.drop lo).take (hi - lo)))

/-- An image whose header says POISONED ends its save with POISONED (R490). -/
def savedResult (img : List Byte) : Result := if bitAt (field img 6 1) 1 then resStatus stPoisoned else resOK

def effectCtxSave (s : State) (c : Ctx) : State × Option Result :=
  let p := c.pkt
  let rr := s.readAll s.imageReads
  let img := s.image
  let s1 := s.noteReads 4 s.imageReads
  if !rr.uncorr.isEmpty then (s1, some (resStatus stUncorrected))
  else if cxTarget p = 0 then
    let k := s1.storeAt c 4 (cxAddr p) img
    (k.1, some ((writeStatus k.2).getD (savedResult img)))
  else
    let x : Stream := ⟨c.id, true, cxChip p, cxTag p, img, 0⟩
    (({ s1 with streams := s1.streams ++ [x] }).sendImage x 0 (min img.length gatewayWindow), none)

/-- CTX.SAVE (R494). -/
def execCtxSave (id : Nat) (s : State) : Out State := .next (s.settle (s.runCmd ctxSaveInfo id effectCtxSave))

/-- A stream ends. -/
def State.dropStream (s : State) (x : Stream) : State := { s with streams := s.streams.filter (fun y => y.cmd != x.cmd) }

/-- The stream of a gateway's TAG. -/
def State.stream? (s : State) (save : Bool) (chip tag : Nat) : Option Stream := s.streams.find? (fun x => x.save == save && x.chip == chip && x.tag == tag)

/-- GATEWAY_ACK (R497): the next data is sent; the save completes when the acknowledgement covers LENGTH; an ERROR ends it. -/
def execGatewayAck (chip tag offset : Nat) (error : Bool) (s : State) : Out State :=
  .next (s.settle (s.arrives (match s.stream? true chip tag with
    | none => s
    | some x =>
      let acked := max x.acked (32 * offset)
      if error then (s.dropStream x).endCmd x.cmd (resStatus stNoResource)
      else if x.image.length ≤ acked then (s.dropStream x).endCmd x.cmd (savedResult x.image)
      else ({ s with streams := mapWhere (fun y => y.cmd == x.cmd) (fun y => { y with acked := acked }) s.streams }).sendImage x
        (min x.image.length (x.acked + gatewayWindow)) (min x.image.length (acked + gatewayWindow)))))

/-! ### Restoring (R498, R499) -/

/-- What a restore has collected for its completion. -/
structure Restored where
  guests : List Guest
  reloc : List Relocation
  forwards : List Forward
  pend : List Relocation
  pairs : List (Nat × List Byte)
  shards : List Nat
  tables : List Nat
  deriving DecidableEq, Repr, Inhabited

/-- The reason for which an image's header is refused (R498). -/
def State.headerReason (s : State) (img : List Byte) (given : Nat) : Option Nat :=
  let h := img.take 64
  if field h 0 4 ≠ 0x58544E43 ∨ field h 4 2 ≠ 1 ∨ crc32 (splice (padTo 64 h) 48 (zeros 4)) ≠ field h 48 4 ∨ img.length < 64 then some 0xC0
  else if field h 8 4 ≠ s.jobN ∨ field h 12 4 ≠ s.rank then some 0xC1
  else if bitAt (field h 6 1) 0 ≠ s.num.wideState then some 0xC2
  else if given < field h 40 8 then some 0xC6 else none

/-- The reason for which a section's header is refused. -/
def State.sectionReason (s : State) (h : List Byte) (left : Nat) : Option Nat :=
  let kind := field h 0 1
  let id := field h 2 2
  let len := field h 8 8
  let first := field h 16 8
  let count := field h 24 8
  if left < roundUp len 32 then some 0xC6
  else match kind with
    | 1 => match s.dshard? id with
      | none => some 0xC3
      | some x => if x.first ≠ first ∨ x.elements ≠ count ∨ len ≠ count * s.recBytes then some 0xC3 else none
    | 2 => match s.etable? id with
      | none => some 0xC3
      | some t => if first ≠ 0 ∨ count ≠ t.homeRows s.jobN s.rank ∨ len ≠ count * t.imageBytes then some 0xC3 else none
    | 3 => match s.etable? id with
      | none => some 0xC3
      | some t => if len ≠ count * (32 + t.imageBytes) then some 0xC3 else if t.guestRows < count then some 0xC4 else none
    | 4 => if s.embed.policy.relocMax < count ∨ len ≠ 16 * count then some 0xC4 else none
    | 5 => if id < 8 ∨ 15 < id ∨ len ≠ 8256 then some 0xC6 else none
    | _ => some 0xC0

/-- The body of a section is written (R496). -/
def State.restoreSection (s : State) (r : Restored) (h body : List Byte) : State × Restored :=
  let id := field h 2 2
  match field h 0 1 with
  | 1 => match s.dshard? id with
    | none => (s, r)
    | some x => ((s.store 4 x.records body).1, { r with shards := r.shards ++ [id] })
  | 2 => match s.etable? id with
    | none => (s, r)
    | some t =>
      let rows := ((chunks t.imageBytes body).zipIdx).map (fun (b, j) => (t.base + j * t.stride, b.take t.recordBytes))
      ((s.storeAll 4 rows).1, { r with tables := r.tables ++ [id] })
  | 3 => match s.etable? id with
    | none => (s, r)
    | some t =>
      let rows := chunks (32 + t.imageBytes) body
      let gs := rows.map (fun b => (⟨id, field b 0 6, field b 8 4⟩ : Guest))
      ((s.storeAll 4 (rows.map (fun b => (t.guestBase + field b 8 4 * t.stride, (b.drop 32).take t.recordBytes)))).1, { r with guests := r.guests ++ gs })
  | 4 =>
    let es := chunks 16 body
    let plain := es.filter (fun b => decide (field b 7 1 % 4 = 0))
    let fw := es.filter (fun b => bitAt (field b 7 1) 0)
    let pe := es.filter (fun b => bitAt (field b 7 1) 1)
    let rel (b : List Byte) : Relocation := ⟨field b 6 1, field b 0 6, field b 8 2, field b 10 2⟩
    (s, { r with
      reloc := r.reloc ++ plain.map rel
      forwards := r.forwards ++ fw.map (fun b => ⟨field b 6 1, field b 0 6, field b 8 2, field b 10 2, BitVec.ofNat 32 (field b 12 4)⟩)
      pend := r.pend ++ pe.map rel })
  | _ => (s, { r with pairs := assocSet r.pairs id (body.take 8256) })

/-- Sections one after the other: each one's header is checked before its body, and its body's CRC before it is written; n sections are left. -/
def State.restoreSections (s : State) (r : Restored) : Nat → List Byte → State × (Nat ⊕ Restored)
  | 0, _ => (s, .inr r)
  | n + 1, bs =>
    let h := bs.take 32
    if bs.length < 32 then (s, .inl 0xC6) else
    match s.sectionReason h (bs.length - 32) with
    | some e => (s, .inl e)
    | none =>
      let len := field h 8 8
      let body := (bs.drop 32).take len
      if crc32 body ≠ field h 4 4 then (s, .inl 0xC5) else
      let k := s.restoreSection r h body
      k.1.restoreSections k.2 n (bs.drop (32 + roundUp len 32))

/-- What a finished restore sets (R499): step counters, seed, pairs, relocation state and guest rows; what a cleared halt discards is discarded. -/
def State.finishRestore (s : State) (img : List Byte) (r : Restored) : State :=
  let s1 := s.discardTransient.setCounters (BitVec.ofNat 64 (field img 16 8))
  let own := r.pend.filter (fun x => decide (x.owner = s.rank))
  let others := r.pend.filter (fun x => decide (x.owner ≠ s.rank))
  { s1 with
    vec := { s1.vec with seed := BitVec.ofNat 64 (field img 24 8), pendingSeed := none, pairs := r.pairs }
    embed := { s1.embed with reloc := r.reloc, forwards := r.forwards, pendingReloc := others, notices := own, guests := r.guests } }

/-- Installed shards and tables that the image did not contain. -/
def State.notInImage (s : State) (r : Restored) : Nat :=
  (s.update.shards.filter (fun x => !r.shards.contains x.tag)).length + (s.embed.tables.filter (fun t => !r.tables.contains t.id)).length

/-- An image is restored: the state and how it came out. -/
def State.restoreImage (s : State) (img : List Byte) (given : Nat) : State × Result :=
  match s.headerReason img given with
  | some e => (s, badParam e 40)
  | none =>
    let body := (img.take (field img 40 8)).drop 64
    let k := s.restoreSections ⟨[], [], [], [], [], [], []⟩ (field img 32 4) body
    match k.2 with
    | .inl e => (k.1, badParam e 40)
    | .inr r => (k.1.finishRestore img r, resIndex (k.1.notInImage r))

def ctxRestoreInfo : OpInfo where
  code := 0xC003
  used := [(32, 1), (34, 22)]
  static := fun p => [bParam (decide (1 < cxTarget p)) 0 32]
  dyn := ctxDyn

def effectCtxRestore (s : State) (c : Ctx) : State × Option Result :=
  let p := c.pkt
  if cxTarget p = 0 then
    let r := s.readAt c (cxAddr p) (cxBytes p)
    let s1 := s.noteReadAt c 4 (cxAddr p) (cxBytes p)
    if !r.uncorr.isEmpty then (s1, some (resStatus stUncorrected))
    else
      let k := s1.restoreImage r.data (cxBytes p)
      (k.1, some k.2)
  else
    let x : Stream := ⟨c.id, false, cxChip p, cxTag p, [], gatewayWindow⟩
    (({ s with streams := s.streams ++ [x] }).send (.gatewayRead x.chip x.tag 0 64), none)

/-- CTX.RESTORE (R499). -/
def execCtxRestore (id : Nat) (s : State) : Out State := .next (s.settle (s.runCmd ctxRestoreInfo id effectCtxRestore))

/-- GATEWAY_READ_DATA (R497): data in order of offset joins the image; the last piece lets the restore happen; an ERROR ends it. -/
def execGatewayReadData (chip tag offset : Nat) (last error : Bool) (data : List Byte) (s : State) : Out State :=
  .next (s.settle (s.arrives (match s.stream? false chip tag with
    | none => s
    | some x =>
      if error then (s.dropStream x).endCmd x.cmd (resStatus stNoResource)
      else if 32 * offset ≠ x.image.length then s
      else
        let img := x.image ++ data
        if last then
          let k := (s.dropStream x).restoreImage img img.length
          k.1.endCmd x.cmd k.2
        else
          let more := decide (x.acked ≤ img.length)
          let s1 := { s with streams := mapWhere (fun y => y.cmd == x.cmd) (fun y => { y with image := img, acked := if more then img.length + gatewayWindow else x.acked }) s.streams }
          if more then s1.send (.gatewayRead chip tag (img.length / 32) 64) else s1)))

end Sys2Proof.Machine
end

