-- ==== Sys2Proof/Machine/Curd.lean ====
section
/-! DEFINITION. The curd form: descriptors (R244), tiles and index records (R245 to R248), the checks of a tile (R269), the skimmer's choice (R261, R262) and the tile records it writes (R263). -/
namespace Sys2Proof.Machine

/-- A curd descriptor by its fields (R244). -/
structure CurdDesc where
  fmt : Nat
  cap : Nat
  twoWay : Bool
  poisoned : Bool
  rows : Nat
  cols : Nat
  values : Nat
  index : Nat
  scales : Nat
  nnz : Nat
  deriving DecidableEq, Repr, Inhabited

/-- The descriptor that 64 bytes hold. -/
def curdOf (bs : List Byte) : CurdDesc :=
  ⟨field bs 6 1, field bs 7 1, bitAt (field bs 8 1) 0, bitAt (field bs 8 1) 1, field bs 12 4, field bs 16 4, field bs 24 8, field bs 32 8, field bs 40 8, field bs 48 8⟩

/-- MAGIC and FORMAT are right and the reserved bits are 0. -/
def curdHeadOk (bs : List Byte) : Bool :=
  decide (field bs 0 4 = 0x44525543) && decide (field bs 4 2 = 1) && decide (field bs 8 1 < 4) && allZero bs 9 3 && allZero bs 20 4 && allZero bs 56 8

/-- A descriptor that a command reads as an operand passes reason 0x40 of R253. -/
def curdOk (bs : List Byte) : Bool :=
  let d := curdOf bs
  curdHeadOk bs && decide (d.fmt ≤ 7) && decide (1 ≤ d.cap) && decide (d.cap ≤ 8) && (isMx d.fmt || decide (d.scales = 0))

/-- ROWS and COLS lie within the limits of R244. -/
def curdShapeOk (d : CurdDesc) : Bool := decide (0 < d.rows) && decide (d.rows ≤ 2 ^ 31) && decide (0 < d.cols) && decide (d.cols ≤ 2 ^ 31)

/-- The arrays of a descriptor are aligned (R253). -/
def curdAligned (d : CurdDesc) : Bool := decide (d.values % 32 = 0) && decide (d.index % 32 = 0) && decide (d.scales % 32 = 0)

/-- Tiles across, tiles in all; bytes of a value area and of an index record (R245). -/
def CurdDesc.tilesAcross (d : CurdDesc) : Nat := ceilDiv d.cols 16
def CurdDesc.tiles (d : CurdDesc) : Nat := ceilDiv d.rows 16 * d.tilesAcross
def CurdDesc.valueBytes (d : CurdDesc) : Nat := 2 * d.cap * fmtBits d.fmt
def CurdDesc.indexBytes (d : CurdDesc) : Nat := 8 + 8 * d.cap

/-- The reads that take every tile of a tensor. -/
def CurdDesc.reads (d : CurdDesc) : List (Nat × Nat) :=
  [(d.index, d.tiles * d.indexBytes), (d.values, d.tiles * d.valueBytes)] ++ (if isMx d.fmt then [(d.scales, d.tiles)] else [])

/-- A tile's index record: the count of each group and the code of each slot (R246). -/
structure TileIndex where
  counts : List Nat
  codes : List Nat
  deriving DecidableEq, Repr, Inhabited

/-- The index record that bytes hold, for capacity k. -/
def tileIndexOf (k : Nat) (bs : List Byte) : TileIndex :=
  ⟨(List.range 16).map (fun r => bits (field bs (r / 2) 1) (4 * (r % 2) + 3) (4 * (r % 2))),
   (List.range (16 * k)).map (fun n => bits (field bs (8 + n / 2) 1) (4 * (n % 2) + 3) (4 * (n % 2)))⟩

/-- The bytes of an index record. -/
def TileIndex.bytes (k : Nat) (t : TileIndex) : List Byte :=
  let pair (xs : List Nat) : List Byte := (chunks 2 xs).map (fun g => BitVec.ofNat 8 (nth g 0 0 + 16 * nth g 1 0))
  pair t.counts ++ pair (padList (16 * k) t.codes)
where
  padList (n : Nat) (xs : List Nat) : List Nat := xs.take n ++ List.replicate (n - xs.length) 0

/-- The codes of the used slots of group r. -/
def TileIndex.used (k : Nat) (t : TileIndex) (r : Nat) : List Nat := ((t.codes.drop (k * r)).take (min (nth t.counts r 0) k))

/-- Codes rise strictly. -/
def rising : List Nat → Bool
  | a :: b :: rest => decide (a < b) && rising (b :: rest)
  | _ => true

/-- How many values the column groups of a tile hold. -/
def columnCounts (k : Nat) (t : TileIndex) : List Nat :=
  let all := (List.range 16).flatMap (t.used k)
  (List.range 16).map (fun c => all.count c)

/-- The failure of a tile: status, reason, and the count that failed (R269, R270). twoWay asks for the check of column groups. -/
def tileFailure (rows cols k : Nat) (twoWay : Bool) (ti tj : Nat) (t : TileIndex) : Option (Byte × Nat × Nat) :=
  let groups := List.range 16
  if groups.any (fun r => (t.used k r).any (fun c => decide (cols ≤ 16 * tj + c))) then some (stIndexRange, 0x08, 0)
  else if groups.any (fun r => !rising (t.used k r)) then some (stIndexRange, 0x09, 0)
  else if groups.any (fun r => decide (rows ≤ 16 * ti + r) && decide (nth t.counts r 0 ≠ 0)) then some (stIndexRange, 0x0A, 0)
  else match t.counts.find? (fun n => decide (k < n)) with
    | some n => some (stOverfull, 0x01, n)
    | none =>
      if !twoWay then none
      else ((columnCounts k t).find? (fun n => decide (k < n))).map (fun n => (stOverfull, 0x02, n))

/-- The index records of a tensor, in tile order. -/
def State.curdIndex (s : State) (d : CurdDesc) : List TileIndex :=
  (chunks d.indexBytes (s.read d.index (d.tiles * d.indexBytes)).data).map (tileIndexOf d.cap)

/-- The failing tile with the lowest number: its number and failure. -/
def curdFailure (d : CurdDesc) (twoWay : Bool) (ts : List TileIndex) : Option (Nat × Byte × Nat × Nat) :=
  ((ts.zipIdx).findSome? (fun (t, i) =>
    (tileFailure d.rows d.cols d.cap twoWay (i / max d.tilesAcross 1) (i % max d.tilesAcross 1) t).map (fun f => (i, f))))

/-- The result of a failing tile (R270). -/
def tileResult (f : Nat × Byte × Nat × Nat) : Result :=
  ⟨f.2.1, 0, detailOf f.2.2.1 f.2.2.2, BitVec.ofNat 32 (min f.1 0xFFFFFFFF), 0, 0⟩

/-- A stored value: its row, its column, its code, its exact value and its FP32 word. -/
structure CurdValue where
  row : Nat
  col : Nat
  code : Nat
  val : Fp
  word : F32
  deriving DecidableEq, Repr

/-- The stored values of a tensor, tile by tile, group by group. -/
def State.curdValues (s : State) (d : CurdDesc) : List CurdValue :=
  let areas := chunks d.valueBytes (s.read d.values (d.tiles * d.valueBytes)).data
  let scales := if isMx d.fmt then (s.read d.scales d.tiles).data else []
  ((s.curdIndex d).zipIdx).flatMap (fun (t, i) =>
    let ti := i / max d.tilesAcross 1
    let tj := i % max d.tilesAcross 1
    let codes := rowCodes d.fmt (16 * d.cap) (areas.getD i [])
    let sc := scales.getD i 0
    (List.range 16).flatMap (fun r => ((t.used d.cap r).zipIdx).map (fun (c, n) =>
      let v := nth codes (d.cap * r + n) 0
      if isMx d.fmt then ⟨16 * ti + r, 16 * tj + c, v, mxValue d.fmt v sc, mxWiden d.fmt v sc⟩
      else ⟨16 * ti + r, 16 * tj + c, v, wordValue d.fmt v, wordWiden d.fmt v⟩)))

/-! ### The skimmer -/

/-- The order of magnitudes (R261, R262): a NaN ranks above every other, then larger magnitudes, then lower row, then lower column. -/
def skimBefore (a b : Nat × Nat × F32) : Bool :=
  let k (v : F32) : Nat := if f32IsNan v then 2 ^ 31 else (f32Abs v).toNat
  if k a.2.2 = k b.2.2 then decide (a.1 < b.1) || (decide (a.1 = b.1) && decide (a.2.1 ≤ b.2.1)) else decide (k b.2.2 < k a.2.2)

/-- A value that modes 1 to 3 may keep: not a zero of either sign. -/
def skimNonzero (v : F32) : Bool := !f32IsZero v

/-- A value of at least THRESHOLD; a NaN always is (R261). -/
def skimAtLeast (th v : F32) : Bool := f32IsNan v || f32Le th (f32Abs v)

/-- The positions of a tile with their values: (row, column, value) within the tile. -/
abbrev TilePos := List (Nat × Nat × F32)

/-- The greedy selection of mode 3 (R262). -/
def greedyKeep (k : Nat) (ps : TilePos) : TilePos :=
  ps.foldl (fun kept p =>
    if (kept.filter (fun q => q.1 == p.1)).length < k ∧ (kept.filter (fun q => q.2.1 == p.2.1)).length < k then kept ++ [p] else kept) []

/-- The positions that a mode keeps in a tile (R261). mask gives the positions of MASK. -/
def skimKeep (mode k : Nat) (th : F32) (mask : List (Nat × Nat)) (ps : TilePos) : TilePos :=
  match mode with
  | 1 => ps.filter (fun p => skimNonzero p.2.2)
  | 2 => (List.range 16).flatMap (fun r =>
      (sortBy skimBefore (ps.filter (fun p => p.1 == r && skimNonzero p.2.2 && skimAtLeast th p.2.2))).take k)
  | 3 => greedyKeep k (sortBy skimBefore (ps.filter (fun p => skimNonzero p.2.2 && skimAtLeast th p.2.2)))
  | _ => mask.filterMap (fun m => ps.find? (fun p => p.1 == m.1 && p.2.1 == m.2))

/-- A tile as the skimmer writes it: its index record, its values in slot order, and the failure of a group beyond k. -/
structure SkimTile where
  index : TileIndex
  slots : List (Option F32)
  failure : Option (Byte × Nat × Nat)
  deriving DecidableEq, Repr, Inhabited

/-- The tile record of the kept positions, groups in rising column order. -/
def skimTile (k : Nat) (twoWay : Bool) (kept : TilePos) : SkimTile :=
  let groups := (List.range 16).map (fun r => sortBy (fun a b => decide (a.2.1 ≤ b.2.1)) (kept.filter (fun p => p.1 == r)))
  let full := groups.find? (fun g => decide (k < g.length))
  let cols := (List.range 16).map (fun c => (kept.filter (fun p => p.2.1 == c)).length)
  let fail := match full with
    | some g => some (stOverfull, 0x01, g.length)
    | none => if !twoWay then none else (cols.find? (fun n => decide (k < n))).map (fun n => (stOverfull, 0x02, n))
  ⟨⟨groups.map (fun g => min g.length 15), groups.flatMap (fun g => (List.range k).map (fun n => ((g.getD n (0, 0, 0)).2.1)))⟩,
    groups.flatMap (fun g => (List.range k).map (fun n => (g[n]?).map (fun p => p.2.2))), fail⟩

/-- The skimmed form of a matrix. -/
structure Skimmed where
  tiles : List SkimTile
  deriving DecidableEq, Repr, Inhabited

/-- The values of tile (ti, tj) of a matrix that exist. -/
def tilePositions (rows cols : Nat) (vals : List (List F32)) (ti tj : Nat) : TilePos :=
  (List.range 16).flatMap (fun r => (List.range 16).filterMap (fun c =>
    if 16 * ti + r < rows ∧ 16 * tj + c < cols then some (r, c, (vals.getD (16 * ti + r) []).getD (16 * tj + c) 0) else none))

/-- The positions within a tile that an index record holds. -/
def maskPositions (k : Nat) (t : TileIndex) : List (Nat × Nat) := (List.range 16).flatMap (fun r => (t.used k r).map (fun c => (r, c)))

/-- A matrix skimmed tile by tile. masks are the index records of MASK with its capacity. -/
def skimMatrix (mode k : Nat) (twoWay : Bool) (th : F32) (maskCap : Nat) (masks : List TileIndex) (rows cols : Nat) (vals : List (List F32)) : Skimmed :=
  let across := ceilDiv cols 16
  ⟨(List.range (ceilDiv rows 16 * across)).map (fun t =>
    let kept := skimKeep mode k th (maskPositions maskCap (masks.getD t default)) (tilePositions rows cols vals (t / max across 1) (t % max across 1))
    skimTile k twoWay kept)⟩

/-- The bytes of skimmed tiles: index array, value array, scales, counts, and the e of each tile (R263). -/
structure SkimBytes where
  index : List Byte
  values : List Byte
  scales : List Byte
  nnz : Nat
  count : ConvCount
  es : List (Option Int)
  deriving DecidableEq, Repr, Inhabited

/-- One tile as bytes: index record, values, scale byte, values kept, counts, e. -/
structure TileBytes where
  index : List Byte
  values : List Byte
  scale : Byte
  nnz : Nat
  count : ConvCount
  e : Option Int
  deriving DecidableEq, Repr, Inhabited

/-- The code of one slot; an unused slot holds 0. -/
def slotCode (fmt : Nat) (sc : BlockScale) (v : Option F32) : Nat × ConvCount :=
  match v with
  | none => (0, .zero)
  | some v =>
    if fmt = 0 then (v.toNat, .zero)
    else if !isMx fmt then toHalf fmt .nearest v
    else if sc.bad then (0, .zero)
    else ((toElem fmt sc.x .nearest v).1, ⟨(toElem fmt sc.x .nearest v).2, 0, 0⟩)

/-- The kept values of tile b converted to FMT under the recipe of OUT_KIND, with the tile in place of the block (R263). -/
def tileBytes (k kind fmt : Nat) (hist : Option (List (List (Option Int)))) (t : SkimTile) (b : Nat) : TileBytes :=
  let kept : List F32 := t.slots.filterMap (fun v => v)
  let e := blockE kept
  let sc : BlockScale × Nat := if !isMx fmt then (default, 0) else if kind = 4 then actGradScale fmt hist b kept e else (exactScale fmt 0 kept e, 0)
  let codes : List (Nat × ConvCount) := t.slots.map (slotCode fmt sc.1)
  ⟨t.index.bytes k, packCodes fmt (codes.map (fun c => c.1)), sc.1.byte, kept.length,
    codes.foldl (fun (a : ConvCount) c => a.add c.2) ⟨0, bnat (isMx fmt && sc.1.bad), sc.2⟩, e⟩

/-- Skimmed tiles as the arrays of a curd tensor. -/
def skimBytes (k kind fmt : Nat) (hist : Option (List (List (Option Int)))) (m : Skimmed) : SkimBytes :=
  let per : List TileBytes := (m.tiles.zipIdx).map (fun t => tileBytes k kind fmt hist t.1 t.2)
  ⟨per.flatMap (fun t => t.index), per.flatMap (fun t => t.values), if isMx fmt then per.map (fun t => t.scale) else [],
    per.foldl (fun a t => a + t.nnz) 0, per.foldl (fun (a : ConvCount) t => a.add t.count) .zero, per.map (fun t => t.e)⟩

/-- The lowest failing tile of a skim. -/
def skimFailure (m : Skimmed) : Option (Nat × Byte × Nat × Nat) :=
  (m.tiles.zipIdx).findSome? (fun (t, i) => t.failure.map (fun f => (i, f)))

/-- The descriptor fields that the skimmer writes (R263): FMT, CAP, FLAGS at 6 to 8, ROWS and COLS at 12 to 19, NNZ at 48 to 55. -/
def descWrites (desc fmt cap : Nat) (twoWay poisoned : Bool) (rows cols nnz : Nat) : List (Nat × List Byte) :=
  [(desc + 6, toLE 1 fmt ++ toLE 1 cap ++ toLE 1 (bnat twoWay + 2 * bnat poisoned)), (desc + 12, toLE 4 rows ++ toLE 4 cols), (desc + 48, toLE 8 nnz)]

/-- Two ranges share a byte. -/
def overlap (a b : Nat × Nat) : Bool := decide (0 < a.2) && decide (0 < b.2) && decide (a.1 < b.1 + b.2) && decide (b.1 < a.1 + a.2)

end Sys2Proof.Machine
end

