-- ==== Sys2Proof/Machine/LinkUnit.lean ====
section
/-! DEFINITION. The Hexvis links (R329 to R364): port configuration, presence and training, cells with retry and replay, packets, escape and reassembly, and lane degradation. -/
namespace Sys2Proof.Machine

/-! ### Commands -/

/-- The entries of CFG.LINK_PORTS: for each base lane with a port, its width code, HALF_RATE and AUTH. -/
def portEntries (p : List Byte) : List (Nat × Nat × Bool × Nat) :=
  (List.range 64).filterMap (fun l =>
    let b := field p (32 + l) 1
    if b % 8 = 0 then none else some (l, b % 8, bitAt b 3, b / 16 % 4))

/-- The entry of a lane breaks R334: a reserved bit or a reserved code, a base lane that is no multiple of the width, or a base lane inside the port of a lower one. Each breach stands at the entry's own byte. -/
def portEntryBad (p : List Byte) (l : Nat) : Bool :=
  let b := field p (32 + l) 1
  decide (64 ≤ b) || decide (4 < b % 8) || decide (b / 16 % 4 = 3)
    || (decide (b % 8 ≠ 0) && (decide (l % max (widthLanes (b % 8)) 1 ≠ 0) || (portEntries p).any (fun e => decide (e.1 < l) && decide (l < e.1 + widthLanes e.2.1))))

/-- The breaches of R334, and whether there is one. -/
def portBreaches (p : List Byte) : List Breach := (List.range 64).map (fun l => bParam (portEntryBad p l) 0x60 (32 + l))
def portsBad (p : List Byte) : Bool := (List.range 64).any (portEntryBad p)

/-- Ports configured by entries: unchanged ones are left, changed ones are brought down and train again (R334). -/
def State.setPorts (s : State) (es : List (Nat × Nat × Bool × Nat)) (cause : Nat) : State :=
  let same (p : Port) (e : Nat × Nat × Bool × Nat) : Bool := p.num == e.1 && p.cfgWidth == e.2.1 && p.cfgHalf == e.2.2.1 && p.authMode == e.2.2.2
  let ports := es.map (fun e => (s.link.ports.find? (fun p => same p e)).getD (freshPort e.1 e.2.1 e.2.2.1 e.2.2.2))
  let changed := es.filter (fun e => !s.link.ports.any (fun p => same p e))
  changed.foldl (fun s e => s.askTraining e.1 false cause) { s with link := { s.link with ports := ports } }

def cfgLinkPortsInfo : OpInfo where
  code := 0x1201
  len := some 32
  used := [(32, 64)]
  reason := 0x60
  static := portBreaches
  dyn := fun s _ => [bBusy s.stepRunning 0]

def effectCfgLinkPorts (s : State) (c : Ctx) : State × Option Result := (s.setPorts (portEntries c.pkt) 1, some resOK)

/-- CFG.LINK_PORTS (R334). -/
def execCfgLinkPorts (id : Nat) (s : State) : Out State := .next (s.settle (s.runCmd cfgLinkPortsInfo id effectCfgLinkPorts))

/-- Route entries in memory. -/
def State.routeWords (s : State) (a n : Nat) : List W32 := ((chunks 4 (s.read a (4 * n)).data).map leNat).map (BitVec.ofNat 32 ·)

def cfgLinkRouteInfo : OpInfo where
  code := 0x1202
  used := [(32, 2), (36, 12)]
  reason := 0x62
  static := fun p => [bParam (decide (field p 36 4 = 0) || decide (65536 < field p 36 4) || decide (65536 < field p 32 2 + field p 36 4)) 0x62 36]
  dyn := fun s c =>
    let n := c.f 36 4
    let a := c.f 40 8
    rangeBreach s c a (4 * min n 65536) 40 ++
    (if (s.rangeReason a (4 * n)).isSome || decide (65536 < n) || !(s.read a (4 * n)).good then [] else
      [bParam ((s.routeWords a n).any (fun w => (routePaths w).any (fun k => k.1 && (s.port? k.2).isNone))) 0x62 40])

def effectCfgLinkRoute (s : State) (c : Ctx) : State × Option Result :=
  let n := c.f 36 4
  let a := c.f 40 8
  let s1 := s.noteRead 4 a (4 * n)
  match readStatus (s.read a (4 * n)) with
  | some r => (s1, some r)
  | none =>
    let es := ((s.routeWords a n).zipIdx).map (fun (w, i) => (c.f 32 2 + i, w))
    let put (rs : List (Nat × W32)) : List (Nat × W32) := rs.filter (fun r => !(decide (c.f 32 2 ≤ r.1) && decide (r.1 < c.f 32 2 + n))) ++ es
    if s1.stepRunning then ({ s1 with link := { s1.link with pendingRoutes := put s1.link.pendingRoutes } }, some resOK)
    else ({ s1 with link := { s1.link with routes := put s1.link.routes } }, some resOK)

/-- CFG.LINK_ROUTE (R353). -/
def execCfgLinkRoute (id : Nat) (s : State) : Out State := .next (s.settle (s.runCmd cfgLinkRouteInfo id effectCfgLinkRoute))

/-- Chip IDs in memory. -/
def State.chipIds (s : State) (a n : Nat) : List Nat := (chunks 2 (s.read a (2 * n)).data).map leNat

def cfgLinkRanksInfo : OpInfo where
  code := 0x1203
  used := [(40, 8)]
  reason := 0x61
  dyn := fun s c =>
    let a := c.f 40 8
    let n := s.jobN
    [bParam s.graph.job.isNone 0x61 0, bBusy s.stepRunning 0] ++
    (if s.graph.job.isNone then [] else rangeBreach s c a (2 * n) 40 ++
      (if (s.rangeReason a (2 * n)).isSome || !(s.read a (2 * n)).good then [] else [bParam (decide ((s.chipIds a n).dedup.length ≠ n)) 0x61 40]))

def effectCfgLinkRanks (s : State) (c : Ctx) : State × Option Result :=
  let a := c.f 40 8
  let s1 := s.noteRead 4 a (2 * s.jobN)
  match readStatus (s.read a (2 * s.jobN)) with
  | some r => (s1, some r)
  | none => ({ s1 with graph := { s1.graph with ranks := some (s.chipIds a s.jobN) } }, some resOK)

/-- CFG.LINK_RANKS (R335). -/
def execCfgLinkRanks (id : Nat) (s : State) : Out State := .next (s.settle (s.runCmd cfgLinkRanksInfo id effectCfgLinkRanks))

/-- The settings that a packet names (R363). -/
def linkPolicyOf (p : List Byte) : LinkPolicy :=
  { weights := (List.range 5).map (fun i => field p (32 + i) 1), hopLimit := field p 37 1, escapeWait := field p 38 2, pinWidth := bitAt (field p 40 1) 0,
    marginal := BitVec.ofNat 32 (field p 44 4), uncorrLimit := field p 48 4, spill := field p 56 8, spillSize := field p 64 8 }

def cfgLinkPolicyInfo : OpInfo where
  code := 0x1205
  len := some 32
  used := [(32, 9), (44, 8), (56, 16)]
  reason := 0x63
  static := fun p =>
    let k := linkPolicyOf p
    [ bAlign (decide (k.spill % 32 ≠ 0)) 56,
      bParam (k.weights.any (fun w => decide (w = 0) || decide (15 < w))) 0x63 32,
      bParam (decide (k.hopLimit = 0) || decide (127 < k.hopLimit)) 0x63 37,
      bParam (decide (k.escapeWait = 0) || decide (1000 < k.escapeWait)) 0x63 38,
      bParam (decide (1 < field p 40 1)) 0x63 40,
      bParam (!f32Finite k.marginal || decide (f32ToRat k.marginal < f32ToRat 0x322BCC77) || decide (f32ToRat 0x3C23D70A < f32ToRat k.marginal)) 0x63 44,
      bParam (decide (k.uncorrLimit = 0) || decide (65535 < k.uncorrLimit)) 0x63 48 ]
  dyn := fun s c => let k := linkPolicyOf c.pkt; if k.spillSize = 0 then [] else rangeBreach s c k.spill k.spillSize 56

def effectCfgLinkPolicy (s : State) (c : Ctx) : State × Option Result :=
  if s.stepRunning then ({ s with link := { s.link with pendingPolicy := some (linkPolicyOf c.pkt) } }, some resOK)
  else ({ s with link := { s.link with policy := linkPolicyOf c.pkt } }, some resOK)

/-- CFG.LINK_POLICY (R363). -/
def execCfgLinkPolicy (id : Nat) (s : State) : Out State := .next (s.settle (s.runCmd cfgLinkPolicyInfo id effectCfgLinkPolicy))

def cfgLinkRetrainInfo : OpInfo where
  code := 0x1206
  used := [(32, 2)]
  dyn := fun s c => [bParam (s.port? (c.f 32 1)).isNone 0 32, bParam (decide (1 < c.f 33 1)) 0 33, bBusy s.stepRunning 0]

def effectCfgLinkRetrain (s : State) (c : Ctx) : State × Option Result := (s.askTraining (c.f 32 1) (decide (c.f 33 1 = 1)) 1, some resOK)

/-- CFG.LINK_RETRAIN (R339). -/
def execCfgLinkRetrain (id : Nat) (s : State) : Out State := .next (s.settle (s.runCmd cfgLinkRetrainInfo id effectCfgLinkRetrain))

/-! ### Presence and training -/

/-- A group's presence as filtered: its ports train once all their groups are present, and are brought down when one is absent (R336, R337, R341). -/
def State.setPresence (s : State) (g : Nat) (present : Bool) : State :=
  if 16 ≤ g ∨ s.link.present.getLsbD g = present then s else
  let bit : W16 := 1 <<< g
  let s1 := { s with link := { s.link with
    present := if present then s.link.present ||| bit else s.link.present &&& ~~~bit
    changed := s.link.changed ||| bit } }
  let mine := s1.link.ports.filter (fun p => p.groups.contains g)
  if present then mine.foldl (fun s p => if s.portPresent p then s.askTraining p.num false 0 else s) s1
  else mine.foldl (fun s p => s.bringDown p.num) s1

/-- CABLE_PRESENCE_CHANGE (R336). -/
def execCablePresenceChange (group : Nat) (present : Bool) (s : State) : Out State := .next (s.settle (s.setPresence group present))

/-- An attempt begins (R337). Its handshake lies within the row that ends it. -/
def State.beginAttempt (s : State) (p : Nat) : State := s.updPort p (fun x => { x with attempts := x.attempts + 1, trying := true })

/-- TRAINING_ATTEMPT (R337): the first attempt of a port that was asked to train. -/
def execTrainingAttempt (port : Nat) (s : State) : Out State :=
  .next (s.settle (match s.port? port with
    | some x => if x.state = .training ∧ x.attempts = 0 ∧ s.portPresent x then s.beginAttempt port else s
    | none => s))

/-- An attempt fails (R339): after the third the port is FAILED. event says why. -/
def State.failAttempt (s : State) (p : Port) (event : Nat) : State :=
  (s.updPort p.num (fun x => { x with trying := false, state := if 3 ≤ x.attempts then .failed else .training })).linkDecision p.num p.num event 2 3

/-- TRAINING_DEADLINE (R339). -/
def execTrainingDeadline (port : Nat) (s : State) : Out State :=
  .next (s.settle (match s.port? port with
    | some x => if x.trying then s.failAttempt x 5 else s
    | none => s))

/-- TRAINING_RETRY_TIMER (R339). -/
def execTrainingRetryTimer (port : Nat) (s : State) : Out State :=
  .next (s.settle (match s.port? port with
    | some x => if x.state = .training ∧ !x.trying ∧ 1 ≤ x.attempts ∧ x.attempts < 3 ∧ s.portPresent x then s.beginAttempt port else s
    | none => s))

/-- The largest aligned block of a port's lanes, no wider than a limit, in which every lane passes a test; the lowest of equal blocks (R338, R359). -/
def alignedBlock (lanes : List Nat) (limit : Nat) (ok : Nat → Bool) : List Nat :=
  let n := lanes.length
  let sizes := [8, 4, 2, 1].filter (fun k => decide (k ≤ n) && decide (k ≤ limit))
  let blocks := sizes.flatMap (fun k => (List.range (n / k)).map (fun i => (lanes.drop (i * k)).take k))
  (blocks.find? (fun b => b.all ok)).getD []

/-- A test pattern of 20 ms leaves a lane fit (R338). -/
def testFit (corrected uncorrectable : Nat) : Bool := decide (corrected ≤ 100) && decide (uncorrectable = 0)

/-- This end judges a lane of its port fit (R338). -/
def TrainResult.ownFit (r : TrainResult) (base l : Nat) : Bool := testFit (r.corrected.getD (l - base) 101) (r.uncorrectable.getD (l - base) 1)

/-- A lane is fit at both ends. -/
def TrainResult.bothFit (r : TrainResult) (base l : Nat) : Bool := TrainResult.ownFit r base l && r.peerFit.getD (l - base) false

/-- A port UP: it joins routing at once, or at the next boundary when a step runs (R340). -/
def State.portUp (s : State) (p : Nat) (authenticated : Bool) : State :=
  s.updPort p (fun x => { x with state := .up, authenticated := authenticated, joined := !s.stepRunning })

/-- A port as its handshake leaves it (R338): width, rate, peer and reversal, and full credit (R352). -/
def Port.trained (x : Port) (r : TrainResult) (lanes : List Nat) : Port :=
  { x.reset with
    lanes := lanes, half := x.cfgHalf || x.retryHalf || r.peerHalf, peer := BitVec.ofNat 16 r.peerId, peerWidth := r.peerWidth, peerNum := r.peerPort, reversed := r.reversed, attempts := x.attempts,
    retryHalf := x.retryHalf, cause := x.cause, credits := creditShares.map (· * lanes.length) }

/-- A lane as the handshake leaves it: fit or not, its polarity corrected. -/
def Lane.trained (l : Lane) (r : TrainResult) (base : Nat) : Lane :=
  { l with removed := !TrainResult.bothFit r base l.num, pendingRemove := false, pendingRejoin := false, inverted := r.inverted.getD (l.num - base) false }

/-- The handshake frames of a port, one on each configured lane (R338). -/
def State.sendHandshake (s : State) (x : Port) : State :=
  { s with out := { s.out with wire := s.out.wire ++ x.configured.map (fun l => .handshake x.num l s.chipId.toNat x.cfgWidth (x.cfgHalf || x.retryHalf)) } }

/-- TRAINING_COMPLETE (R338): handshake frames leave; the port takes the lanes fit at both ends, or fails the attempt. With AUTH off it is UP; otherwise it is in AUTH, and authenticates in its turn (R357). -/
def execTrainingComplete (port : Nat) (r : TrainResult) (s : State) : Out State :=
  .next (s.settle (match s.port? port with
    | none => s
    | some x =>
      if !x.trying then s else
      let s1 := s.sendHandshake x
      let lanes := alignedBlock x.configured (widthLanes r.peerWidth) (TrainResult.bothFit r x.num)
      if lanes.isEmpty then s1.failAttempt x 6 else
      let s2 := (s1.updPort port (fun y => y.trained r lanes)).linkDecision port port 1 0 x.cause
      let s3 := { s2 with link := { s2.link with lanes := mapWhere (fun l => x.configured.contains l.num) (fun l => l.trained r x.num) s2.link.lanes } }
      if x.authMode = 0 then s3.portUp port false else s3.updPort port (fun y => { y with state := .auth })))

/-- A verification has failed, or no exchange completed within 100 ms (R358). -/
def State.authFails (s : State) (p : Port) : State :=
  if p.authMode = 2 then (s.updPort p.num (fun x => { x with state := .authFailed })).linkDecision p.num p.num 7 2 3
  else s.portUp p.num false

/-- AUTH_TIMEOUT (R358). -/
def execAuthTimeout (port : Nat) (s : State) : Out State :=
  .next (s.settle (match s.port? port with
    | some x => if x.state = .auth then s.authFails x else s
    | none => s))

/-! ### Cells -/

/-- The 36 symbols of a word after correction (R347, R350): only the corrected symbol is rewritten. -/
def correctedSymbols (st : WordState) (syms : List Byte) : List Byte :=
  match st with
  | .corrected l e => syms.set l (syms.getD l 0 ^^^ e)
  | _ => syms

/-- Sequence a is covered by an acknowledgement of b. -/
def seqCovered (a b : W32) : Bool := decide ((b - a).toNat < 2 ^ 31)

/-- A cell that cannot be used is counted (R364), and the receiver asks for it again on every lane of the port (R347). While it already waits for an earlier cell it asks for nothing; cells after the one it asks for go. -/
def State.nakCell (s : State) (p l : Nat) (seq : W32) : State :=
  let s1 := s.updLane l (fun x => { x with uncorr := if x.uncorr = 0xFFFFFF then x.uncorr else x.uncorr + 1 })
  match s1.port? p with
  | none => s1
  | some x =>
    if x.nak.any (fun n => n != seq && seqCovered n seq) then s1
    else (s1.updPort p (fun y => { y with discarding := true, nak := some seq, skew := y.skew.filter (fun c => !seqCovered seq c.seq) })).sendControl p
      (fun c => { c with nakValid := true, nakSeq := seq.toNat })

/-- A packet in reception takes its next payload cell. -/
def Port.takePayload (x : Port) (pkt : Packet) (left : Nat) (symbols : List Byte) : Port :=
  let pkt' := { pkt with words := pkt.words ++ [symbols] }
  if left ≤ 1 then { x with rx := none, whole := x.whole ++ [pkt'] } else { x with rx := some (pkt', left - 1) }

/-- A header cell begins a packet. -/
def Port.takeHeader (x : Port) (pkt : Packet) : Port :=
  if pkt.bytes = 0 then { x with rx := none, whole := x.whole ++ [pkt] } else { x with rx := some (pkt, ceilDiv pkt.bytes 32) }

/-- The cell next in order: payload of the packet in reception, an idle cell, which has no sequence, or a header; anything else at a packet boundary is uncorrectable (R343, R344). -/
def State.acceptCell (s : State) (p l : Nat) (seq : W32) (symbols : List Byte) : State :=
  match s.port? p with
  | none => s
  | some x =>
    let bs := symbols.drop 4
    match x.rx with
    | some (pkt, left) => s.updPort p (fun y => { y.takePayload pkt left symbols with expectSeq := seq + 1 })
    | none =>
      if bs.all (· == 0) then s
      else if bs.getD 31 0 ≠ 0xA5 then s.nakCell p l seq
      else s.updPort p (fun y => { y.takeHeader (packetOfHeader bs) with expectSeq := seq + 1 })

/-- Cells that came ahead of their turn, now that theirs has come (R332). fuel bounds them. -/
def State.flushSkew (p : Nat) : Nat → State → State
  | 0, s => s
  | n + 1, s =>
    match s.port? p with
    | none => s
    | some x =>
      match x.skew.find? (fun c => c.seq == x.expectSeq) with
      | none => s
      | some c => State.flushSkew p n ((s.updPort p (fun y => { y with skew := y.skew.filter (fun d => d.seq != c.seq) })).acceptCell p c.lane c.seq c.symbols)

/-- A good cell takes its place: the next in order is accepted, and what waited for it; one already taken is dropped; one ahead of its turn waits (R332). -/
def State.placeCell (s : State) (p : Nat) (c : EarlyCell) : State :=
  match s.port? p with
  | none => s
  | some x =>
    if c.seq = x.expectSeq then State.flushSkew p x.skew.length (s.acceptCell p c.lane c.seq c.symbols)
    else if seqCovered c.seq (x.expectSeq - 1) || x.skew.any (fun d => d.seq == c.seq) then s
    else s.updPort p (fun y => { y with skew := y.skew ++ [c] })

/-- CELL_RECEIVE (R347): the sequence is the one that the cell has on its port. While the port waits for a cell sent again, every later cell is discarded. -/
def execCellReceive (lane : Nat) (seq : Nat) (symbols : List Byte) (s : State) : Out State :=
  .next (s.settle (match s.laneOwner lane with
    | none => s
    | some p =>
      if !(p.lanes.contains lane) || !(p.state == .up || p.state == .auth) then s else
      let q : W32 := BitVec.ofNat 32 seq
      match (decodeWord symbols).1 with
      | .uncorrectable => s.nakCell p.num lane q
      | st =>
        let s1 := if st.isFixed then s.updLane lane (fun x => { x with corr := satAdd32 x.corr 1 }) else s
        if p.nak.any (fun n => n != q && seqCovered n q) then s1
        else
          let s2 := if p.nak = some q then s1.updPort p.num (fun x => { x with discarding := false, nak := none }) else s1
          s2.placeCell p.num ⟨q, lane, correctedSymbols st symbols⟩))

/-- The cells from a sequence on are sent again; after eight replays from one sequence without progress the port is lost instead (R348, R349). -/
def State.replay (s : State) (p : Nat) (from' : W32) : State :=
  match s.port? p with
  | none => s
  | some x =>
    let n := if x.replayFrom = from' then x.replays else 0
    if 8 ≤ n then s.losePort p p else
    let cells := x.replayBuf.filter (fun c => seqCovered from' c.seq)
    let s1 := s.updPort p (fun y => { y with replays := n + 1, replayFrom := from' })
    ({ s1 with link := { s1.link with
        replayCounts := assocSet s1.link.replayCounts p (satAdd32 (assocGet s1.link.replayCounts p 0) 1)
        replayedCells := assocSet s1.link.replayedCells p (satAdd32 (assocGet s1.link.replayedCells p 0) cells.length) } }).sendCells p cells

/-- An acknowledgement: covered cells leave the replay buffer, and progress ends a run of replays (R348, R349). -/
def Port.acked (x : Port) (a : W32) : Port :=
  let rest := x.replayBuf.filter (fun c => !seqCovered c.seq a)
  let progress := decide (rest.length < x.replayBuf.length)
  { x with ackSeq := a, replayBuf := rest, replays := if progress then 0 else x.replays }

/-! ### Lanes that leave and rejoin -/

/-- The lanes of a port that are not removed, as its new width (R359). -/
def State.newWidth (s : State) (p : Port) : List Nat :=
  alignedBlock p.configured (if p.peerWidth = 0 then 8 else widthLanes p.peerWidth) (fun l => match s.lane? l with
    | some x => !x.removed
    | none => false)

/-- How many frames until a change, of the sender's choosing: 1 to 255 (R342). -/
def State.switchFrames (s : State) : Nat × State := (1 + (Config.freeWord s.draw.1 0).toNat % 255, s.draw.2)

/-- A lane leaves its port (R359): a request to narrow goes out on the others, or the port is lost when none would remain. cause as CAUSE of R482. -/
def State.removeLane (s : State) (p : Port) (l cause : Nat) : State :=
  let s1 := (s.updLane l (fun x => { x with removed := true, pendingRemove := false })).linkDecision p.num l 2 0 cause
  let w := s1.newWidth p
  if w.isEmpty then s1.losePort p.num l
  else
    let n := s1.switchFrames
    (n.2.updPort p.num (fun x => { x with narrowTo := some w, removing := some l, switchIn := n.1 })).sendControl p.num (fun c => { c with narrowReq := true, lost := l, switchIn := n.1 })

/-- A removed lane comes back (R361): a request to rejoin goes out on it, and the port pauses. -/
def State.rejoinLane (s : State) (p : Port) (l : Nat) : State :=
  let s1 := (s.updLane l (fun x => { x with removed := false, pendingRejoin := false })).linkDecision p.num l 3 0 0
  let n := s1.switchFrames
  (n.2.updPort p.num (fun x => { x with narrowTo := some (n.2.newWidth p), switchIn := n.1, paused := true })).sendSlots p.num [l] (fun c => { c with rejoinReq := true, switchIn := n.1 })

/-- A peer asks to narrow (R359): its LOST is the peer's number of the lane. The port answers and stops new cells, or is lost when no lane would remain. -/
def State.takeNarrow (s : State) (p : Port) (c : CtlSlot) : State :=
  let lost := p.ownLane c.lost
  let s1 := (s.updLane lost (fun x => { x with removed := true, pendingRemove := false })).linkDecision p.num lost 2 0 3
  let w := s1.newWidth p
  if w.isEmpty then s1.losePort p.num lost
  else (s1.updPort p.num (fun x => { x with narrowTo := some w, removing := some lost, switchIn := c.switchIn, paused := true })).sendControl p.num (fun c => { c with narrowAck := true })

/-- A peer asks to let the lane of its slot rejoin (R361): not with PIN_WIDTH set. -/
def State.takeRejoin (s : State) (p : Port) (l : Nat) (c : CtlSlot) : State :=
  if s.link.policy.pinWidth then s else
  let s1 := (s.updLane l (fun x => { x with removed := false, pendingRejoin := false })).linkDecision p.num l 3 0 0
  s1.updPort p.num (fun x => { x with narrowTo := some (s1.newWidth p), switchIn := c.switchIn, paused := true })

/-- A peer's control slot (R342): acknowledgement, credits, a replay request, and the exchange that changes the width. -/
def State.takeSlot (s : State) (p : Port) (l : Nat) (c : CtlSlot) : State :=
  let s1 := s.updPort p.num (fun x => (x.acked (BitVec.ofNat 32 c.ackSeq)).credited c.credit)
  let s2 := if c.nakValid then s1.replay p.num (BitVec.ofNat 32 c.nakSeq) else s1
  let s3 := if c.narrowReq then s2.takeNarrow p c else s2
  let s4 := if c.narrowAck then s3.updPort p.num (fun x => if x.narrowTo.isSome then { x with narrowAck := true, paused := true } else x) else s3
  let s5 := if c.rejoinReq then s4.takeRejoin p l c else s4
  s5.drain p.num

/-- CONTROL_SLOT_RECEIVE (R342): a slot without the marker is no control slot. -/
def execControlSlotReceive (slotLane : Nat) (c : CtlSlot) (s : State) : Out State :=
  .next (s.settle (match s.laneOwner slotLane with
    | none => s
    | some p => if c.marker ≠ 0x48585653 ∨ ¬ (p.state = .up ∨ p.state = .auth) then s else s.takeSlot p slotLane c))

/-- REPLAY_TIMER (R348): the timer does not run while the port pauses. -/
def execReplayTimer (port : Nat) (s : State) : Out State :=
  .next (s.settle (match s.port? port with
    | none => s
    | some x => match x.replayBuf with
      | [] => s
      | c :: _ => if x.paused ∨ ¬ (x.state = .up ∨ x.state = .auth) then s else s.replay port c.seq))

/-- LANE_LOSS_OF_LOCK (R359). -/
def execLaneLossOfLock (lane : Nat) (s : State) : Out State :=
  .next (s.settle (
    let s1 := s.updLane lane (fun x => { x with lockLoss := if x.lockLoss = 0xFF then x.lockLoss else x.lockLoss + 1 })
    match s1.laneOwner lane with
    | some p => if (p.state = .up ∨ p.state = .auth) ∧ p.lanes.contains lane then s1.removeLane p lane 3 else s1
    | none => s1))

/-- WIDTH_SWITCH (R359): at the named frame the port takes its new width and pauses. -/
def execWidthSwitch (port : Nat) (s : State) : Out State :=
  .next (s.settle (match s.port? port with
    | none => s
    | some x => match x.narrowTo with
      | none => s
      | some w => if !x.paused then s else s.updPort port (fun y => { y with lanes := w, narrowTo := none, removing := none, switchIn := 0, narrowAck := false, deal := 0, paused := true })))

/-- RESTRIPE_DONE (R359): both ends replay from the last acknowledged cell, and new cells flow again. -/
def execRestripeDone (port : Nat) (s : State) : Out State :=
  .next (s.settle (match s.port? port with
    | none => s
    | some x =>
      if !x.paused || x.narrowTo.isSome then s else
      let s1 := s.updPort port (fun y => { y with paused := false })
      (if x.replayBuf.isEmpty then s1 else s1.replay port (x.ackSeq + 1)).drain port))

/-- LANE_MARGINAL (R360): a 1 s window of a lane over its thresholds. -/
def execLaneMarginal (lane cells corrected uncorrectable : Nat) (s : State) : Out State :=
  .next (s.settle (
    let k := s.link.policy
    let bad := decide (f32ToRat k.marginal * (cells : Rat) < (corrected : Rat)) || decide (k.uncorrLimit < uncorrectable)
    match s.laneOwner lane with
    | none => s
    | some p =>
      if !bad || k.pinWidth || !p.lanes.contains lane || p.state != .up then s
      else if s.stepRunning then s.updLane lane (fun x => { x with pendingRemove := true })
      else s.removeLane p lane 0))

/-- LANE_REJOIN (R361): a removed lane that is fit again, and whose test pattern has shown corrected cells below 10^-6 for 10 s, rejoins at the next step boundary. -/
def execLaneRejoin (t : LaneTest) (s : State) : Out State :=
  .next (s.settle (match s.laneOwner t.lane, s.lane? t.lane with
    | some p, some x =>
      if x.removed && !s.link.policy.pinWidth && p.state == .up && testFit t.testCorrected t.testUncorrectable && decide (t.corrected * 1000000 < t.cells) then
        s.updLane t.lane (fun y => { y with pendingRejoin := true })
      else s
    | _, _ => s))

/-! ### Packets -/

/-- The room of the reassembly area in the shared cache (R346). -/
def reasmArea : Nat := 16 * 2 ^ 20

/-- What lies in the spill area: for each part or piece that does, its first byte within the area and its bytes. -/
def State.spilledRuns (s : State) : List (Nat × Nat) :=
  (s.link.reasm.flatMap (·.parts)).filterMap (fun q => q.spilled.map (fun a => (a, q.bytes.length)))
    ++ s.coll.early.filterMap (fun e => e.spilled.map (fun a => (a, e.piece.data.length)))

/-- Bytes in the area of the cache. -/
def State.cachedBytes (s : State) : Nat :=
  (((s.link.reasm.flatMap (·.parts)).filter (·.spilled.isNone)).map (·.bytes.length)).sum + ((s.coll.early.filter (·.spilled.isNone)).map (·.piece.data.length)).sum

/-- The first place in the spill area with room for n bytes, on a word. -/
def State.spillPlace (s : State) (n : Nat) : Option Nat :=
  let runs := s.spilledRuns
  let starts := 0 :: runs.map (fun r => roundUp (r.1 + r.2) 32)
  let free (a : Nat) : Bool := decide (a + roundUp n 32 ≤ s.link.policy.spillSize) && runs.all (fun r => decide (a + roundUp n 32 ≤ r.1) || decide (roundUp (r.1 + r.2) 32 ≤ a))
  (sortBy (fun (a b : Nat) => decide (a ≤ b)) starts).find? free

/-- Room for bytes in reassembly (R346): the area of the cache, then the spill area, in which they are written; when that is full too, the wave is raised and there is none. The place is none for the cache. -/
def State.reasmRoom (s : State) (bs : List Byte) : State × Option (Option Nat) :=
  if s.cachedBytes + bs.length ≤ reasmArea then (s, some none)
  else match s.spillPlace bs.length with
    | some a => ((s.store 4 (s.link.policy.spill + a) (padTo (roundUp bs.length 32) bs)).1, some (some a))
    | none => (s.raiseWave 0x08 0, none)

/-- A part of a batch for this chip is kept until all have come (R346). -/
def State.keepPart (s : State) (p : Packet) : State :=
  let r := s.reasmRoom (Packet.payload p)
  match r.2 with
  | none => r.1
  | some place =>
    let same (r : Reasm) : Bool := r.src == p.src && r.vc == p.vc && r.tag == p.batch
    let rs := if r.1.link.reasm.any same then r.1.link.reasm else r.1.link.reasm ++ [⟨p.src, p.vc, p.batch, p.proto, p.inline, [], none, false⟩]
    let add (r : Reasm) : Reasm := { r with
      parts := r.parts.filter (fun q => q.part != p.part) ++ [⟨p.part, (Packet.payload p), place⟩]
      lastPart := if p.lastPart then some p.part else r.lastPart
      poisoned := r.poisoned || p.poisoned }
    { r.1 with link := { r.1.link with reasm := mapWhere same add rs } }

/-- A packet for another chip: one hop more, on its egress, or discarded (R354, R356). Its cells lie in the port's buffer until it leaves. -/
def State.forwardPacket (s : State) (port : Nat) (p : Packet) : State :=
  if s.link.policy.hopLimit ≤ p.hops then (s.freeCells port (Packet.buffer p) (packetCells p)).discardPacket false
  else match s.egressOf p with
    | none => (s.freeCells port (Packet.buffer p) (packetCells p)).discardPacket true
    | some q => s.enqueue q ⟨{ p with hops := p.hops + 1 }, (Packet.credit p), some (port, (Packet.buffer p)), none⟩

/-- PACKET_RECEIVE (R354): header-only packets of VC 0, 5 and 6 are taken by the rows of their records. -/
def execPacketReceive (port : Nat) (p : Packet) (s : State) : Out State :=
  .next (s.settle (match s.port? port with
    | none => s
    | some x =>
      if !x.carries p.vc || !vcOpen s.isHalted p.vc then s
      else
        let s1 := (s.updPort port (fun y => { y with whole := y.whole.erase p })).holdCells port (Packet.buffer p) (packetCells p)
        if p.dest = s.chipId.toNat then
          let s2 := s1.freeCells port (Packet.buffer p) (packetCells p)
          if fixedVc p.vc then s2 else s2.keepPart p
        else s1.forwardPacket port p))

/-- The next packet of a virtual channel, where it waits for credit on a port. -/
def Port.blocked (x : Port) (vc : Nat) : Option Waiting :=
  match x.next vc with
  | some w => if x.credits.getD w.buffer 0 < packetCells w.pkt ∧ !w.pkt.escape then some w else none
  | none => none

/-- ESCAPE_WAIT (R354). -/
def execEscapeWait (port vc : Nat) (s : State) : Out State :=
  .next (s.settle (match s.port? port with
    | none => s
    | some x => match x.blocked vc with
      | none => s
      | some w =>
        if fixedVc vc then s else
        let p := { w.pkt with escape := true }
        match s.egressOf p with
        | none => s
        | some q =>
          let s1 := { s with link := { s.link with escapes := assocSet s.link.escapes port (satAdd32 (assocGet s.link.escapes port 0) 1) } }
          (s1.updPort port (fun y => { y with egress := y.egress.erase w })).enqueue q { w with pkt := p, buffer := (Packet.credit p) }))

/-- A batch is whole: parts 0 to the last have all come. -/
def Reasm.whole (r : Reasm) : Bool :=
  match r.lastPart with
  | none => false
  | some n => (List.range (n + 1)).all (fun i => r.parts.any (fun q => q.part == i))

/-- The bytes of a batch by PART; those of the spill area are read back. -/
def State.batchRead (s : State) (r : Reasm) : ReadRes :=
  ((sortBy (fun (a b : BatchPart) => decide (a.part ≤ b.part)) r.parts).map (fun q => match q.spilled with
    | none => ⟨q.bytes, [], [], []⟩
    | some a => s.read (s.link.policy.spill + a) q.bytes.length)).foldl ReadRes.append ⟨[], [], [], []⟩

/-- BATCH_REASSEMBLED (R346): the records of a whole batch are handed to their user, and the area is freed. -/
def execBatchReassembled (src vc tag : Nat) (s : State) : Out State :=
  .next (s.settle (match s.link.reasm.find? (fun r => r.src == src && r.vc == vc && r.tag == tag && r.whole) with
    | none => s
    | some r =>
      let b := s.batchRead r
      { s with link := { s.link with
          reasm := s.link.reasm.filter (fun r => !(r.src == src && r.vc == vc && r.tag == tag))
          delivered := s.link.delivered ++ [⟨src, vc, r.proto, r.inline, r.poisoned || !b.good, b.data⟩] } }))

/-! ### The step boundary -/

/-- What waited for the boundary: routes and policy (R333), ports that reached UP join routing (R340), marginal lanes leave and clean ones rejoin, unless the width is pinned (R360, R361). -/
def State.linkBoundary (s : State) : State :=
  let k := s.link
  let routes := k.routes.filter (fun r => !k.pendingRoutes.any (fun q => q.1 == r.1)) ++ k.pendingRoutes
  let ports := k.ports.map (fun (p : Port) => if p.state = .up then { p with joined := true } else p)
  let policy := k.pendingPolicy.getD k.policy
  let lanes := if policy.pinWidth then k.lanes.map (fun (l : Lane) => { l with pendingRemove := false, pendingRejoin := false }) else k.lanes
  let k1 : Link := { k with routes := routes, pendingRoutes := [], policy := policy, pendingPolicy := none, ports := ports, lanes := lanes }
  let s1 : State := { s with link := k1 }
  let s2 := (s1.link.lanes.filter (·.pendingRemove)).foldl (fun s l => match s.laneOwner l.num with
    | some p => if p.state = .up then s.removeLane p l.num 0 else s
    | none => s) s1
  (s2.link.lanes.filter (·.pendingRejoin)).foldl (fun s l => match s.laneOwner l.num with
    | some p => if p.state = .up then s.rejoinLane p l.num else s
    | none => s) s2

end Sys2Proof.Machine
end

