-- ==== Sys2Proof/Machine/Sha3.lean ====
section
/-! DEFINITION. SHA3-256 (FIPS 202), in which every digest of the security chapter is formed (R527, R536). The state is five planes of five words; the constants of the rounds are computed as the standard defines them. -/
namespace Sys2Proof.Machine

/-- Two rows of words added bit by bit. -/
def addRows (a b : List W64) : List W64 := a.zipWith (· ^^^ ·) b

/-- Every plane takes the parity of the columns to the left, and of those to the right turned by one bit. -/
def mixColumns (planes : List (List W64)) : List (List W64) :=
  let parity := planes.foldl addRows (List.replicate 5 0)
  let mix := addRows (parity.rotate 4) ((parity.rotate 1).map (·.rotateLeft 1))
  planes.map (addRows mix)

/-- The walk (x, y) ↦ (y, 2x + 3y) from (1, 0), which visits every place of the planes but (0, 0). -/
def sha3Walk : Nat → List (Nat × Nat)
  | 0 => [(1, 0)]
  | n + 1 => match sha3Walk n with
    | [] => []
    | p :: rest => (p.2, (2 * p.1 + 3 * p.2) % 5) :: p :: rest

/-- A word moves one place on along the walk; the t-th is turned by the triangular number of t + 1. The word at (0, 0) stays. -/
def moveWords (planes : List (List W64)) : List (List W64) :=
  let path := (sha3Walk 24).reverse
  let moved := ((path.zip path.tail).zipIdx).map (fun s => (s.1.2, ((planes.getD s.1.1.2 []).getD s.1.1.1 0).rotateLeft ((s.2 + 1) * (s.2 + 2) / 2)))
  (List.range 5).map (fun y => (List.range 5).map (fun x =>
    match moved.find? (fun m => m.1 == (x, y)) with
    | some m => m.2
    | none => (planes.getD 0 []).getD 0 0))

/-- The nonlinear step, row by row: a word changes where the next is 0 and the one after is 1. -/
def bendRow (row : List W64) : List W64 := addRows row ((row.rotate 1).zipWith (fun a b => ~~~a &&& b) (row.rotate 2))

/-- The bits of the round constants: x^t modulo x^8 + x^6 + x^5 + x^4 + 1, n bits from a register on. -/
def lfsrBits : Nat → Nat → List Bool
  | 0, _ => []
  | n + 1, r => r.testBit 0 :: lfsrBits n (if 128 ≤ r then (2 * r - 256) ^^^ 0x71 else 2 * r)

/-- The constants of the 24 rounds: bit j of the seven that a round takes stands at place 2^j − 1. -/
def roundWords : List W64 :=
  (chunks 7 (lfsrBits 168 1)).map (fun bits => ((bits.zipIdx).filter (·.1)).foldl (fun (w : W64) b => w ||| 1 <<< (2 ^ b.2 - 1)) 0)

/-- One round, with its constant. -/
def sha3Round (planes : List (List W64)) (constant : W64) : List (List W64) :=
  match (moveWords (mixColumns planes)).map bendRow with
  | (w :: row) :: rest => ((w ^^^ constant) :: row) :: rest
  | other => other

/-- The words of a block enter the state, which then passes through the rounds. -/
def sha3Block (planes : List (List W64)) (block : List Byte) : List (List W64) :=
  let words := (chunks 8 (padTo 200 block)).map (fun b => BitVec.ofNat 64 (leNat b))
  roundWords.foldl sha3Round (chunks 5 (addRows planes.flatten words))

/-- A message filled up to whole blocks of 136 bytes: 0x06 after it, and the top bit of the last byte. -/
def sha3Fill (m : List Byte) : List Byte :=
  let n := roundUp (m.length + 1) 136
  let bs := padTo n (m ++ [0x06])
  bs.set (n - 1) (bs.getD (n - 1) 0 ||| 0x80)

/-- SHA3-256: the first 32 bytes of the state after the last block. -/
def sha3 (m : List Byte) : List Byte :=
  (((chunks 136 (sha3Fill m)).foldl sha3Block (List.replicate 5 (List.replicate 5 0))).flatten.take 4).flatMap (fun w => toLE 8 w.toNat)

end Sys2Proof.Machine
end

