-- ==== Sys2Proof/Machine/SecUnit.lean ====
section
/-! DEFINITION. Identity, signing and attestation (R527 to R542): certificates, firmware images, measurements, quotes, debug unlock, the authentication of link ports (R357, R358), and FUNC.LOAD_PAIR,
whose image is measured. -/
namespace Sys2Proof.Machine

/-! ### Measurements (R536) -/

/-- Slot i extended by the digest of a value. -/
def State.extendSlot (s : State) (i : Nat) (x : List Byte) : State :=
  { s with sec := { s.sec with slots := s.sec.slots.set i (sha3 (s.sec.slots.getD i (zeros 32) ++ sha3 x)) } }

/-- DEVICE_ID (R528): the digest of the identity public key. -/
def State.deviceId (s : State) : List Byte := sha3 (Config.mldsaPublic s.fuses.idSeed)

/-! ### FUNC.LOAD_PAIR (R211, R212) -/

def effectFuncLoad (s : State) (c : Ctx) : State × Option Result := effectFuncLoadPair (fun s img => s.extendSlot 6 img) s c

/-- FUNC.LOAD_PAIR: it waits for every command that names the pair. -/
def execFuncLoadPair (id : Nat) (s : State) : Out State :=
  .next (s.settle (if s.pairInUse (s.pairNamed id 32) || s.pairWait id (s.pairNamed id 32) then s else s.runCmd funcLoadPairInfo id effectFuncLoad))

/-! ### Certificates and images (R529 to R532) -/

/-- A key record of a kind, used only when its digest equals the fused one (R530). -/
def State.keyOf (s : State) (kind : Nat) (hash : List Byte) : Option (List Byte) :=
  (s.flash.certs.find? (fun c => c.1 == kind && sha3 c.2 == hash)).map (·.2)

/-- CUST_KEY_HASH is set. -/
def Fuses.custSet (f : Fuses) : Bool := f.custKeyHash.any (· != 0)

/-- A signature verifies under a key record. -/
def signed (key : Option (List Byte)) (msg sig : List Byte) : Bool :=
  match key with
  | some k => Config.mldsaVerify k msg sig
  | none => false

/-- SVN of an image. -/
def imageSvnOf (img : List Byte) : Nat := field img 8 4

/-- The body of an image. -/
def imageBody (img : List Byte) : List Byte := (img.drop 5120).take (field img 16 4)

/-- An image is valid on this chip (R532). -/
def State.imageValid (s : State) (img : List Byte) : Bool :=
  let h := img.take 64
  let n := field h 16 4
  let cust := bitAt (field h 6 1) 0
  let custOk := signed (s.keyOf 5 s.fuses.custKeyHash) h ((img.drop 2484).take 2420)
  decide (field h 0 4 = 0x474D4946) && decide (field h 4 2 = 1) && decide (field h 6 1 ≤ 1) && allZero h 7 1 && allZero h 20 12
    && decide (1 ≤ n) && decide (n ≤ 16772096) && decide (5120 + n ≤ img.length) && decide (imageSvnOf h ≤ 64)
    && sha3 (imageBody img) == (h.drop 32)
    && signed (s.keyOf 4 s.fuses.fwKeyHash) h ((img.drop 64).take 2420)
    && decide (s.fuses.svn ≤ imageSvnOf h)
    && (if s.fuses.custRequired then cust && custOk else !cust || custOk || !s.fuses.custSet)

/-- The slot that was not loaded at this start. -/
def State.otherSlot (s : State) : List Byte := if s.boot.slot then s.flash.slotA else s.flash.slotB

/-- That slot's contents replaced. -/
def State.setOtherSlot (s : State) (img : List Byte) : State :=
  { s with flash := if s.boot.slot then { s.flash with slotA := img } else { s.flash with slotB := img } }

/-! ### SEC commands (R541) -/

/-- The records of the certificate region as SEC.CERT_READ writes them (R529). -/
def State.certBytes (s : State) : List Byte :=
  (sortBy (fun (a b : Nat × List Byte) => decide (a.1 ≤ b.1)) s.flash.certs).flatMap (fun c =>
    toLE 4 0x54524543 ++ toLE 1 c.1 ++ toLE 3 c.2.length ++ padTo (roundUp c.2.length 32) c.2)

/-- An address field of the family: 32-byte aligned. -/
def secAligned (p : List Byte) : List Breach := [bAlign (decide (field p 40 8 % 32 ≠ 0)) 40]

def secCertReadInfo : OpInfo where
  code := 0xD001
  used := [(40, 12)]
  reason := 0xD0
  static := secAligned
  dyn := fun s c => rangeBreach s c (c.f 40 8) (c.f 48 4) 40 ++ [bResource (decide (c.f 48 4 < s.certBytes.length)) 0]

def effectSecCertRead (s : State) (c : Ctx) : State × Option Result :=
  let r := s.storeAt c 4 (c.f 40 8) s.certBytes
  (r.1, some ((writeStatus r.2).getD (resIndex s.certBytes.length)))

/-- SEC.CERT_READ (R541). -/
def execSecCertRead (id : Nat) (s : State) : Out State := .next (s.settle (s.runCmd secCertReadInfo id effectSecCertRead))

/-- The signed part of a quote (R537). -/
def State.quoteBody (s : State) (mask : Nat) (nonce : List Byte) : List Byte :=
  toLE 4 0x544F5551 ++ toLE 2 1 ++ toLE 1 mask ++ toLE 1 (bnat s.boot.trial + 2 * bnat s.fuses.custRequired) ++ toLE 4 s.boot.bootSeq.toNat ++ toLE 2 s.chipId.toNat
    ++ toLE 1 s.fuses.svn ++ [0] ++ padTo 32 nonce
    ++ (List.range 8).flatMap (fun i => if mask.testBit i then padTo 32 (s.sec.slots.getD i []) else zeros 32) ++ s.deviceId

def secQuoteInfo : OpInfo where
  code := 0xD002
  len := some 32
  used := [(32, 1), (40, 8), (64, 32)]
  reason := 0xD0
  static := secAligned
  dyn := fun s c => rangeBreach s c (c.f 40 8) 2784 40

def effectSecQuote (s : State) (c : Ctx) : State × Option Result :=
  if !s.sec.keyReady then (s, some (resStatus stAuthFail)) else
  let d := s.draw
  let body := s.quoteBody (c.f 32 1) ((c.pkt.drop 64).take 32)
  let r := d.2.storeAt c 4 (c.f 40 8) (body ++ padTo 2420 (Config.mldsaSign d.1 s.fuses.idSeed body) ++ zeros 28)
  (r.1, storedResult r.2)

/-- SEC.QUOTE (R537). -/
def execSecQuote (id : Nat) (s : State) : Out State := .next (s.settle (s.runCmd secQuoteInfo id effectSecQuote))

def secExtendInfo : OpInfo where
  code := 0xD003
  len := some 32
  used := [(64, 32)]
  reason := 0xD0

def effectSecExtend (s : State) (c : Ctx) : State × Option Result := (s.extendSlot 7 ((c.pkt.drop 64).take 32), some resOK)

/-- SEC.EXTEND (R536). -/
def execSecExtend (id : Nat) (s : State) : Out State := .next (s.settle (s.runCmd secExtendInfo id effectSecExtend))

/-- An image write runs. -/
def State.imageWriting (s : State) : Bool := match s.sec.image with
  | .writing _ _ => true
  | _ => false

def secImageWriteInfo : OpInfo where
  code := 0xD010
  used := [(32, 1), (40, 12)]
  reason := 0xD0
  static := fun p => secAligned p ++
    [bParam (decide (1 < field p 32 1)) 0xD0 32, bParam (decide (field p 48 4 < 5121) || decide (2 ^ 24 < field p 48 4)) 0xD0 48]
  dyn := fun s c => rangeBreach s c (c.f 40 8) (c.f 48 4) 40 ++ [bBusy s.imageWriting 0]

def effectSecImageWrite (s : State) (c : Ctx) : State × Option Result :=
  let r := s.readAt c (c.f 40 8) (c.f 48 4)
  let s1 := s.noteReadAt c 4 (c.f 40 8) (c.f 48 4)
  match readStatus r with
  | some x => (s1, some x)
  | none =>
    if !s.imageValid r.data then (s1, some (resStatus stAuthFail))
    else ({ s1 with sec := { s1.sec with image := .writing r.data (bitAt (c.f 32 1) 0) } }, some resOK)

/-- SEC.IMAGE_WRITE (R533). -/
def execSecImageWrite (id : Nat) (s : State) : Out State := .next (s.settle (s.runCmd secImageWriteInfo id effectSecImageWrite))

/-- IMAGE_WRITE_DONE (R533): the slot holds the image, and with ACTIVATE a trial descriptor names it; or the write has failed and the slot's contents are open. -/
def execImageWriteDone (ok : Bool) (s : State) : Out State :=
  .next (s.settle (match s.sec.image with
    | .writing img act =>
      if ok then
        let s1 := s.setOtherSlot img
        let s2 := if act then { s1 with flash := { s1.flash with desc := ⟨s1.flash.desc.seq + 1, !s.boot.slot, true⟩ } } else s1
        { s2 with sec := { s2.sec with image := .done img.length } }
      else
        let d := s.draw
        let s1 := d.2.setOtherSlot (freeBytes d.1 img.length)
        { s1 with sec := { s1.sec with image := .failed (min img.length (Config.freeWord d.1 0).toNat) } }
    | _ => s))

def secImageStatusInfo : OpInfo where
  code := 0xD011
  reason := 0xD0

/-- How many bytes a running write has programmed is a free value, at most the image's length. -/
def effectSecImageStatus (s : State) (_ : Ctx) : State × Option Result :=
  match s.sec.image with
  | .idle => (s, some resOK)
  | .writing img _ =>
    let d := s.draw
    (d.2, some { resIndex (min img.length (Config.freeWord d.1 0).toNat) with detail := detailOf 1 0 })
  | .done n => (s, some { resIndex n with detail := detailOf 2 0 })
  | .failed n => (s, some { resIndex n with detail := detailOf 3 0 })

/-- SEC.IMAGE_STATUS (R541). -/
def execSecImageStatus (id : Nat) (s : State) : Out State := .next (s.settle (s.runCmd secImageStatusInfo id effectSecImageStatus))

/-- The other slot holds a valid image whose SVN is below a value. -/
def State.otherBelow (s : State) (v : Nat) : Bool := s.imageValid s.otherSlot && decide (imageSvnOf s.otherSlot < v)

def secFuseCommitInfo : OpInfo where
  code := 0xD012
  used := [(32, 1)]
  reason := 0xD0
  static := fun p => [bParam (decide (1 < field p 32 1)) 0xD0 32]
  dyn := fun s c => [bBusy s.boot.trial 0, bBusy (decide (s.fuses.svn < s.boot.imageSvn) && !bitAt (c.f 32 1) 0 && s.otherBelow s.boot.imageSvn) 0]

/-- Each bit blown is logged. -/
def effectSecFuseCommit (s : State) (_ : Ctx) : State × Option Result :=
  if s.boot.imageSvn ≤ s.fuses.svn then (s, some resOK) else
  let n := s.boot.imageSvn
  let s1 := (List.range (n - s.fuses.svn)).foldl (fun s i => s.decision 0 (s.fuses.svn + i) [] 0 1) s
  ({ s1 with fuses := { s1.fuses with svn := n } }, some resOK)

/-- SEC.FUSE_COMMIT (R534). -/
def execSecFuseCommit (id : Nat) (s : State) : Out State := .next (s.settle (s.runCmd secFuseCommitInfo id effectSecFuseCommit))

def secCustomerKeyInfo : OpInfo where
  code := 0xD013
  used := [(32, 1), (40, 8)]
  reason := 0xD0
  static := fun p => secAligned p ++ [bParam (decide (1 < field p 32 1)) 0xD0 32]
  dyn := fun s c => rangeBreach s c (c.f 40 8) 1312 40 ++ [bBusy s.fuses.custSet 0]

def effectSecCustomerKey (s : State) (c : Ctx) : State × Option Result :=
  let r := s.readAt c (c.f 40 8) 1312
  let s1 := s.noteReadAt c 4 (c.f 40 8) 1312
  match readStatus r with
  | some x => (s1, some x)
  | none => ({ s1 with
      flash := { s1.flash with certs := s1.flash.certs.filter (fun k => k.1 != 5) ++ [(5, r.data)] }
      fuses := { s1.fuses with custKeyHash := sha3 r.data, custRequired := bitAt (c.f 32 1) 0 } }, some resOK)

/-- SEC.CUSTOMER_KEY (R535). -/
def execSecCustomerKey (id : Nat) (s : State) : Out State := .next (s.settle (s.runCmd secCustomerKeyInfo id effectSecCustomerKey))

/-! ### Debug unlock (R539, R540) -/

def secDebugChallengeInfo : OpInfo where
  code := 0xD020
  used := [(40, 8)]
  reason := 0xD0
  static := secAligned
  dyn := fun s c => rangeBreach s c (c.f 40 8) 32 40

def effectSecDebugChallenge (s : State) (c : Ctx) : State × Option Result :=
  let n := s.nonceBytes
  let s1 := { n.2 with sec := { n.2.sec with challenge := some n.1 } }
  let r := s1.storeAt c 4 (c.f 40 8) n.1
  (r.1, storedResult r.2)

/-- SEC.DEBUG_CHALLENGE (R539). -/
def execSecDebugChallenge (id : Nat) (s : State) : Out State := .next (s.settle (s.runCmd secDebugChallengeInfo id effectSecDebugChallenge))

/-- The key that a token's SIGNER names. -/
def State.tokenKey (s : State) (signer : Nat) : Option (List Byte) :=
  if signer = 0 then s.keyOf 3 s.fuses.rootHash else if s.fuses.custSet then s.keyOf 5 s.fuses.custKeyHash else none

/-- A token is accepted (R539). -/
def State.tokenOk (s : State) (t : List Byte) : Bool :=
  let level := field t 4 1
  decide (field t 0 4 = 0x4E4B4244) && (decide (level = 1) || decide (level = 2)) && decide (field t 5 1 ≤ 1)
    && decide (s.sec.challenge = some ((t.drop 8).take 32)) && (t.drop 40).take 32 == s.deviceId
    && signed (s.tokenKey (field t 5 1)) (t.take 72) ((t.drop 72).take 2420)

/-- A token is submitted: the challenge is consumed; an accepted one unlocks debug, extends slot 4 and erases the identity key (R540). -/
def State.unlock (s : State) (t : List Byte) : State × Bool :=
  let s1 := { s with sec := { s.sec with challenge := none } }
  if s.tokenOk t then
    let s2 := s1.extendSlot 4 t
    ({ s2 with sec := { s2.sec with level := field t 4 1, keyReady := false } }, true)
  else (s1, false)

def secDebugUnlockInfo : OpInfo where
  code := 0xD021
  used := [(40, 8)]
  reason := 0xD0
  static := secAligned
  dyn := fun s c => rangeBreach s c (c.f 40 8) 2496 40

def effectSecDebugUnlock (s : State) (c : Ctx) : State × Option Result :=
  let r := s.readAt c (c.f 40 8) 2496
  let s1 := s.noteReadAt c 4 (c.f 40 8) 2496
  match readStatus r with
  | some x => (s1, some x)
  | none =>
    let k := s1.unlock r.data
    (k.1, some (if k.2 then resOK else resStatus stAuthFail))

/-- SEC.DEBUG_UNLOCK (R539, R540). -/
def execSecDebugUnlock (id : Nat) (s : State) : Out State := .next (s.settle (s.runCmd secDebugUnlockInfo id effectSecDebugUnlock))

/-- JTAG_DEBUG_UNLOCK (R539). -/
def execJtagDebugUnlock (token : List Byte) (s : State) : Out State := .next (s.settle (s.unlock token).1)

/-! ### Authentication of a port (R357, R358) -/

/-- A peer's chain verifies on this chip and its signature under the chain's key (R530, R357). -/
def State.peerOk (s : State) (p : Port) (sig key cert inter root : List Byte) : Bool :=
  Config.x509Key cert == key && Config.x509SignedBy cert (Config.x509Key inter) && Config.x509SignedBy inter root && sha3 root == s.fuses.rootHash
    && Config.mldsaVerify key (linkStatement p.peer.toNat s.chipId.toNat p.peerNonce p.nonce p.peerNum (p.lanes.map p.peerLane)) sig

/-- A port opens every VC once both ends have done their part (R358). -/
def State.authDone (s : State) (port : Nat) : State :=
  match s.port? port with
  | some x => if x.provedSelf && x.verifiedPeer then s.portUp port true else s
  | none => s

/-- AUTH_MESSAGE_RECEIVE (R357): a nonce is answered with a signature and the certificate chain, once this end's own exchange has begun; a proof is verified. Without an identity key the exchange fails (R540). -/
def execAuthMessageReceive (port : Nat) (m : AuthMsg) (s : State) : Out State :=
  .next (s.settle (match s.port? port with
    | none => s
    | some x =>
      if x.state ≠ .auth then s else
      match m with
      | .nonce n =>
        if !s.sec.keyReady then s.authFails x else
        let s1 := s.updPort port (fun y => { y with peerNonce := n })
        if x.nonce.isEmpty then s1 else (s1.proveSelf port).authDone port
      | .proof sig key cert inter root =>
        if s.peerOk x sig key cert inter root then (s.updPort port (fun y => { y with verifiedPeer := true })).authDone port
        else s.authFails x))

end Sys2Proof.Machine
end

