-- ==== Sys2Proof/Machine/Sys.lean ====
section
/-! DEFINITION. Submission and response queues (R34 to R45) and the SYS family (R67): rings, packets in them, replies, and the commands that create, delete and flush queues and set the deadlines. -/
namespace Sys2Proof.Machine

/-! ### Rings -/

/-- A submission queue, a response queue. -/
def State.sub? (s : State) (q : Nat) : Option SubQueue := s.queues.subs.find? (fun x => x.num == q)
def State.resp? (s : State) (q : Nat) : Option RespQueue := s.queues.resps.find? (fun x => x.num == q)

/-- A queue changed. -/
def State.updSub (s : State) (q : Nat) (f : SubQueue → SubQueue) : State :=
  { s with queues := { s.queues with subs := mapWhere (fun x => x.num == q) f s.queues.subs } }
def State.updResp (s : State) (q : Nat) (f : RespQueue → RespQueue) : State :=
  { s with queues := { s.queues with resps := mapWhere (fun x => x.num == q) f s.queues.resps } }

/-- Units of a ring, units between head and tail. -/
def SubQueue.units (q : SubQueue) : Nat := 2 ^ q.logSize / 32
def SubQueue.waiting (q : SubQueue) : Nat :=
  if q.headWrap = q.tailWrap then q.tail - q.head else q.units - q.head + q.tail

/-- A position moved on by a number of units: the unit and its wrap state. -/
def SubQueue.moved (q : SubQueue) (n : Nat) : Nat × Bool :=
  if q.head + n < q.units then (q.head + n, q.headWrap) else (q.head + n - q.units, !q.headWrap)

/-- Bytes of a ring from a position on, wrapping past its end (R35). -/
def State.ringBytes (s : State) (q : SubQueue) (pos n : Nat) : List Byte :=
  let size := 2 ^ q.logSize
  let first := min n (size - 32 * pos)
  cellRead s.queues.memory (q.offset + 32 * pos) first ++ cellRead s.queues.memory q.offset (n - first)

/-- The length of a packet by its header (R28). A packet whose PARAM_LENGTH is illegal takes the 64 bytes of its header alone, and the next packet is read after them (DESIGN CHOICE, log 98: R35 is silent). -/
def packetBytes (hdr : List Byte) : Nat :=
  let n := pktParamLength hdr
  if n % 32 = 0 ∧ n ≤ 16320 then 64 + n else 64

/-- The whole packet at the head of a ring, if its units have been written (R35). -/
def State.headPacket (s : State) (q : SubQueue) : Option (List Byte) :=
  if q.waiting < 2 then none else
  let n := packetBytes (s.ringBytes q q.head 64)
  if q.waiting * 32 < n then none else some (s.ringBytes q q.head n)

/-- How many whole packets wait in a ring, and the queue with its head after them; fuel bounds the count. -/
def State.skipPackets (s : State) : Nat → SubQueue → Nat × SubQueue
  | 0, q => (0, q)
  | f + 1, q =>
    match s.headPacket q with
    | none => (0, q)
    | some p =>
      let m := q.moved (p.length / 32)
      let r := s.skipPackets f { q with head := m.1, headWrap := m.2, lag := min (q.lag + p.length / 32) q.units }
      (r.1 + 1, r.2)

/-! ### Replies -/

/-- Slots of a response queue and the free ones (R40). -/
def RespQueue.slots (q : RespQueue) : Nat := 2 ^ q.logSize / 32
def RespQueue.room (q : RespQueue) : Nat := q.slots - (q.replies.length + q.reserved)

/-- The reply of a command (R32). -/
def replyOf (c : Cmd) (r : Result) (runTime : Nat) : Reply :=
  { status := r.status
    subQueue := match c.src with
      | .queue q => BitVec.ofNat 8 q
      | _ => 0
    sequence := BitVec.ofNat 32 (pktSequence c.pkt)
    note := r.note
    detail := r.detail
    index := r.index
    tag := BitVec.ofNat 64 (pktTag c.pkt)
    notes := r.notes
    skips := r.skips
    runTime := BitVec.ofNat 32 (min runTime 0xFFFFFFFF) }

/-- The 32 bytes of a reply (R32). -/
def Reply.bytes (r : Reply) : List Byte :=
  toLE 4 r.sequence.toNat ++ [r.subQueue, r.status, 0, 0x80] ++ toLE 4 r.index.toNat ++ toLE 3 r.detail.toNat ++ [r.note]
    ++ toLE 8 r.tag.toNat ++ toLE 4 r.runTime.toNat ++ toLE 2 r.skips.toNat ++ toLE 2 r.notes.toNat

/-- A reply enters a response queue; its vector signals when the count of waiting replies reaches the coalescing count (R41). -/
def State.pushReply (s : State) (q : Nat) (r : Reply) : State :=
  match s.resp? q with
  | none => s
  | some x =>
    let n := x.replies.length + 1
    let fire := x.irq && decide (q < 63) && decide (n = x.coalCount)
    let s := s.updResp q (fun y => { y with replies := y.replies ++ [r], sinceSignal := if fire then 0 else y.sinceSignal + 1 })
    if fire then s.signal q else s

/-- The response queue that a packet's replies go to: its own, or queue 0 when that does not exist (R37). -/
def State.replyQueue (s : State) (p : List Byte) : Nat := if (s.resp? (pktRespQueue p)).isSome then pktRespQueue p else 0

/-- A reply is also written to the packet's REPLY_ADDRESS, where that is an address of device memory (R28). -/
def State.writeReplyAddress (s : State) (p : List Byte) (r : Reply) : State :=
  let a := pktReplyAddress p
  if a = 0 ∨ a % 32 ≠ 0 ∨ (s.rangeReason a 32).isSome then s else (s.store 0 a r.bytes).1

/-! ### SYS -/

def sysNopInfo : OpInfo where
  code := 0x0001

def effectSysNop (s : State) (_ : Ctx) : State × Option Result := (s, some resOK)

/-- SYS.NOP (R67). -/
def execSysNop (id : Nat) (s : State) : Out State := .next (s.settle (s.runCmd sysNopInfo id effectSysNop))

def sysInfoInfo : OpInfo where
  code := 0x0020

def effectSysInfo (s : State) (_ : Ctx) : State × Option Result := (s, some (resIndex s.E))

/-- SYS.INFO (R67). -/
def execSysInfo (id : Nat) (s : State) : Out State := .next (s.settle (s.runCmd sysInfoInfo id effectSysInfo))

/-- The fields of the queue commands. -/
def qKind (p : List Byte) : Nat := field p 32 1
def qNum (p : List Byte) : Nat := field p 33 1
def qLog (p : List Byte) : Nat := field p 34 1
def qIrq (p : List Byte) : Nat := field p 35 1
def qOffset (p : List Byte) : Nat := field p 36 4
def qCount (p : List Byte) : Nat := field p 40 2
def qTime (p : List Byte) : Nat := field p 42 2

/-- The rings in use: offset and size. -/
def State.rings (s : State) : List (Nat × Nat) :=
  s.queues.subs.map (fun q => (q.offset, 2 ^ q.logSize)) ++ s.queues.resps.map (fun q => (q.offset, 2 ^ q.logSize))

/-- Two rings overlap. -/
def ringsMeet (a b : Nat × Nat) : Bool := decide (a.1 < b.1 + b.2) && decide (b.1 < a.1 + a.2)

/-- A queue of a kind exists. -/
def State.queueExists (s : State) (kind q : Nat) : Bool := if kind = 0 then (s.sub? q).isSome else (s.resp? q).isSome

def sysQueueCreateInfo : OpInfo where
  code := 0x0010
  used := [(32, 12)]
  static := fun p =>
    let okLog := decide (12 ≤ qLog p) && decide (qLog p ≤ 20)
    [ bAlign (okLog && decide (qOffset p % 2 ^ qLog p ≠ 0)) 36,
      bParam (decide (1 < qKind p)) 0 32,
      bParam (decide (qNum p = 0) || decide (63 < qNum p)) 0 33,
      bParam (!okLog) 0 34,
      bParam (decide (1 < qIrq p)) 0 35,
      bParam (okLog && decide (0x800000 < qOffset p + 2 ^ qLog p)) 0 36,
      bParam (decide (qKind p = 1) && (decide (qCount p = 0) || decide (256 < qCount p))) 0 40,
      bParam (decide (qKind p = 1) && decide (1000 < qTime p)) 0 42 ]
  dyn := fun s c =>
    let p := c.pkt
    [ bResource (s.queueExists (qKind p) (qNum p)) 0, bResource (s.rings.any (ringsMeet (qOffset p, 2 ^ qLog p))) 0 ]

def effectSysQueueCreate (s : State) (c : Ctx) : State × Option Result :=
  let p := c.pkt
  if qKind p = 0 then
    ({ s with queues := { s.queues with subs := s.queues.subs ++ [⟨qNum p, qLog p, qOffset p, 0, false, 0, false, 0, false, none⟩] } }, some resOK)
  else
    ({ s with queues := { s.queues with resps := s.queues.resps ++ [⟨qNum p, qLog p, qOffset p, decide (qIrq p = 1), qCount p, qTime p, [], 0, 0⟩] } }, some resOK)

/-- SYS.QUEUE_CREATE (R34). -/
def execSysQueueCreate (id : Nat) (s : State) : Out State := .next (s.settle (s.runCmd sysQueueCreateInfo id effectSysQueueCreate))

/-- Commands taken from a submission queue that have not yet completed, other than one. -/
def State.othersFrom (s : State) (q id : Nat) : Bool := s.queues.cmds.any (fun d => d.src == .queue q && d.id != id)

/-- A packet in execution names a response queue (R43). -/
def State.respNamed (s : State) (q : Nat) : Bool :=
  s.queues.cmds.any (fun d => match d.src with
    | .queue _ => d.rq == q
    | _ => false)

/-- The limits of a command that names a queue by kind and number: queue 0 cannot be deleted. -/
def namedQueue (low : Nat) (s : State) (c : Ctx) : List Breach :=
  let p := c.pkt
  [ bParam (decide (1 < qKind p)) 0 32, bParam (decide (qNum p < low) || decide (63 < qNum p) || !s.queueExists (qKind p) (qNum p)) 0 33 ]

def sysQueueDeleteInfo : OpInfo where
  code := 0x0011
  used := [(32, 2)]
  static := fun p => [bParam (decide (1 < qKind p)) 0 32, bParam (decide (qNum p = 0) || decide (63 < qNum p)) 0 33]
  dyn := fun s c => namedQueue 1 s c
    ++ [ bBusy (decide (qKind c.pkt = 1) && s.respNamed (qNum c.pkt)) 0,
         bBusy (decide (qKind c.pkt = 0) && (match s.sub? (qNum c.pkt) with
           | some q => q.deleting.isSome
           | none => false)) 0 ]

/-- A submission queue removed. -/
def State.dropSub (s : State) (q : Nat) : State := { s with queues := { s.queues with subs := s.queues.subs.filter (fun x => x.num != q) } }

def effectSysQueueDelete (s : State) (c : Ctx) : State × Option Result :=
  let q := qNum c.pkt
  if qKind c.pkt = 1 then ({ s with queues := { s.queues with resps := s.queues.resps.filter (fun x => x.num != q) } }, some resOK)
  else if s.othersFrom q c.id then (s.updSub q (fun x => { x with deleting := some c.id }), none)
  else (s.dropSub q, some resOK)

/-- SYS.QUEUE_DELETE (R43). -/
def execSysQueueDelete (id : Nat) (s : State) : Out State := .next (s.settle (s.runCmd sysQueueDeleteInfo id effectSysQueueDelete))

/-- A delete that waited completes once no other packet of its queue is left (R43). -/
def State.finishDeletes (s : State) : State :=
  s.queues.subs.foldl (fun s q => match q.deleting with
    | none => s
    | some id => if s.othersFrom q.num id then s else (s.dropSub q.num).endCmd id resOK) s

def sysQueueFlushInfo : OpInfo where
  code := 0x0012
  used := [(32, 2)]
  static := fun p => [bParam (decide (1 < qKind p)) 0 32, bParam (decide (63 < qNum p)) 0 33]
  dyn := namedQueue 0

def effectSysQueueFlush (s : State) (c : Ctx) : State × Option Result :=
  let q := qNum c.pkt
  if qKind c.pkt = 1 then (s.updResp q (fun x => { x with replies := [], sinceSignal := 0 }), some resOK)
  else match s.sub? q with
    | none => (s, some resOK)
    | some x =>
      let r := s.skipPackets x.units x
      (s.updSub q (fun _ => r.2), some (resIndex r.1))

/-- SYS.QUEUE_FLUSH (R42). -/
def execSysQueueFlush (id : Nat) (s : State) : Out State := .next (s.settle (s.runCmd sysQueueFlushInfo id effectSysQueueFlush))

/-- The deadlines that SYS.DEADLINES names: one for each of the twelve rows of R52 that give a command a deadline of its own (SYS, CFG and TELEM share a row, and so do other families; PLAN has three), in the
order of that table, then the barrier deadline; PARAM_LENGTH is 32 (DESIGN CHOICE, log 99: R67 says only one value per family, then the barrier deadline). -/
def dlValues (p : List Byte) : List Nat := (List.range 13).map (fun i => field p (32 + 4 * i) 4)

def sysDeadlinesInfo : OpInfo where
  code := 0x0030
  len := some 32
  used := [(32, 52)]
  static := fun p => ((dlValues p).zipIdx).map (fun (v, i) => bParam (decide (v = 0) || decide (nth deadlineMaxima i 0 < v)) 0 (32 + 4 * i))
  dyn := fun s _ => [bBusy s.stepRunning 0]

def effectSysDeadlines (s : State) (c : Ctx) : State × Option Result :=
  let v := dlValues c.pkt
  ({ s with plans := { s.plans with deadlines := v.take 12, barrierDeadline := nth v 12 0 } }, some resOK)

/-- SYS.DEADLINES (R53). -/
def execSysDeadlines (id : Nat) (s : State) : Out State := .next (s.settle (s.runCmd sysDeadlinesInfo id effectSysDeadlines))

/-- The deadline that runs on a command, in microseconds: its packet's, else the family's (R30, R52). -/
def State.deadlineOf (s : State) (p : List Byte) : Nat :=
  if pktDlScale p ≠ 0 then pktDeadline p else nth (s.plans.deadlines ++ [s.plans.barrierDeadline]) (deadlineRow (opcodeOf p)) 0

/-- The deadline of a step of a plan, in microseconds (R52, R55): that of the STEP.RUN packet, else the plan header's STEP_DEADLINE, else the default. That a packet's own deadline comes before the header's is
DEDUCED (log 99): R55 puts the header's in the place of the default. -/
def State.stepDeadlineOf (s : State) (plan : Plan) (p : List Byte) : Nat :=
  if pktDlScale p = 0 ∧ plan.deadlineMs ≠ 0 then 1000 * plan.deadlineMs else s.deadlineOf p

end Sys2Proof.Machine
end

