-- ==== Sys2Proof/Machine/BootUnit.lean ====
section
/-! DEFINITION. Resets (R578), the ten boot steps with the cairn and its retry policy (R501 to R513), the flash records (R514 to R522), the Staez image (R523, R524) and the boot codes of the CFG family (R525). -/
namespace Sys2Proof.Machine

/-! ### Flash records -/

/-- The 64 bytes of a cairn record (R504). -/
def CairnRec.bytes (r : CairnRec) : List Byte :=
  let h := toLE 4 0x4E524143 ++ toLE 1 r.kind ++ toLE 1 r.step ++ toLE 1 r.path ++ toLE 1 r.outcome ++ toLE 4 r.bootSeq.toNat ++ toLE 2 r.fails.toNat ++ toLE 1 r.resetCause
    ++ toLE 1 (r.slot + 128 * bnat r.trial) ++ toLE 8 r.elapsed.toNat ++ toLE 8 r.detailA.toNat ++ toLE 4 r.detailB.toNat ++ toLE 4 r.code.toNat ++ toLE 1 r.rate ++ toLE 1 r.ridgeCount
    ++ zeros 18
  h ++ toLE 4 (crc32 h)

/-- A record of a kind and step with everything else 0. -/
def cairnRec (kind step : Nat) (seq : W32) : CairnRec := ⟨kind, step, 0, 0, seq, 0, 0, 0, false, 0, 0, 0, 0, 0, 0⟩

/-- All records of the cairn, oldest first. -/
def Flash.records (f : Flash) : List CairnRec := f.cairn.flatMap (·.recs)

/-- A record is written (R517, R518): into the head sector, into the next one when that is full and erased, or it waits for the erase. -/
def Flash.addCairn (f : Flash) (r : CairnRec) : Flash :=
  if !f.cairnWaiting.isEmpty then { f with cairnWaiting := f.cairnWaiting ++ [r] } else
  match f.cairn.getLast? with
  | none => { f with cairn := [⟨0, [r]⟩], nextErased := false }
  | some h =>
    if h.recs.length < 1023 then { f with cairn := f.cairn.dropLast ++ [{ h with recs := h.recs ++ [r] }] }
    else if f.nextErased then { f with cairn := (f.cairn ++ [CairnSector.mk (h.seq + 1) [r]]).drop (f.cairn.length + 1 - 32), nextErased := false }
    else { f with cairnWaiting := [r] }

/-- A record is written to the cairn. -/
def State.cairn (s : State) (r : CairnRec) : State := { s with flash := s.flash.addCairn r }

/-- FLASH_SECTOR_ERASE_DONE (R518): the sector after the head is erased, and waiting records are written. -/
def execFlashSectorEraseDone (s : State) : Out State :=
  .next (s.settle (
    let ws := s.flash.cairnWaiting
    let f := { s.flash with nextErased := true, cairnWaiting := [], cairn := s.flash.cairn.drop (s.flash.cairn.length - 31) }
    { s with flash := ws.foldl Flash.addCairn f }))

/-- A step's failure count (R506): FAILS of its newest STEP_END, 0 after a CLEAR record that names it. -/
def failCount (rs : List CairnRec) (step : Nat) : Nat :=
  match rs.reverse.find? (fun r => (r.kind == 3 && r.step == step) || (r.kind == 4 && r.detailA.getLsbD (step - 1))) with
  | some r => if r.kind = 3 then r.fails.toNat else 0
  | none => 0

/-- The 64 bytes of the retirement record (R520). -/
def Retirement.bytes (r : Retirement) : List Byte :=
  let h := toLE 4 0x45525452 ++ toLE 4 r.seq.toNat ++ toLE 8 r.ridgesRetired.toNat ++ toLE 8 r.ridgesPending.toNat ++ toLE 4 r.portsAbsent.toNat ++ toLE 2 r.sticky.toNat ++ [0, 0]
    ++ toLE 8 r.linksHalf.toNat ++ toLE 8 r.linksDown.toNat ++ zeros 12
  h ++ toLE 4 (crc32 h)

/-- A new retirement record is written where it differs from the one in force (R515). -/
def State.retirement (s : State) (f : Retirement → Retirement) : State :=
  let r := f s.flash.retire
  if r = s.flash.retire then s else { s with flash := { s.flash with retire := { r with seq := s.flash.retire.seq + 1 } } }

/-- A new boot descriptor is written where it differs (R516). -/
def State.descriptor (s : State) (active trial : Bool) : State :=
  if s.flash.desc.active = active ∧ s.flash.desc.trial = trial then s
  else { s with flash := { s.flash with desc := ⟨s.flash.desc.seq + 1, active, trial⟩ } }

/-! ### The Staez image (R523, R524) -/

/-- CRC of a Staez image, its field taken as 0. -/
def staezCrc (b : List Byte) : Nat := crc32 (splice b 12 (zeros 4))

/-- The fields of an image lie within their limits (R523); CHIP_ID 0xFFFF is allowed where it means unset. Reserved fields have no limit and are ignored (R6), but for those of the link map, whose layout is that of CFG.LINK_PORTS. -/
def staezFields (unset : Bool) (b : List Byte) : Bool :=
  let cap := field b 28 2
  let m := field b 23 1
  decide (b.length = 512) && decide (field b 0 4 = 0x5A454154) && decide (field b 4 2 = 1) && decide (field b 6 2 = 512)
    && (unset || decide (field b 16 2 ≠ 0xFFFF)) && decide (field b 20 1 % 4 ≠ 3)
    && decide (field b 21 1 ≤ 4) && decide (field b 22 1 ≤ field b 21 1) && decide (10 ≤ m) && decide (m ≤ 40) && decide (field b 24 4 < 2 ^ 24)
    && decide (450 ≤ cap) && decide (cap ≤ 1200) && !portsBad b

/-- A copy is valid. -/
def staezValid (b : List Byte) : Bool := staezFields true b && decide (staezCrc b = field b 12 4)

/-- The image with a SEQ, its CRC formed. -/
def staezSealed (b : List Byte) (seq : Nat) : List Byte :=
  let x := splice b 8 (toLE 4 seq)
  splice x 12 (toLE 4 (staezCrc x))

/-- The copy on the normal path: valid, of the higher SEQ; and the other. -/
def Flash.staezNewest (f : Flash) : List Byte × List Byte :=
  let newer := staezValid f.staez1 && (!staezValid f.staez0 || decide (field f.staez0 8 4 < field f.staez1 8 4))
  if newer then (f.staez1, f.staez0) else (f.staez0, f.staez1)

/-- PIN_SLOT and NO_SKIP of an image. -/
def pinSlot (b : List Byte) : Bool := bitAt (field b 30 1) 0
def noSkip (b : List Byte) : Bool := bitAt (field b 30 1) 1

/-- An image is written over the invalid copy, or else the one with the lower SEQ (R525). -/
def State.writeStaez (s : State) (img : List Byte) : State :=
  let f := s.flash
  let v0 := staezValid f.staez0
  let v1 := staezValid f.staez1
  let over0 := !v0 || (v1 && decide (field f.staez0 8 4 < field f.staez1 8 4))
  let other := if over0 then (if v1 then field f.staez1 8 4 else 0) else (if v0 then field f.staez0 8 4 else 0)
  let n := staezSealed img ((other + 1) % 2 ^ 32)
  { s with flash := if over0 then { f with staez0 := n } else { f with staez1 := n } }

/-! ### Resets (R578) -/

/-- The chip enters reset: everything but the fuses and the flash is lost, PWR_TRIP only by a power-on reset. A power-on reset takes precedence over an overlapping one. A button held through the reset is ignored
until its release (R567). An image write that was running leaves its slot's contents open. -/
def State.resetBy (s : State) (cause : Nat) : State :=
  let k := if s.boot.inReset ∧ s.boot.resetCause = 0 then 0 else cause
  let s1 := match s.sec.image with
    | .writing img _ =>
      let d := s.draw
      d.2.setOtherSlot (freeBytes d.1 img.length)
    | _ => s
  { State.reset with
    pending := s.pending
    fuses := s1.fuses
    flash := { s1.flash with cairnWaiting := [], remapWaiting := [] }
    trip := if k = 0 then State.reset.trip else { s.trip with pending := none }
    boot := { State.reset.boot with inReset := true, resetCause := k }
    host := { State.reset.host with button := s.host.button, buttonIgnored := s.host.button }
    out := { State.reset.out with wire := s.out.wire, uart := s.out.uart }
    free := s1.free }

/-- POWER_ON_RESET, PCIE_RESET (R578). -/
def execPowerOnReset (s : State) : Out State := .next (s.settled (s.resetBy 0))
def execPcieReset (s : State) : Out State := .next (s.settled (s.resetBy 1))

/-- JTAG_CHIP_RESET (R566): at debug level 1 and above. -/
def execJtagChipReset (s : State) : Out State := .next (s.settle (if s.sec.level = 0 then s else s.resetBy 6))

/-! ### A start (R501 to R512) -/

/-- The step of the newest start that has begun and not ended, with its STEP_START. -/
def openStep (rs : List CairnRec) : Option CairnRec :=
  match rs.reverse.find? (fun r => r.kind == 2 || r.kind == 3) with
  | some r => if r.kind = 2 then some r else none
  | none => none

/-- The newest start ran a trial image and a step of it other than LINKS failed (R511). -/
def trialFailed (rs : List CairnRec) : Bool :=
  match rs.reverse.find? (fun r => r.kind == 1) with
  | none => false
  | some b => b.trial && rs.any (fun r => r.kind == 3 && r.bootSeq == b.bootSeq && r.step != 9 && (r.outcome == 2 || r.outcome == 3 || r.outcome == 4))

/-- The start goes to the other image because the trial image failed: not with PIN_SLOT. -/
def State.leavesTrial (s : State) (rs : List CairnRec) : Bool := s.flash.desc.trial && trialFailed rs && !pinSlot s.flash.staezNewest.1

/-- FIRMWARE loads the image that is not ACTIVE. -/
def State.loadsOther (s : State) (rs : List CairnRec) : Bool :=
  s.leavesTrial rs || decide (failCount rs 2 ≠ 0) || s.flash.retire.sticky.getLsbD 1

/-- The next BOOT_SEQ: one more than the highest in the cairn, 0 on a blank cairn. -/
def nextBootSeq (rs : List CairnRec) : W32 := if rs.isEmpty then 0 else BitVec.ofNat 32 ((rs.map (·.bootSeq.toNat)).foldl max 0 + 1)

/-- RESET_RELEASE (R501, R504, R505): a step that was cut off ends INCOMPLETE, and a BOOT record is written. -/
def execResetRelease (s : State) : Out State :=
  .next (s.settle (
    if !s.boot.inReset then s else
    let rs := s.flash.records
    let s1 := match openStep rs with
      | none => s
      | some r => s.cairn { (cairnRec 3 r.step r.bootSeq) with path := r.path, outcome := 4, fails := BitVec.ofNat 16 (failCount rs r.step + (if r.step = 9 then 0 else 1)) }
    let rs1 := s1.flash.records
    let seq := nextBootSeq rs1
    let slot := if s1.loadsOther rs1 then !s1.flash.desc.active else s1.flash.desc.active
    let trial := s1.flash.desc.trial && (slot == s1.flash.desc.active)
    let s2 := s1.cairn { (cairnRec 1 0 seq) with resetCause := s.boot.resetCause, slot := bnat slot, trial := trial }
    { s2 with boot := { s2.boot with inReset := false, bootSeq := seq, slot := slot, trial := trial, state := .booting, step := 0 } }))

/-- A step has optional elements, has an alternative (R501). -/
def hasElements (step : Nat) : Bool := step == 7 || step == 8 || step == 9
def hasAlternative (step : Nat) : Bool := step != 6 && step != 10

/-- The path of a step from its failure count (R507): a step without an alternative repeats its normal path. -/
def State.stepPath (s : State) (step count : Nat) (rs : List CairnRec) : Nat :=
  if !hasAlternative step then 0
  else if step = 2 ∧ s.leavesTrial (rs.filter (fun r => r.bootSeq != s.boot.bootSeq)) ∧ count = 0 then 1
  else if count = 0 then (if s.flash.retire.sticky.getLsbD (step - 1) then 3 else 0)
  else if hasElements step ∧ !noSkip s.boot.staez then 2 else 1

/-- The chip enters safe state at a step (R507, R512): a SAFE record, the ridge, memory-pair and link-group domains off, the cache flushed. -/
def State.enterSafe (s : State) (step count : Nat) (elapsed : W64) : State :=
  let s1 := s.cairn { (cairnRec 5 0 s.boot.bootSeq) with elapsed := elapsed }
  { s1 with
    boot := { s1.boot with state := .safe, step := step, running := false, fails := count }
    ridges := s1.ridges.map (fun r => { r with matrixOn := false })
    link := { s1.link with ports := s1.link.ports.map (fun p => { p.reset with state := .down }) }
    mem := { s1.mem.flush with lines := [] } }

/-- The ports of the Staez link map are set to train: those left down are not, those at half rate are (R509, R510). A chip without a CHIP_ID trains none. -/
def State.startLinks (s : State) : State :=
  if s.chipId = 0xFFFF then s else
  let es := portEntries s.boot.staez
  let ports := es.map (fun e => freshPort e.1 e.2.1 e.2.2.1 e.2.2.2)
  (es.filter (fun e => !s.flash.retire.linksDown.getLsbD e.1)).foldl (fun s e => s.askTraining e.1 (s.flash.retire.linksHalf.getLsbD e.1) 2) { s with link := { s.link with ports := ports } }

/-- The next step of a start. -/
def State.nextStep (s : State) : Nat := s.boot.endedOk.length + 1

/-- The state is between boot steps. -/
def State.betweenSteps (s : State) : Bool :=
  !s.boot.inReset && s.boot.state == .booting && !s.boot.running && !s.boot.policyReset && decide (s.nextStep ≤ 10)

/-- BOOT_STEP_START (R507): STEP_START is written and the step takes its path; a count of 3 puts the chip in safe state. -/
def execBootStepStart (elapsed : Nat) (s : State) : Out State :=
  .next (s.settle (
    if !s.betweenSteps then s else
    let n := s.nextStep
    let rs := s.flash.records
    let count := failCount rs n
    let t := BitVec.ofNat 64 elapsed
    if 3 ≤ count then s.enterSafe n count t else
    let path := s.stepPath n count rs
    let s1 := s.cairn { (cairnRec 2 n s.boot.bootSeq) with path := path, elapsed := t }
    let s2 := { s1 with boot := { s1.boot with step := n, running := true, path := path, fails := count } }
    let s3 := if path = 0 then s2 else (s2.decision 0 n [path] 0 2).consoleAt t (.policy n path)
    let s4 := if n = 2 ∧ path = 1 ∧ s.leavesTrial (rs.filter (fun r => r.bootSeq != s.boot.bootSeq)) then s3.descriptor s3.flash.desc.active false else s3
    if n = 9 then s4.startLinks else s4))

/-- How a step came out: its outcome, CODE, DETAIL_A and DETAIL_B, and the state after its work. -/
structure StepEnd where
  state : State
  outcome : Nat
  code : W32
  detailA : W64
  detailB : W32

/-- The work done, or FAIL with a code (R503). -/
def plainEnd (s : State) (r : BootResult) : StepEnd := ⟨s, if r.ok then 0 else 2, r.code, 0, 0⟩

/-- FLASH: the identity key is derived and slot 0 measured (R528, R536). -/
def State.endFlash (s : State) (r : BootResult) : StepEnd :=
  if !r.ok then plainEnd s r else
  let s1 := { s with sec := { s.sec with keyReady := true } }
  plainEnd (s1.extendSlot 0 (toLE 4 Config.romVersion.toNat ++ s.fuses.rootHash ++ s.fuses.fwKeyHash ++ s.fuses.custKeyHash ++ [BitVec.ofNat 8 (bnat s.fuses.custRequired)]
    ++ toLE 8 (2 ^ s.fuses.svn - 1))) r

/-- FIRMWARE: the image of the slot is verified, an invalid one ending FAIL with AUTH_FAIL; its header is measured into slot 1 (R532, R536). -/
def State.endFirmware (s : State) (r : BootResult) : StepEnd :=
  let img := if s.boot.slot then s.flash.slotB else s.flash.slotA
  if !r.ok then plainEnd s r
  else if !s.imageValid img then ⟨s, 2, BitVec.ofNat 32 stAuthFail.toNat, 0, 0⟩
  else plainEnd ({ s with boot := { s.boot with imageSvn := imageSvnOf img, imageHeader := img.take 64 } }.extendSlot 1 (img.take 64)) r

/-- SETTINGS: the path's Staez copy is in force, or the step ends FAIL with BAD_PARAM (R524). -/
def State.endSettings (s : State) (r : BootResult) : StepEnd :=
  let b := if s.boot.path = 0 then s.flash.staezNewest.1 else s.flash.staezNewest.2
  if !r.ok then plainEnd s r
  else if !staezValid b then ⟨s, 2, BitVec.ofNat 32 stBadParam.toNat, 0, 0⟩
  else
    let cap := field b 28 2
    let s1 := { s with
      boot := { s.boot with staez := b, chipId := BitVec.ofNat 16 (field b 16 2) }
      power := { s.power with staezCap := cap, cap := cap }
      gddr := { s.gddr with density := field b 20 1 % 4, clamshell := bitAt (field b 20 1) 2 } }
    plainEnd (s1.extendSlot 2 b) r

/-- Candidate ridges (R502). -/
def State.candidates (s : State) : List Nat :=
  ((s.ridges.map (·.num)).filter (fun r => !s.fuses.disabled.contains r && !s.flash.retire.ridgesRetired.getLsbD r && !s.flash.retire.ridgesPending.getLsbD r))

/-- A mask of the listed bits. -/
def maskWord (w : Nat) (ls : List Nat) : BitVec w := BitVec.ofNat w (maskOf ls.dedup)

/-- RIDGES: candidates that fail are retired, pending ones become retired, the others are enabled (R502, R9). With NO_SKIP a failing candidate is not retired and ends the step with FAIL (R507). DETAIL_A names the
ridges that this start retired. -/
def State.endRidges (s : State) (r : BootResult) : StepEnd :=
  let cand := s.candidates
  let bad := cand.filter (fun x => r.failedElements.contains x)
  let fit := cand.filter (fun x => !r.failedElements.contains x)
  if !r.ok then plainEnd s r
  else if !bad.isEmpty ∧ noSkip s.boot.staez then ⟨{ s with boot := { s.boot with ridgeCount := fit.length } }, 2, r.code, 0, 0⟩
  else
    let gone := s.flash.retire.ridgesPending ||| maskWord 64 bad
    let s1 := s.retirement (fun t => { t with ridgesRetired := t.ridgesRetired ||| gone, ridgesPending := 0 })
    let s2 := { s1 with
      ridges := s1.ridges.map (fun x => { x with enabled := fit.contains x.num, matrixOn := fit.contains x.num, registerMode := !fit.contains x.num })
      boot := { s1.boot with ridgeCount := fit.length } }
    ⟨s2, if fit.length < 52 then 2 else if bad.isEmpty then 0 else 1, r.code, gone, 0⟩

/-- Ports to be trained: neither declared absent nor marked absent (R395, R509). -/
def State.memCandidates (s : State) : List Nat :=
  (List.range 24).filter (fun p => !bitAt (field s.boot.staez 24 4) p && !s.flash.retire.portsAbsent.getLsbD p)

/-- The remap entries that a start repairs (R413, R501): of those offered, by their places, at most 64 of a port. -/
def repairedPlaces (live : List FlashRemap) (offered : List Nat) : List Nat :=
  let port (i : Nat) : Nat := (live.getD i default).port
  offered.dedup.filter (fun i => decide (((offered.dedup.takeWhile (· != i)).filter (fun k => port k == port i)).length < 64))

/-- Remap entries are loaded, but for rows that were repaired, whose entries are released (R413, R521). -/
def State.loadRemaps (s : State) (offered : List Nat) : State :=
  let live := liveRemaps s.flash.remaps
  let repaired := repairedPlaces live offered
  let keep := ((live.zipIdx).filter (fun x => !repaired.contains x.2)).map (·.1)
  let done := ((live.zipIdx).filter (fun x => repaired.contains x.2)).map (fun x => { x.1 with released := true })
  let s1 := { s with flash := done.foldl Flash.writeRemap s.flash }
  { s1 with gddr := { s1.gddr with ports := s1.gddr.ports.map (fun m =>
      { m with remaps := (keep.filter (fun e => e.port == m.num && !e.spareBad)).map (fun e => ⟨e.channel, e.row, e.spare⟩) }) } }

/-- What MEMORY found at a port. -/
def trainOf (ts : List PortTrain) (p : Nat) : Option PortTrain := ts.find? (fun t => t.port == p)

/-- The port's devices are those of the declared build (R393). -/
def State.buildMatches (s : State) (ts : List PortTrain) (p : Nat) : Bool := (trainOf ts p).any (fun t => t.density == s.gddr.density && t.clamshell == s.gddr.clamshell)

/-- The margin of a port at a rate; the port passes there when every pin has at least MARGIN_MIN (R400). -/
def trainMargin (ts : List PortTrain) (rate p : Nat) : Rat := ((trainOf ts p).map (fun t => t.margins.getD rate 0)).getD 0
def State.passesAt (s : State) (ts : List PortTrain) (rate p : Nat) : Bool := decide ((field s.boot.staez 23 1 : Rat) ≤ trainMargin ts rate p)

/-- The rates that the step tries, highest first (R400, R501): from TARGET to FLOOR, which the alternative takes as 28 Gb/s. -/
def State.triedRates (s : State) : List Nat :=
  let floor := if s.boot.path = 0 then field s.boot.staez 22 1 else 0
  ((List.range (field s.boot.staez 21 1 + 1)).filter (fun r => decide (floor ≤ r))).reverse

/-- The ports that fail the step, and the running rate of the others (R393, R400): with every port of the right build through at some rate, none of them fails; otherwise those fail that fail at FLOOR. The others run at the highest rate
at which they all pass. -/
def State.trainPorts (s : State) (ts : List PortTrain) : List Nat × Nat :=
  let cand := s.memCandidates
  let ours := cand.filter (s.buildMatches ts)
  let wrong := cand.filter (fun p => !s.buildMatches ts p)
  match s.triedRates.find? (fun r => ours.all (s.passesAt ts r)) with
  | some r => (wrong, r)
  | none =>
    let floor := s.triedRates.getLastD 0
    let fit := ours.filter (s.passesAt ts floor)
    (wrong ++ ours.filter (fun p => !s.passesAt ts floor p), (s.triedRates.find? (fun r => fit.all (s.passesAt ts r))).getD floor)

/-- MEMORY: every candidate passes, or, with skipping, the ones that fail are marked absent and at least 12 are left (R393, R395, R400, R507, R509). -/
def State.endMemory (s : State) (r : BootResult) : StepEnd :=
  let cand := s.memCandidates
  let k := s.trainPorts r.trains
  let bad := k.1
  let good := cand.filter (fun p => !bad.contains p)
  if !r.ok then plainEnd s r
  else if (!bad.isEmpty ∧ s.boot.path ≠ 2) ∨ good.length < 12 then ⟨s, 2, r.code, 0, maskWord 32 bad⟩
  else
    let s1 := if bad.isEmpty then s else s.retirement (fun t => { t with portsAbsent := t.portsAbsent ||| maskWord 32 bad })
    let s2 := { s1 with
      gddr := { s1.gddr with rate := k.2, ports := s1.gddr.ports.map (fun (m : MemPort) =>
        let q := trainMargin r.trains k.2 m.num
        { m with present := good.contains m.num, trainedMargin := q, measuredMargin := q }) }
      boot := { s1.boot with portCount := good.length } }
    ⟨s2.loadRemaps r.repaired, if bad.isEmpty then 0 else 1, r.code, 0, maskWord 32 bad⟩

/-- LINKS: a port with presence that failed all its attempts is recorded at half rate, or down, and the step ends PARTIAL (R339, R510). -/
def State.endLinks (s : State) (r : BootResult) : StepEnd :=
  let bad := (s.link.ports.filter (fun p => s.portPresent p && !s.flash.retire.linksDown.getLsbD p.num && p.state == .failed)).map (·.num)
  if bad.isEmpty then ⟨s, 0, r.code, 0, 0⟩ else
  let down := bad.filter (fun p => s.flash.retire.linksHalf.getLsbD p)
  let half := bad.filter (fun p => !s.flash.retire.linksHalf.getLsbD p)
  ⟨s.retirement (fun t => { t with linksHalf := t.linksHalf ||| maskWord 64 half, linksDown := t.linksDown ||| maskWord 64 down }), 5, r.code, maskWord 64 bad, 0⟩

/-- READY: queue 0 of each kind, STATE READY, slot 3, and a descriptor that names the image that ran (R34, R511, R516, R536). DESIGN CHOICE: R34 gives queue 0 its place and size and does not say how response queue 0
signals; it is created with its interrupt enabled, a coalescing count of 1 and a coalescing time of 0. -/
def State.endReady (s : State) (r : BootResult) : StepEnd :=
  if !r.ok then plainEnd s r else
  let s1 := s.extendSlot 3 (s.flash.retire.bytes ++ s.buildRecord)
  let s2 := s1.descriptor (if pinSlot s.boot.staez then s1.flash.desc.active else s.boot.slot) false
  plainEnd { s2 with
    queues := { s2.queues with subs := [⟨0, 16, 0, 0, false, 0, false, 0, false, none⟩], resps := [⟨0, 16, 0x10000, true, 1, 0, [], 0, 0⟩] }
    boot := { s2.boot with state := .ready, trial := false } } r

/-- The end of a step's work. -/
def State.endStep (s : State) (r : BootResult) : StepEnd :=
  match s.boot.step with
  | 1 => s.endFlash r
  | 2 => s.endFirmware r
  | 5 => s.endSettings r
  | 7 => s.endRidges r
  | 8 => s.endMemory r
  | 9 => s.endLinks r
  | 10 => s.endReady r
  | _ => plainEnd s r

/-- FAILS after an outcome (R506): LINKS never counts. -/
def failsAfter (step count outcome : Nat) : Nat :=
  if outcome = 0 ∨ outcome = 1 then 0 else if step = 9 ∨ outcome = 5 then count else count + 1

/-- A STEP_END is written, the outcome registers and the sticky mark set, and a failed step lets the policy's reset come (R503, R504, R506, R508). -/
def State.writeEnd (s : State) (x : StepEnd) (elapsed : W64) : State :=
  let b := s.boot
  let n := b.step
  let fails := failsAfter n b.fails x.outcome
  let ok := decide (x.outcome = 0) || decide (x.outcome = 1) || decide (x.outcome = 5)
  let sticky := (decide (x.outcome = 0) || decide (x.outcome = 1)) && (decide (b.path = 1) || decide (b.path = 2))
  let s1 := if sticky then x.state.retirement (fun t => { t with sticky := t.sticky ||| maskWord 16 [n - 1] }) else x.state
  let s2 := s1.cairn { (cairnRec 3 n b.bootSeq) with
    path := b.path, outcome := x.outcome, fails := BitVec.ofNat 16 fails, elapsed := elapsed, detailA := x.detailA, detailB := x.detailB, code := x.code,
    rate := if n = 8 then x.state.gddr.rate else 0, ridgeCount := if n = 7 then x.state.boot.ridgeCount else 0 }
  let s3 := s2.consoleAt elapsed (.bootStep n x.outcome)
  { s3 with boot := { s3.boot with
      running := false, outcome := BitVec.ofNat 8 x.outcome, code := BitVec.ofNat 8 x.code.toNat, fails := fails,
      endedOk := if ok then s3.boot.endedOk ++ [n] else s3.boot.endedOk
      policyReset := !ok } }

/-- A boot step runs. -/
def State.stepOpen (s : State) : Bool := !s.boot.inReset && s.boot.running

/-- BOOT_STEP_END (R506): fewer than 52 fit ridges put the chip in safe state at once, whatever the failure count and whether or not NO_SKIP is set (R10, R502). -/
def execBootStepEnd (r : BootResult) (elapsed : Nat) (s : State) : Out State :=
  .next (s.settle (
    if !s.stepOpen then s else
    let x := s.endStep r
    let t := BitVec.ofNat 64 elapsed
    let s1 := s.writeEnd x t
    if s.boot.step = 7 ∧ r.ok ∧ x.state.boot.ridgeCount < 52 then
      let s2 := s1.enterSafe 7 s1.boot.fails t
      { s2 with boot := { s2.boot with policyReset := false } }
    else s1))

/-- BOOT_STEP_TIMEOUT (R503). -/
def execBootStepTimeout (elapsed : Nat) (s : State) : Out State :=
  .next (s.settle (if !s.stepOpen then s else s.writeEnd ⟨s, 3, BitVec.ofNat 32 stTimeout.toNat, 0, 0⟩ (BitVec.ofNat 64 elapsed)))

/-- BOOT_POLICY_RESET (R503): 10 ms after a step that failed. -/
def execBootPolicyReset (s : State) : Out State := .next (s.settle (if s.boot.policyReset then s.resetBy 3 else s))

/-- BOOT_WATCHDOG (R503). -/
def execBootWatchdog (s : State) : Out State := .next (s.settle (if s.stepOpen then s.resetBy 4 else s))

/-! ### The boot codes of CFG (R525) -/

def cfgStaezReadInfo : OpInfo where
  code := 0x1301
  used := [(32, 1), (40, 8)]
  reason := 0x39
  static := fun p => [bAlign (decide (field p 40 8 % 32 ≠ 0)) 40, bParam (decide (2 < field p 32 1)) 0x39 32]
  dyn := fun s c => rangeBreach s c (c.f 40 8) 512 40

def effectCfgStaezRead (s : State) (c : Ctx) : State × Option Result :=
  let b := match c.f 32 1 with
    | 0 => s.flash.staez0
    | 1 => s.flash.staez1
    | _ => s.boot.staez
  let r := s.storeAt c 4 (c.f 40 8) (padTo 512 b)
  (r.1, storedResult r.2)

/-- CFG.STAEZ_READ (R525). -/
def execCfgStaezRead (id : Nat) (s : State) : Out State := .next (s.settle (s.runCmd cfgStaezReadInfo id effectCfgStaezRead))

def cfgStaezWriteInfo : OpInfo where
  code := 0x1302
  used := [(40, 8)]
  reason := 0x39
  static := fun p => [bAlign (decide (field p 40 8 % 32 ≠ 0)) 40]
  dyn := fun s c => rangeBreach s c (c.f 40 8) 512 40

def effectCfgStaezWrite (s : State) (c : Ctx) : State × Option Result :=
  let r := s.readAt c (c.f 40 8) 512
  let s1 := s.noteReadAt c 4 (c.f 40 8) 512
  match readStatus r with
  | some x => (s1, some x)
  | none => if staezFields false r.data then (s1.writeStaez r.data, some resOK) else (s1, some (badParam 0x38 40))

/-- CFG.STAEZ_WRITE (R525). -/
def execCfgStaezWrite (id : Nat) (s : State) : Out State := .next (s.settle (s.runCmd cfgStaezWriteInfo id effectCfgStaezWrite))

/-- The records of the n most recent starts, oldest first. -/
def recentRecords (rs : List CairnRec) (n : Nat) : List CairnRec :=
  let seqs := ((rs.filter (fun r => r.kind == 1)).map (·.bootSeq)).reverse.take n
  rs.filter (fun r => seqs.contains r.bootSeq)

def cfgCairnReadInfo : OpInfo where
  code := 0x1303
  used := [(32, 1), (40, 12)]
  reason := 0x39
  static := fun p => [bAlign (decide (field p 40 8 % 32 ≠ 0)) 40, bParam (decide (field p 32 1 = 0) || decide (64 < field p 32 1)) 0x39 32]
  dyn := fun s c => rangeBreach s c (c.f 40 8) (c.f 48 4) 40
    ++ [bResource (decide (c.f 48 4 < 64 * (recentRecords s.flash.records (c.f 32 1)).length)) 0]

def effectCfgCairnRead (s : State) (c : Ctx) : State × Option Result :=
  let rs := recentRecords s.flash.records (c.f 32 1)
  let r := s.storeAt c 4 (c.f 40 8) (rs.flatMap CairnRec.bytes)
  (r.1, some ((writeStatus r.2).getD (resIndex rs.length)))

/-- CFG.CAIRN_READ (R525). -/
def execCfgCairnRead (id : Nat) (s : State) : Out State := .next (s.settle (s.runCmd cfgCairnReadInfo id effectCfgCairnRead))

/-- The step mask and flags of CFG.BOOT_CLEAR break its limits. -/
def bootClearBad (mask flags : Nat) : List Breach := [bParam (decide (1023 < mask)) 0x39 32, bParam (decide (7 < flags)) 0x39 34]

/-- One CLEAR record and one retirement record (R525). -/
def State.bootClear (s : State) (mask flags : Nat) : State :=
  let s1 := s.cairn { (cairnRec 4 0 s.boot.bootSeq) with detailA := BitVec.ofNat 64 mask }
  let t := s1.flash.retire
  { s1 with flash := { s1.flash with retire := { t with
      seq := t.seq + 1
      sticky := t.sticky &&& ~~~(BitVec.ofNat 16 mask)
      ridgesRetired := if bitAt flags 0 then 0 else t.ridgesRetired
      ridgesPending := if bitAt flags 0 then 0 else t.ridgesPending
      portsAbsent := if bitAt flags 1 then 0 else t.portsAbsent
      linksHalf := if bitAt flags 2 then 0 else t.linksHalf
      linksDown := if bitAt flags 2 then 0 else t.linksDown } } }

def cfgBootClearInfo : OpInfo where
  code := 0x1304
  used := [(32, 3)]
  reason := 0x39
  static := fun p => bootClearBad (field p 32 2) (field p 34 1)

def effectCfgBootClear (s : State) (c : Ctx) : State × Option Result := (s.bootClear (c.f 32 2) (c.f 34 1), some resOK)

/-- CFG.BOOT_CLEAR (R525). -/
def execCfgBootClear (id : Nat) (s : State) : Out State := .next (s.settle (s.runCmd cfgBootClearInfo id effectCfgBootClear))

end Sys2Proof.Machine
end

