-- ==== Sys2Proof/Machine/Collective.lean ====
section
/-! DEFINITION. The collective grid (R365, R366), collectives (R367 to R378), pace tags (R382), and halt cells (R387 to R391). -/
namespace Sys2Proof.Machine

/-! ### COLL.CONFIG -/

/-! ### The grid -/

/-- The sizes that a packet names. -/
def cfgDims (p : List Byte) : List Nat := (List.range 4).map (fun i => field p (36 + 4 * i) 4)

def collConfigInfo : OpInfo where
  code := 0x8001
  len := some 32
  used := [(32, 20), (56, 16)]
  reason := 0x70
  static := fun p =>
    let d := field p 32 1
    let ds := cfgDims p
    [ bAlign (decide (field p 56 8 % 32 ≠ 0)) 56,
      bParam (decide (d = 0) || decide (4 < d)) 0x70 32,
      bParam (decide (1 < field p 33 1)) 0x70 33,
      bParam (decide (field p 34 2 < 4) || decide (1024 < field p 34 2)) 0x70 34,
      bParam ((ds.drop d).any (fun x => decide (x ≠ 0)) || (ds.take d).any (fun x => decide (65536 < x))) 0x70 36,
      bParam (bitAt (field p 33 1) 0 && decide (field p 64 8 < 4 * (1024 * field p 34 2) * (ds.take d).foldl max 0)) 0x70 64 ]
  dyn := fun s c =>
    let p := c.pkt
    let ds := (cfgDims p).take (field p 32 1)
    jobBreach s ++ [bParam (s.graph.job.isSome && decide (ds.foldl (· * ·) 1 ≠ s.jobN)) 0x70 36,
      bParam (ds.any (fun x => decide (x < 2)) && !(decide (s.jobN = 1) && decide (ds = [1]))) 0x70 36,
      bBusy s.stepRunning 0]
      ++ (if field p 64 8 = 0 then [] else rangeBreach s c (field p 56 8) (field p 64 8) 56)

def effectCollConfig (s : State) (c : Ctx) : State × Option Result :=
  let p := c.pkt
  let k : Colls := { s.coll with
    dims := (cfgDims p).take (field p 32 1)
    det := bitAt (field p 33 1) 0
    chunkKiB := field p 34 2
    stage := field p 56 8
    stageSize := field p 64 8 }
  ({ s with coll := k }, some resOK)

/-- COLL.CONFIG (R366). -/
def execCollConfig (id : Nat) (s : State) : Out State := .next (s.settle (s.runCmd collConfigInfo id effectCollConfig))

/-! ### The common layout (R369) -/

def cOp (p : List Byte) : Nat := field p 32 1
def cIn (p : List Byte) : Nat := field p 33 1
def cFmt (p : List Byte) : Nat := field p 34 1
def cKind (p : List Byte) : Nat := field p 35 1
def cRow (p : List Byte) : Nat := field p 36 4
def cCount (p : List Byte) : Nat := field p 40 8
def cInAddr (p : List Byte) : Nat := field p 48 8
def cOutAddr (p : List Byte) : Nat := field p 56 8
def cScales (p : List Byte) : Nat := field p 64 8

/-- Which collective a packet is: reduce-scatter, all-gather, all-reduce, all-to-all. -/
def isRS (p : List Byte) : Bool := opcodeOf p == 0x8010
def isAG (p : List Byte) : Bool := opcodeOf p == 0x8011
def isAR (p : List Byte) : Bool := opcodeOf p == 0x8012
def isA2A (p : List Byte) : Bool := opcodeOf p == 0x8013

/-- A reduction (reduce-scatter or all-reduce). -/
def reduces (p : List Byte) : Bool := isRS p || isAR p

/-- The curd form. An all-to-all moves COUNT bytes to a block whatever IN_DTYPE is. -/
def isCurd (p : List Byte) : Bool := cIn p == 2 && !isA2A p

/-- SHARD (R370) in units: elements, or tiles of the curd form. -/
def shardUnits (p : List Byte) (n : Nat) : Nat := let k := ceilDiv (cCount p) (max n 1); if isCurd p then k else roundUp k 64

/-- The units of a rank's shard: its first and its count. -/
def shardOf' (p : List Byte) (n r : Nat) : Nat × Nat :=
  let k := shardUnits p n
  (r * k, min (cCount p) ((r + 1) * k) - min (cCount p) (r * k))

/-- Bytes of a stored IN unit, and of a unit as it travels: curd tiles as their records (R267), reductions in FP32 (R372), packed records as their weights (R370), the blocks of an all-to-all as bytes, others as stored. -/
def State.unitBytes (s : State) (p : List Byte) (d : CurdDesc) : Nat :=
  if isA2A p then 1 else
  match cIn p with
  | 2 => d.indexBytes + d.valueBytes
  | 1 => if reduces p then 4 else 2
  | 3 => 1
  | 4 => if s.num.wideState then 4 else 2
  | _ => 4

/-- The curd descriptor at IN, and at OUT. -/
def State.curdIn (s : State) (p : List Byte) : CurdDesc := curdOf (s.read (cInAddr p) 64).data
def State.curdOut (s : State) (p : List Byte) : CurdDesc := curdOf (s.read (cOutAddr p) 64).data

/-- Units per piece (R366): CHUNK bytes; tiles in multiples of 16. -/
def State.chunkUnits (s : State) (p : List Byte) (d : CurdDesc) : Nat :=
  let u := max (s.unitBytes p d) 1
  if isCurd p then 16 * max 1 (1024 * s.coll.chunkKiB / (16 * u)) else 1024 * s.coll.chunkKiB / u

/-- The IN elements or bytes of the command on this chip. -/
def State.inBytes (s : State) (p : List Byte) : Nat :=
  let own := (shardOf' p s.jobN s.rank).2
  if isA2A p then s.jobN * cCount p else
  match cIn p with
  | 2 => 64
  | 1 => 2 * (if isAG p then own else cCount p)
  | 3 => own
  | 4 => s.recBytes * own
  | _ => 4 * (if isAG p then own else cCount p)

/-- Elements of OUT on this chip, its rows and columns, and its format. -/
def State.outElems (s : State) (p : List Byte) : Nat := if isRS p then (shardOf' p s.jobN s.rank).2 else cCount p
def State.outTensor (s : State) (p : List Byte) : Tensor :=
  let n := s.outElems p
  let cols := if isMx (cFmt p) ∧ cRow p ≠ 0 then cRow p else n
  ⟨cFmt p, if cols = 0 then 0 else ceilDiv n cols, cols, cOutAddr p, roundUp (rowBytes (cFmt p) cols) 32, kindLayout (cKind p), cScales p⟩

/-- OUT bytes of a collective that copies bytes. -/
def State.rawOut (s : State) (p : List Byte) : Nat := if isA2A p then s.jobN * cCount p else cCount p

/-- OUT is raw bytes: all-to-all, or IN_DTYPE 3. -/
def outRaw (p : List Byte) : Bool := isA2A p || cIn p == 3

/-- The output ranges (R489): for the curd form, the arrays of the descriptor at OUT. -/
def State.collOuts (s : State) (p : List Byte) : List (Nat × Nat) :=
  if outRaw p then [(cOutAddr p, s.rawOut p)] else if isCurd p then (s.curdOut p).reads else (s.outTensor p).ranges

/-- The breaches of the common layout on the packet alone. -/
def collStatic (p : List Byte) : List Breach :=
  [ bAlign (decide (cInAddr p % 32 ≠ 0)) 48,
    bAlign (decide (cOutAddr p % 32 ≠ 0)) 56,
    bParam (decide (2 < cOp p) || ((isAG p || isA2A p) && decide (cOp p ≠ 0))) 0x71 32,
    bParam (decide (4 < cIn p) || (decide (cIn p = 3) && !(isAG p || isA2A p)) || (decide (cIn p = 4) && !isAG p)) 0x71 33,
    bParam (decide (cIn p ≠ 3) && (decide (7 < cFmt p) || (isMx (cFmt p) && !(isAG p || isAR p)) || (decide (cIn p = 2) && decide (cFmt p ≠ 0)))) 0x71 34,
    bParam (if cIn p = 3 then decide (8 ≤ cKind p) else (kindReason (cKind p) (cFmt p)).isSome) 0x71 35,
    bParam (if isA2A p then decide (cCount p < 32) || decide (2 ^ 32 < cCount p) || decide (cCount p % 32 ≠ 0) else decide (cCount p = 0) || decide (2 ^ 47 < cCount p)) 0x71 40,
    bParam (!(isMx (cFmt p) && !outRaw p && !isCurd p) && decide (cScales p ≠ 0)) 0x71 64 ]

/-- The breaches of the common layout against the state. -/
def collDyn (s : State) (c : Ctx) : List Breach :=
  let p := c.pkt
  let desc (a off : Nat) : List Breach :=
    let rr := s.read a 64
    let d := curdOf rr.data
    bAlign (decide (a % 64 ≠ 0)) off :: rangeBreach s c a 64 off ++
    (if (s.rangeReason a 64).isSome || !rr.good then [] else
      [bParam (!curdOk rr.data || decide (d.fmt ≠ 0)) 0x71 off, bParam (decide (d.tiles ≠ cCount p)) 0x71 off, bAlign (!curdAligned d) off]
      ++ d.reads.flatMap (fun r => if r.2 = 0 then [] else rangeBreach s c r.1 r.2 off))
  jobBreach s ++
  (if isCurd p then desc (cInAddr p) 48 ++ desc (cOutAddr p) 56
   else (if s.inBytes p = 0 then [] else rangeBreach s c (cInAddr p) (s.inBytes p) 48)
    ++ (if outRaw p then rangeBreach s c (cOutAddr p) (s.rawOut p) 56 else if s.outElems p = 0 then [] else tensorBreach s c (s.outTensor p) 56 64))

/-- What the four collectives fix. -/
def collInfo (code : Nat) : OpInfo where
  code := code
  len := some 32
  used := [(32, 40)]
  reason := 0x71
  static := collStatic
  dyn := collDyn

/-! ### Data -/

/-- The chip's own data from unit a on, n units, as it travels (R370, R372). -/
def State.inUnits (s : State) (p : List Byte) (d : CurdDesc) (a n : Nat) : List Byte :=
  match cIn p with
  | 2 =>
    let ix := chunks d.indexBytes (s.read (d.index + a * d.indexBytes) (n * d.indexBytes)).data
    let vs := chunks d.valueBytes (s.read (d.values + a * d.valueBytes) (n * d.valueBytes)).data
    (ix.zip vs).flatMap (fun (x, v) => x ++ v)
  | 1 =>
    let off := if isAG p then a - (shardOf' p s.jobN s.rank).1 else a
    let bs := (s.read (cInAddr p + 2 * off) (2 * n)).data
    if reduces p then ((chunks 2 bs).map leNat).flatMap (fun v => toLE 4 (bf16Widen v).toNat) else bs
  | 3 => (s.read (cInAddr p + (a - (shardOf' p s.jobN s.rank).1)) n).data
  | 4 =>
    let w := s.recBytes / 2
    (chunks s.recBytes (s.read (cInAddr p + s.recBytes * (a - (shardOf' p s.jobN s.rank).1)) (s.recBytes * n)).data).flatMap (fun r => r.take w)
  | _ =>
    let off := if isAG p then a - (shardOf' p s.jobN s.rank).1 else a
    (s.read (cInAddr p + 4 * off) (4 * n)).data

/-- The reads that take the chip's IN. -/
def State.collReads (s : State) (p : List Byte) : List (Nat × Nat) :=
  if isCurd p then
    let d := s.curdIn p
    if isAG p then
      let sh := shardOf' p s.jobN s.rank
      [(cInAddr p, 64), (d.index + sh.1 * d.indexBytes, sh.2 * d.indexBytes), (d.values + sh.1 * d.valueBytes, sh.2 * d.valueBytes)]
    else (cInAddr p, 64) :: d.reads
  else [(cInAddr p, s.inBytes p)]

/-- One FP32 operation of a reduction (R369, R372). -/
def reduceOp (op : Nat) (a b : F32) : FpM F32 :=
  match op with
  | 1 => maxF a b
  | 2 => minF a b
  | _ => addF a b

/-- Two runs of FP32 values combined. -/
def reduceWords (op : Nat) (a b : List Byte) : FpM (List Byte) := do
  let f (bs : List Byte) : List F32 := ((chunks 4 bs).map leNat).map (BitVec.ofNat 32 ·)
  let r ← ((f a).zip (f b)).mapM (fun (x : F32 × F32) => reduceOp op x.1 x.2)
  pure (f32Bytes r)

/-- Two contributions combined: FP32 values, or curd tiles slot by slot with equal index records (none when they differ, R268). -/
def reducePair (op : Nat) (curd : Option CurdDesc) (a b : List Byte) : FpM (Option (List Byte)) := do
  match curd with
  | none =>
    let r ← reduceWords op a b
    pure (some r)
  | some d =>
    let u := d.indexBytes + d.valueBytes
    let ts := (chunks u a).zip (chunks u b)
    if ts.any (fun (x, y) => decide (x.take d.indexBytes ≠ y.take d.indexBytes)) then pure none
    else do
      let r ← ts.mapM (fun (x : List Byte × List Byte) => do
        let v ← reduceWords op (x.1.drop d.indexBytes) (x.2.drop d.indexBytes)
        pure (x.1.take d.indexBytes ++ v))
      pure (some r.flatten)

/-- Contributions combined one after the other. -/
def reduceChain (op : Nat) (curd : Option CurdDesc) (a : List Byte) : List (List Byte) → FpM (Option (List Byte))
  | [] => pure (some a)
  | b :: rest => do
    let r ← reducePair op curd a b
    match r with
    | none => pure none
    | some v => reduceChain op curd v rest

/-- One level of the pairwise tree of R372. -/
def reduceLevel (op : Nat) (curd : Option CurdDesc) : List (List Byte) → FpM (Option (List (List Byte)))
  | a :: b :: rest => do
    let r ← reducePair op curd a b
    let t ← reduceLevel op curd rest
    match r, t with
    | some v, some vs => pure (some (v :: vs))
    | _, _ => pure none
  | xs => pure (some xs)

/-- The pairwise tree of R372; fuel bounds the levels. -/
def reduceTree (op : Nat) (curd : Option CurdDesc) : Nat → List (List Byte) → FpM (Option (List Byte))
  | 0, xs => pure xs.head?
  | n + 1, xs => if xs.length ≤ 1 then pure xs.head? else do
    let r ← reduceLevel op curd xs
    match r with
    | none => pure none
    | some ys => reduceTree op curd n ys

/-- The result of a stage (R372): in order of arrival from the chip's own contribution, or as a tree in coordinate order under DET_REDUCE. -/
def collResult (det : Bool) (op : Nat) (curd : Option CurdDesc) (me : Nat) (own : List Byte) (terms : List (Nat × List Byte)) : FpM (Option (List Byte)) :=
  if det then reduceTree op curd 64 ((sortBy (fun (a b : Nat × List Byte) => decide (a.1 ≤ b.1)) ((me, own) :: terms)).map (·.2))
  else reduceChain op curd own (terms.map (·.2))

/-! ### Parts and stages (R371) -/

/-- The length of a part in units: the shard cut into D parts in multiples of 16. -/
def partUnits (shard d : Nat) : Nat := roundUp (ceilDiv shard (max d 1)) 16

/-- The part that holds a unit of a shard. -/
def partOf (shard d u : Nat) : Nat := u / max (partUnits shard d) 1

/-- The first units of the chunks of a shard of n units: each part cut into chunks of k. -/
def chunkStarts (shard d k n : Nat) : List Nat :=
  let pl := partUnits shard d
  (List.range d).flatMap (fun q => ((List.range (ceilDiv (min pl (n - q * pl)) (max k 1))).map (fun i => q * pl + i * k)))

/-- The units of the chunk that starts at u. -/
def chunkLen (shard d k n u : Nat) : Nat :=
  let pl := max (partUnits shard d) 1
  min k (min n ((u / pl + 1) * pl) - u)

/-- The dimension of stage k of a part: of a reduction, and of a gather. -/
def reduceDim (d q k : Nat) : Nat := (q + k) % max d 1
def gatherDim (d q k : Nat) : Nat := (q + 2 * d - 1 - k) % max d 1

/-- SHAPE (R375). -/
def collShape (p : List Byte) : Byte :=
  ((p.drop 40).take 8).foldl (· ^^^ ·) 0 ^^^ BitVec.ofNat 8 (cOp p) ^^^ BitVec.ofNat 8 (cIn p) ^^^ BitVec.ofNat 8 (opcodeOf p % 256)

/-- What the work on one collective reads: the state's grid and settings, its packet, its descriptor. -/
structure CollEnv where
  pkt : List Byte
  dims : List Nat
  n : Nat
  me : Nat
  det : Bool
  step : Nat
  pace : Byte
  unit : Nat
  chunk : Nat
  curd : Option CurdDesc
  deriving DecidableEq, Repr

/-- The environment of a collective's command. -/
def State.collEnv (s : State) (p : List Byte) : CollEnv :=
  let d := s.curdIn p
  ⟨p, s.coll.dims, s.jobN, s.rank, s.coll.det, s.step32, s.halt.ownTag, s.unitBytes p d, s.chunkUnits p d, if isCurd p then some d else none⟩

/-- The units of a rank's shard (for an all-to-all, the bytes of a block). -/
def CollEnv.lenOf (e : CollEnv) (r : Nat) : Nat := if isA2A e.pkt then cCount e.pkt else (shardOf' e.pkt e.n r).2

/-- SHARD, D, and the chunks of a rank's shard. -/
def CollEnv.shard (e : CollEnv) : Nat := if isA2A e.pkt then cCount e.pkt else shardUnits e.pkt e.n
def CollEnv.d (e : CollEnv) : Nat := e.dims.length
def CollEnv.starts (e : CollEnv) (r : Nat) : List Nat :=
  if isA2A e.pkt then (List.range (ceilDiv (cCount e.pkt) (max e.chunk 1))).map (· * e.chunk) else chunkStarts e.shard e.d e.chunk (e.lenOf r)
def CollEnv.part (e : CollEnv) (u : Nat) : Nat := partOf e.shard e.d u

/-- Bytes as a piece carries them: tile records are padded to whole words (R267). -/
def CollEnv.padded (e : CollEnv) (n : Nat) : Nat := if e.curd.isSome then roundUp n 32 else n

/-- A piece of the collective (R375). -/
def CollEnv.piece (e : CollEnv) (j : Coll) (proto dim src dest u : Nat) (data : List Byte) : Piece :=
  ⟨src, dest, proto, e.step, e.pace, dim, j.queue, e.det, j.collId, u * e.unit, collShape e.pkt, j.poisoned, padTo (e.padded data.length) data⟩

/-- The state of the work on a collective: the collective, the pieces that leave (each with the rank it goes to), and the non-finite results. -/
structure CollWork where
  job : Coll
  out : List (Nat × Piece)
  bad : Nat
  deriving DecidableEq, Repr

/-- A chunk of the chip's own shard, gathered: it leaves in every stage for every other member of the stage's group (R371). first says at which stage it starts to leave. -/
def CollEnv.spread (e : CollEnv) (w : CollWork) (dest u first : Nat) (data : List Byte) : CollWork :=
  let q := e.part u
  let outs := ((List.range e.d).filter (fun k => decide (first ≤ k))).flatMap (fun k =>
    let i := gatherDim e.d q k
    (groupPeers e.dims e.me i).map (fun m => (m, e.piece w.job 2 i e.me dest u data)))
  { w with job := { w.job with got := w.job.got ++ [⟨1, first, e.me, dest, u, data⟩] }, out := w.out ++ outs }

/-- A chunk of the final sum of the chip's own shard: kept, and in an all-reduce gathered. -/
def CollEnv.reduced (e : CollEnv) (w : CollWork) (u : Nat) (data : List Byte) : CollWork :=
  let w1 := { w with job := { w.job with got := w.job.got ++ [⟨0, e.d, e.me, e.me, u, data⟩] } }
  if isAR e.pkt then e.spread w1 e.me u 0 data else w1

/-- The chip's contribution to a destination rank's chunk at stage k of its part: it is sent to the member that shares the destination's coordinate, or meets the arrivals here; a result that is whole is the
contribution to the next stage (R371). fuel counts the stages left. -/
def CollEnv.contribute (e : CollEnv) : Nat → CollWork → Nat → Nat → Nat → List Byte → CollWork
  | 0, w, _, _, u, data => e.reduced w u data
  | f + 1, w, k, dest, u, data =>
    let i := reduceDim e.d (e.part u) k
    if coord e.dims dest i ≠ coord e.dims e.me i then
      { w with out := w.out ++ [(withCoord e.dims e.me i (coord e.dims dest i), e.piece w.job 1 i e.me dest u data)] }
    else
      let mine (a : CollAcc) : Bool := a.stage == k && a.dest == dest && a.unit == u
      let terms := ((w.job.accs.find? mine).map (·.terms)).getD []
      let others := w.job.accs.filter (fun a => !mine a)
      if terms.length + 1 < nth e.dims i 1 then { w with job := { w.job with accs := others ++ [⟨k, dest, u, some data, terms⟩] } }
      else
        let r := (collResult e.det (cOp e.pkt) e.curd (coord e.dims e.me i) data terms).run 0
        let job := { w.job with accs := others, got := w.job.got ++ [⟨0, k, e.me, dest, u, []⟩] }
        match r.1 with
        | some v => e.contribute f { w with job := job, bad := w.bad + r.2 } (k + 1) dest u v
        | none => e.contribute f { w with job := { job with poisoned := true, fail := some ⟨stIndexRange, 0x0B⟩ }, bad := w.bad + r.2 } (k + 1) dest u data

/-- The stage of a part whose dimension is i: of a reduction, of a gather. -/
def CollEnv.reduceStage (e : CollEnv) (q i : Nat) : Nat := ((List.range e.d).find? (fun k => reduceDim e.d q k == i)).getD 0
def CollEnv.gatherStage (e : CollEnv) (q i : Nat) : Nat := ((List.range e.d).find? (fun k => gatherDim e.d q k == i)).getD 0

/-- An arriving contribution to a reduction. -/
def CollEnv.arrive (e : CollEnv) (w : CollWork) (src dest i u : Nat) (data : List Byte) : CollWork :=
  let k := e.reduceStage (e.part u) i
  let mine (a : CollAcc) : Bool := a.stage == k && a.dest == dest && a.unit == u
  let a := (w.job.accs.find? mine).getD ⟨k, dest, u, none, []⟩
  let a1 := { a with terms := a.terms ++ [(coord e.dims src i, data)] }
  let w1 := { w with job := { w.job with accs := w.job.accs.filter (fun x => !mine x) ++ [a1] } }
  match a1.own with
  | some own => e.contribute (e.d - k) w1 k dest u own
  | none => w1

/-- A block's chunk on its way to its rank (R371): it moves to the member with the destination's coordinate in the next dimension in which they differ, or has arrived. fuel counts the stages left. -/
def CollEnv.exchange (e : CollEnv) : Nat → CollWork → Nat → Nat → Nat → List Byte → CollWork
  | 0, w, src, dest, u, data => { w with job := { w.job with got := w.job.got ++ [⟨2, 0, src, dest, u, data⟩] } }
  | f + 1, w, src, dest, u, data =>
    let i := (dest + (e.d - (f + 1))) % max e.d 1
    if coord e.dims dest i ≠ coord e.dims e.me i then
      { w with out := w.out ++ [(withCoord e.dims e.me i (coord e.dims dest i), e.piece w.job 3 i src dest u data)], job := { w.job with got := w.job.got ++ [⟨2, 1, src, dest, u, []⟩] } }
    else e.exchange f w src dest u data

/-- The stages of a block that are left after it crossed dimension i. -/
def CollEnv.leftAfter (e : CollEnv) (dest i : Nat) : Nat := e.d - 1 - ((List.range e.d).find? (fun k => (dest + k) % max e.d 1 == i)).getD 0

/-- A matching piece taken (R371, R377), without the padding of R267. -/
def CollEnv.take (e : CollEnv) (w : CollWork) (p : Piece) : CollWork :=
  let u := p.offset / max e.unit 1
  let data := p.data.take (e.unit * chunkLen e.shard e.d e.chunk (e.lenOf p.dest) u)
  let w1 := if p.poisoned then { w with job := { w.job with poisoned := true } } else w
  match p.proto with
  | 1 => e.arrive w1 p.src p.dest p.dim u data
  | 2 => e.spread w1 p.dest u (e.gatherStage (e.part u) p.dim + 1) data
  | _ => e.exchange (e.leftAfter p.dest p.dim) w1 p.src p.dest u p.data

/-- A piece disagrees with the collective (R376): its PROTO, SHAPE, DET_REDUCE, or its reach. -/
def CollEnv.disagrees (e : CollEnv) (p : Piece) : Bool :=
  let proto := if isRS e.pkt then p.proto == 1 else if isAG e.pkt then p.proto == 2 else if isAR e.pkt then p.proto == 1 || p.proto == 2 else p.proto == 3
  !proto || p.shape != collShape e.pkt || p.det != e.det || decide (e.padded (e.lenOf p.dest * e.unit) < p.offset + p.data.length) || decide (e.n ≤ p.dest)

/-- The work done enters the state: the collective, the pieces sent, the counts. -/
def State.putWork (s : State) (w : CollWork) : State :=
  let s1 := ({ s with coll := { s.coll with jobs := mapWhere (fun j => j.cmd == w.job.cmd) (fun _ => w.job) s.coll.jobs } }).countNonfinite w.bad
  w.out.foldl (fun s x => s.send (.piece x.1 x.2)) s1

/-- The first contributions of a collective that begins (R371). -/
def State.collBegin (s : State) (e : CollEnv) (j : Coll) : CollWork :=
  let d := s.curdIn e.pkt
  let w : CollWork := ⟨j, [], 0⟩
  if reduces e.pkt then
    (List.range e.n).foldl (fun w r => (e.starts r).foldl (fun w u =>
      e.contribute e.d w 0 r u (s.inUnits e.pkt d (r * e.shard + u) (chunkLen e.shard e.d e.chunk (e.lenOf r) u))) w) w
  else if isAG e.pkt then
    (e.starts e.me).foldl (fun w u => e.spread w e.me u 0 (s.inUnits e.pkt d (e.me * e.shard + u) (chunkLen e.shard e.d e.chunk (e.lenOf e.me) u))) w
  else
    (List.range e.n).foldl (fun w r => (e.starts r).foldl (fun w u =>
      e.exchange e.d w e.me r u (s.read (cInAddr e.pkt + r * cCount e.pkt + u) (min e.chunk (cCount e.pkt - u))).data) w) w

/-- The path of a block from s to r: every rank that holds it (R371). fuel counts the stages. -/
def blockPath (dims : List Nat) (r : Nat) : Nat → Nat → List Nat
  | 0, at' => [at']
  | f + 1, at' =>
    let i := (r + (dims.length - (f + 1))) % max dims.length 1
    let next := withCoord dims at' i (coord dims r i)
    if next = at' then blockPath dims r f at' else at' :: blockPath dims r f next

/-- Everything that the collective must still pass on has gone (R378): its stages but the last are reduced, what it gathers before the last stage has come, the blocks that cross it have crossed. -/
def CollEnv.sentAll (e : CollEnv) (j : Coll) : Bool :=
  let has (k stage src dest u : Nat) : Bool := j.got.any (fun g => g.kind == k && g.stage == stage && g.src == src && g.dest == dest && g.unit == u)
  let held (k dest u : Nat) : Bool := (List.range (k + 1)).all (fun m => coord e.dims dest (reduceDim e.d (e.part u) m) == coord e.dims e.me (reduceDim e.d (e.part u) m))
  j.started &&
  (if reduces e.pkt then
    (List.range e.n).all (fun r => (e.starts r).all (fun u => (List.range (e.d - (if isAR e.pkt then 0 else 1))).all (fun k => !held k r u || has 0 k e.me r u)))
   else true) &&
  (if isAG e.pkt || isAR e.pkt then
    (List.range e.n).all (fun r => (e.starts r).all (fun u =>
      let last := ((List.range e.d).filter (fun k => coord e.dims r (gatherDim e.d (e.part u) k) != coord e.dims e.me (gatherDim e.d (e.part u) k))).getLast?
      match last with
      | some k => decide (k + 1 = e.d) || j.got.any (fun g => g.kind == 1 && g.dest == r && g.unit == u)
      | none => j.got.any (fun g => g.kind == 1 && g.dest == r && g.unit == u)))
   else true) &&
  (if isA2A e.pkt then
    (List.range e.n).all (fun a => (List.range e.n).all (fun r => decide (r = e.me) || !(blockPath e.dims r e.d a).contains e.me || (e.starts r).all (fun u => has 2 1 a r u)))
   else true)

/-- All of the collective's data has come. -/
def CollEnv.allHere (e : CollEnv) (j : Coll) : Bool :=
  if isRS e.pkt then (e.starts e.me).all (fun u => j.got.any (fun g => g.kind == 0 && g.stage == e.d && g.unit == u && g.dest == e.me))
  else if isA2A e.pkt then (List.range e.n).all (fun a => (e.starts e.me).all (fun u => j.got.any (fun g => g.kind == 2 && g.stage == 0 && g.src == a && g.dest == e.me && g.unit == u)))
  else (List.range e.n).all (fun r => (e.starts r).all (fun u => j.got.any (fun g => g.kind == 1 && g.dest == r && g.unit == u)))

/-- The data of a rank's shard (or the block from a rank) in order. -/
def CollEnv.dataOf (e : CollEnv) (j : Coll) (r : Nat) : List Byte :=
  (e.starts (if isA2A e.pkt then e.me else r)).flatMap (fun u =>
    ((j.got.find? (fun g => g.unit == u && (if isRS e.pkt then g.kind == 0 && g.stage == e.d else if isA2A e.pkt then g.kind == 2 && g.stage == 0 && g.src == r && g.dest == e.me else g.kind == 1 && g.dest == r))).map (·.data)).getD [])

/-! ### The commands -/

/-- The reduce queue of a command (R242, R378). -/
def Ctx.reduceQueue (c : Ctx) : Nat := c.branch.getD 0

/-- A collective takes its number and waits for its queue (R376, R378). -/
def State.queueColl (s : State) (c : Ctx) : State × Option Result :=
  let q := c.reduceQueue
  let n := assocGet s.coll.nextId q 0
  let j : Coll := ⟨c.id, s.collOuts c.pkt, q, n, false, [], [], false, none⟩
  ({ s with coll := { s.coll with nextId := assocSet s.coll.nextId q (n + 1), jobs := s.coll.jobs ++ [j] } }, none)

/-- A collective entry that started earlier, of the same reduce queue, has not been queued: entries of a queue are served in the order they start (R241). -/
def State.collBehind (s : State) (id : Nat) : Bool :=
  match s.cmd? id with
  | none => false
  | some c =>
    c.entry?.isSome && s.queues.cmds.any (fun d => decide (d.id < id) && d.entry?.isSome && d.stage == .taken && [0x8010, 0x8011, 0x8012, 0x8013].contains (opcodeOf d.pkt)
      && (s.ctxOf d).reduceQueue == (s.ctxOf c).reduceQueue)

/-- The frame of the four collectives: each waits for the earlier ones of its queue. -/
def State.runColl (s : State) (code id : Nat) (effect : State → Ctx → State × Option Result) : State :=
  if s.collBehind id then s else s.runCmd (collInfo code) id effect

def effectCollReduceScatter (s : State) (c : Ctx) : State × Option Result := s.queueColl c
def effectCollAllGather (s : State) (c : Ctx) : State × Option Result := s.queueColl c
def effectCollAllReduce (s : State) (c : Ctx) : State × Option Result := s.queueColl c
def effectCollAllToAll (s : State) (c : Ctx) : State × Option Result := s.queueColl c

/-- COLL.REDUCE_SCATTER (R371). -/
def execCollReduceScatter (id : Nat) (s : State) : Out State := .next (s.settle (s.runColl 0x8010 id effectCollReduceScatter))
/-- COLL.ALL_GATHER (R371). -/
def execCollAllGather (id : Nat) (s : State) : Out State := .next (s.settle (s.runColl 0x8011 id effectCollAllGather))
/-- COLL.ALL_REDUCE (R371). -/
def execCollAllReduce (id : Nat) (s : State) : Out State := .next (s.settle (s.runColl 0x8012 id effectCollAllReduce))
/-- COLL.ALL_TO_ALL (R371). -/
def execCollAllToAll (id : Nat) (s : State) : Out State := .next (s.settle (s.runColl 0x8013 id effectCollAllToAll))

/-- The collective of a command. -/
def State.coll? (s : State) (id : Nat) : Option Coll := s.coll.jobs.find? (fun j => j.cmd == id)

/-- A collective ends in a fault and the wave is raised (R326, R376): an entry ends its step (R50). -/
def State.collFault (s : State) (id : Nat) (r : Result) (cause : Byte) : State :=
  match (s.cmd? id).bind Cmd.entry? with
  | some e => s.failStep r (some e) cause
  | none => (s.endCmd id r).raiseWave cause r.status

/-- Work on a collective done, with its contributions held in the stage area under DET_REDUCE (R372): the manual gives the area no layout, so its bytes are free values. -/
def State.doWork (s : State) (e : CollEnv) (w : CollWork) : State :=
  let s1 := if e.det && reduces e.pkt && !w.job.accs.isEmpty then s.openRanges [(s.coll.stage, s.coll.stageSize)] else s
  s1.putWork w

/-- A piece that has met its collective: taken, or the collective ends in disagreement and the wave is raised (R376). -/
def State.takePiece (s : State) (j : Coll) (p : Piece) : State :=
  let e := s.collEnv (s.pktOf j.cmd)
  if e.disagrees p then s.collFault j.cmd (resOf stBadParam 0x72 0) 0x05 else s.doWork e (e.take ⟨j, [], 0⟩ p)

/-- A packet of the collective waits on a port. -/
def State.piecesWait (s : State) (j : Coll) : Bool := s.link.ports.any (fun x => x.egress.any (fun w => w.reduce.any (fun r => r.queue == j.queue && r.collId == j.collId)))

/-- The collective has sent its last piece (R378). -/
def State.collSent (s : State) (j : Coll) : Bool := (s.collEnv (s.pktOf j.cmd)).sentAll j && !s.piecesWait j

/-- The earlier collectives of the queue have sent everything (R378). -/
def State.queueFree (s : State) (j : Coll) : Bool := s.coll.jobs.all (fun k => k.queue != j.queue || decide (j.collId ≤ k.collId) || s.collSent k)

/-- A piece for a collective that has not begun is held in reassembly (R346, R376). -/
def State.holdPiece (s : State) (p : Piece) : State :=
  let r := s.reasmRoom p.data
  match r.2 with
  | none => r.1
  | some place => { r.1 with coll := { r.1.coll with early := r.1.coll.early ++ [⟨p, place⟩] } }

/-- A held piece, read back from the spill area where it lies there. -/
def State.heldPiece (s : State) (e : EarlyPiece) : Piece :=
  match e.spilled with
  | none => e.piece
  | some a => let r := s.read (s.link.policy.spill + a) e.piece.data.length; { e.piece with data := r.data, poisoned := e.piece.poisoned || !r.good }

/-- COLL_ENTRY_TRANSFER_START (R241): IN is read, the first pieces leave, and the pieces held for this collective are taken. -/
def execCollEntryTransferStart (id : Nat) (s : State) : Out State :=
  .next (s.settle (match s.coll? id, s.runningCtx id with
    | some j, some c =>
      if j.started || !s.queueFree j then s else
      let e := s.collEnv c.pkt
      let rr := s.readAll (s.collReads c.pkt)
      let fail : Option ItemFail := if rr.uncorr.isEmpty then none else some ⟨stUncorrected, 0⟩
      let j1 := { j with started := true, poisoned := !rr.good || (isCurd c.pkt && (s.curdIn c.pkt).poisoned), fail := fail }
      let s1 := (s.noteReads 3 (s.collReads c.pkt)).doWork e (s.collBegin e j1)
      let mine (x : EarlyPiece) : Bool := x.piece.queue == j.queue && x.piece.collId == j.collId
      let early := (s1.coll.early.filter mine).map s1.heldPiece
      let s2 := { s1 with coll := { s1.coll with early := s1.coll.early.filter (fun x => !mine x) } }
      early.foldl (fun s p => match s.coll? id with
        | some k => s.takePiece k p
        | none => s) s2
    | _, _ => s))

/-- COLL_PIECE_RECEIVE (R376): a piece of another step ends the collective and raises the wave (R326); a piece of a collective that has not begun is held. -/
def execCollPieceReceive (p : Piece) (s : State) : Out State :=
  .next (s.settle (
    if s.isHalted then s
    else
      let mine := s.coll.jobs.find? (fun j => j.queue == p.queue && j.collId == p.collId)
      if p.step ≠ s.step32 then
        (match mine with
          | some j => s.collFault j.cmd (resStatus stStepMismatch) 0x04
          | none => s.raiseWave 0x04 stStepMismatch)
      else match mine with
        | some j => if j.started then s.takePiece j p else s.holdPiece p
        | none => s.holdPiece p))

/-- Microseconds added to a wait counter (R385). -/
def State.addWait (s : State) (k n : Nat) : State :=
  { s with halt := { s.halt with
      waits := s.halt.waits.set k (satAdd32 (s.halt.waits.getD k 0) n)
      stepWaits := s.halt.stepWaits.set k (satAdd32 (s.halt.stepWaits.getD k 0) n) } }

/-- The OUT of a whole collective written: raw bytes, curd tiles, or values converted under OUT_KIND (R374). -/
def State.writeColl (s : State) (c : Ctx) (e : CollEnv) (j : Coll) : State × WriteRes :=
  let p := c.pkt
  if isA2A p then s.storeAll 3 ((List.range e.n).map (fun r => (cOutAddr p + r * cCount p, e.dataOf j r)))
  else
    let ranks := if isRS p then [e.me] else List.range e.n
    match e.curd with
    | some d =>
      let o := s.curdOut p
      let u := d.indexBytes + d.valueBytes
      let tiles := ranks.flatMap (fun r => ((chunks u (e.dataOf j r)).zipIdx).map (fun (t, i) => (r * e.shard + i, t)))
      let ws := tiles.flatMap (fun (k, t) => [(o.index + k * d.indexBytes, t.take d.indexBytes), (o.values + k * d.valueBytes, t.drop d.indexBytes)])
      let inD := (s.read (cInAddr p) 64).data
      let outD := (s.read (cOutAddr p) 64).data
      let desc := splice (splice (splice outD 6 ((inD.drop 6).take 3)) 12 ((inD.drop 12).take 8)) 48 ((inD.drop 48).take 8)
      s.storeAll 3 (ws ++ [(cOutAddr p, desc)])
    | none =>
      let bs := ranks.flatMap (e.dataOf j)
      if cIn p = 3 then s.store 3 (cOutAddr p) bs
      else
        let wide := decide (e.unit = 4)
        let vals : List F32 := if wide then ((chunks 4 bs).map leNat).map (BitVec.ofNat 32 ·) else ((chunks 2 bs).map leNat).map bf16Widen
        let t := s.outTensor p
        let k := convertTensor (cKind p) (cFmt p) t.cols (s.historyOf c) none (chunks t.cols vals)
        let s1 := s.countConv c k.count
        let s2 := if cKind p = 4 ∧ isMx (cFmt p) then s1.recordHistory c k.es else s1
        s2.storeAll 3 (t.writes k)

/-- The outputs of a failed collective poisoned (R377, R489). -/
def State.poisonColl (s : State) (p : List Byte) : State :=
  if isCurd p then
    let d := (s.read (cOutAddr p) 64).data
    (s.store 3 (cOutAddr p) (splice d 8 [(d.getD 8 0) ||| 2])).1
  else s.poisonRanges 3 (s.collOuts p)

/-- COLL_COMPLETE (R378): everything has been sent and has come. -/
def execCollComplete (id waited : Nat) (s : State) : Out State :=
  .next (s.settle (match s.coll? id, s.runningCtx id with
    | some j, some c =>
      let e := s.collEnv c.pkt
      if !(s.collSent j && e.allHere j) then s else
      let s1 := ({ s with coll := { s.coll with jobs := s.coll.jobs.filter (fun k => k.cmd != id) } }).addWait 4 waited
      match j.fail, j.poisoned with
      | some f, _ => (s1.poisonColl c.pkt).endCmd id (resOf f.status f.reason 0)
      | none, true => (s1.poisonColl c.pkt).endCmd id (resStatus stPoisoned)
      | none, false =>
        let w := s1.writeColl c e j
        w.1.endCmd id ((writeStatus w.2).getD resOK)
    | _, _ => s))

/-! ### Pace -/

/-- The pace tag (R382). -/
def paceTag (e : Nat) (i : PaceInput) : Byte :=
  let raw : Rat := i.meanClockHz / 1500000000 * (1 - i.meanBubble) * ((e : Rat) / 60)
  let speed : Rat := if raw < 0 then 0 else if 1 < raw then 1 else raw
  let level := min 31 ((32 * (1 - speed)).floor.toNat)
  let top := (i.shares.zipIdx).foldl (fun (b : Rat × Nat) (x : Rat × Nat) => if b.1 < x.1 then (x.1, x.2 + 1) else b) (0, if e < 60 then 6 else 0)
  let cause := if speed < 1 then (if top.2 = 0 then 1 else top.2) else 0
  BitVec.ofNat 8 (cause % 8 * 32 + level)

/-- PACE_TAG_TICK (R382). -/
def execPaceTagTick (i : PaceInput) (s : State) : Out State :=
  .next (s.settle (
    let t := paceTag s.E i
    { s with halt := { s.halt with ownTag := t, topTag := if s.stepRunning && decide (paceLevel s.halt.topTag < paceLevel t) then t else s.halt.topTag } }))

/-! ### The fault wave -/

/-- HALT_CELL_RECEIVE (R388): the first cell of a wave from a rank halts the chip and goes on; a cell of another peer is dropped and counted. -/
def execHaltCellReceive (port : Nat) (c : HaltCell) (s : State) : Out State :=
  .next (s.settle (
    if !s.rankPorts.contains port then { s with halt := { s.halt with dropped := satAdd32 s.halt.dropped 1 } }
    else if s.halt.halted then s
    else
      let ports := s.rankPorts.filter (· != port)
      let h := { s.halt with halted := true, hops := BitVec.ofNat 7 c.hops, cause := c.cause, origin := BitVec.ofNat 16 c.origin, status := c.status, port := BitVec.ofNat 6 port, self := false, step := c.step }
      let s1 := ((s.haltChip h).telem 4 65 0 0 (haltBody h)).console (.halt c.cause)
      ports.foldl (fun s p => s.send (.halt p { c with src := s.chipId.toNat, hops := (c.hops + 1) % 128 })) s1))

/-- A write to HST_HALT_REQ: writing 1 halts the chip and raises the wave (R391). -/
def haltReq (value : W32) (s : State) : State := if value.getLsbD 0 then s.raiseWave 0x09 0 else s

/-- HST_HALT_REQ (R391). -/
def execHstHaltReq (value : W32) (s : State) : Out State := .next (s.settle (s.bar (haltReq value)))

/-- CORE_FAULT (R386). -/
def execCoreFault (s : State) : Out State := .next (s.settle (s.raiseWave 0x0B 0))

end Sys2Proof.Machine
end

