-- ==== Sys2Proof/Machine/Tree.lean ====
section
/-! DEFINITION. The arithmetic of the tree array: exact products, the six tree levels (R132, R133), the carry stack (R155, R156) and the sums of register mode (R161). -/
namespace Sys2Proof.Machine

/-- The exact product of two values. -/
def fpMul : Fp → Fp → Fp
  | .nan, _ => .nan
  | _, .nan => .nan
  | .inf x, .inf y => .inf (x != y)
  | .inf x, .fin y m _ => if m = 0 then .nan else .inf (x != y)
  | .fin x m _, .inf y => if m = 0 then .nan else .inf (x != y)
  | .fin x m e, .fin y k f => .fin (x != y) (m * k) (e + f)

/-- The exact sum of two values; a zero sum is −0 only when both terms are. -/
def fpAdd : Fp → Fp → Fp
  | .nan, _ => .nan
  | _, .nan => .nan
  | .inf x, .inf y => if x = y then .inf x else .nan
  | .inf x, .fin _ _ _ => .inf x
  | .fin _ _ _, .inf y => .inf y
  | .fin x m e, .fin y k f =>
    let lo := min e f
    let i := scaled x m e lo + scaled y k f lo
    if i = 0 then .fin (x && y && decide (m = 0) && decide (k = 0)) 0 lo else .fin (decide (i < 0)) i.natAbs lo

/-- The FP32 word nearest to a value. -/
def fpRound : Fp → F32
  | .nan => qNaN
  | .inf x => f32Inf x
  | .fin n m e => if m = 0 then f32Zero n else f32Round n m e false

/-- A value that is finite. -/
def fpFinite : Fp → Bool
  | .fin _ _ _ => true
  | _ => false

/-- +0. -/
def fpZero : Fp := .fin false 0 0

/-- What one tree input delivers: the exact sum of its products (R133). -/
def inputSum (ps : List Fp) : Fp :=
  match ps with
  | [] => fpZero
  | p :: rest => rest.foldl fpAdd p

/-- Level 1: exact values of inputs 2j and 2j + 1 added and rounded once; a result that is not finite from finite inputs is counted. -/
def levelOne : List Fp → FpM (List F32)
  | [] => pure []
  | [x] => pure [fpRound x]
  | x :: y :: xs => do
    let r := fpRound (fpAdd x y)
    let z ← fun n => (r, if !f32Finite r && fpFinite x && fpFinite y then n + 1 else n)
    let zs ← levelOne xs
    pure (z :: zs)

/-- The pass sum of 64 inputs: six levels (R133). -/
def treeSum (inputs : List Fp) : FpM F32 := do
  let l1 ← levelOne inputs
  let r ← pairFold addF 6 l1
  pure (r.headD 0)

/-- Insertion into the levels of a carry stack from the low level up (R155): the levels after it, and what is carried out of the last. bits holds the occupied levels. -/
def carryIn : List F32 → Nat → F32 → FpM (List F32 × Option F32)
  | [], _, c => pure ([], some c)
  | lv :: ls, b, c =>
    if b % 2 = 0 then pure (c :: ls, none)
    else do
      let c' ← addF lv c
      let r ← carryIn ls (b / 2) c'
      pure (lv :: r.1, r.2)

/-- Insertion of a pass sum with p passes already taken (R155). -/
def stackInsert (l p : Nat) (levels : List F32) (top s : F32) : FpM (List F32 × F32) := do
  let r ← carryIn levels (p % 2 ^ l) s
  match r.2 with
  | none => pure (r.1, top)
  | some c => if p < 2 ^ l then pure (r.1, c) else do
      let t ← addF top c
      pure (r.1, t)

/-- The sum of the occupied levels, lowest first (R156). -/
def collapseLevels : List F32 → Nat → Option F32 → FpM (Option F32)
  | [], _, acc => pure acc
  | lv :: ls, b, acc =>
    if b % 2 = 0 then collapseLevels ls (b / 2) acc
    else match acc with
      | none => collapseLevels ls (b / 2) (some lv)
      | some a => do
        let x ← addF lv a
        collapseLevels ls (b / 2) (some x)

/-- The result of a stack at close (R156). -/
def stackClose (l p : Nat) (levels : List F32) (top : F32) : FpM F32 := do
  let acc ← collapseLevels levels (p % 2 ^ l) none
  if 2 ^ l ≤ p then
    match acc with
    | none => pure top
    | some a => addF top a
  else pure (acc.getD 0)

/-- Pass sums added one after the other, the first as it stands (R161). -/
def registerSum : List F32 → FpM (Option F32)
  | [] => pure none
  | x :: xs => do
    let r ← xs.foldlM addF x
    pure (some r)

end Sys2Proof.Machine
end

