-- ==== Sys2Proof/Machine/Matrix.lean ====
section
/-! DEFINITION. The MATRIX and SPARSE families (R132 to R162, R250 to R272): accumulation groups, products on the tree arrays, closes with conversion or skimming, and the skimmer's own commands. A closing command closes
its group within its own row. -/
namespace Sys2Proof.Machine

/-! ### The fields of R138 and R252 -/

def mGroup (p : List Byte) : Nat := field p 32 1
def mAFmt (p : List Byte) : Nat := field p 33 1
def mBFmt (p : List Byte) : Nat := field p 34 1
def mOpt (p : List Byte) (i : Nat) : Bool := bitAt (field p 35 1) i
def mM (p : List Byte) : Nat := field p 36 4
def mN (p : List Byte) : Nat := field p 40 4
def mK (p : List Byte) : Nat := field p 44 4
def mA (p : List Byte) : Nat := field p 48 8
def mB (p : List Byte) : Nat := field p 56 8
def mAPitch (p : List Byte) : Nat := field p 64 4
def mBPitch (p : List Byte) : Nat := field p 68 4
def mAScales (p : List Byte) : Nat := field p 72 8
def mBScales (p : List Byte) : Nat := field p 80 8
def mL (p : List Byte) : Nat := if field p 88 1 = 0 then 12 else field p 88 1
def mOutFmt (p : List Byte) : Nat := field p 89 1
def mOutKind (p : List Byte) : Nat := field p 90 1
def mS (p : List Byte) : Nat := max (field p 91 1) 1
def mTileRows (p : List Byte) : Nat := if field p 92 2 = 0 then 256 else field p 92 2
def mOut (p : List Byte) : Nat := field p 96 8
def mOutPitch (p : List Byte) : Nat := field p 104 4
def mOutScales (p : List Byte) : Nat := field p 112 8
def mSkimMode (p : List Byte) : Nat := field p 160 1
def mSkimCap (p : List Byte) : Nat := field p 161 1
def mSkimFlags (p : List Byte) : Nat := field p 162 1
def mThreshold (p : List Byte) : F32 := BitVec.ofNat 32 (field p 164 4)
def mOutDesc (p : List Byte) : Nat := field p 168 8
def mMask (p : List Byte) : Nat := field p 176 8

/-- The command is of the SPARSE family. -/
def mSparse (p : List Byte) : Bool := decide (familyOf (opcodeOf p) = 5)

/-- The opcodes that act on a group in command order: opens, closes, discards and products. -/
def groupOp (op : Nat) : Bool := [0x3001, 0x3002, 0x3003, 0x3010, 0x5001, 0x5002].contains op

/-- The command is a product. -/
def mProduct (p : List Byte) : Bool := opcodeOf p == 0x3010 || opcodeOf p == 0x5001

/-- The command opens a group (R144): ACC_OPEN opens one in a product, which alone carries what opening fixes. -/
def mOpens (p : List Byte) : Bool := opcodeOf p == 0x3001 || opcodeOf p == 0x5002 || (mProduct p && flagAccOpen p)

/-- The packet opens its group, closes it (R29, R149: as MATRIX.ACC_CLOSE, or a command that opens or takes a product and carries ACC_CLOSE), frees it with or without a close. -/
def opensGroup (p : List Byte) : Bool := groupOp (opcodeOf p) && mOpens p
def closesGroup (p : List Byte) : Bool := opcodeOf p == 0x3002 || ((mProduct p || mOpens p) && flagAccClose p)
def freesGroup (p : List Byte) : Bool := closesGroup p || opcodeOf p == 0x3003

/-- A_CURD, B_CURD; OUT_CURD, which SPARSE.ACC_OPEN gives by a SKIM_MODE other than 0. -/
def mACurd (p : List Byte) : Bool := mSparse p && mOpt p 4
def mBCurd (p : List Byte) : Bool := mSparse p && mOpt p 5
def mOutCurd (p : List Byte) : Bool := mSparse p && (if opcodeOf p = 0x5002 then decide (mSkimMode p ≠ 0) else mOpt p 6)

/-- The spans of the group fields. -/
def groupSpans (p : List Byte) : List (Nat × Nat) :=
  [(88, 1), (89, 1), (90, 1), (91, 1), (92, 2), (96, 8), (104, 4), (112, 8)]
    ++ (if mSparse p then [(160, 1), (161, 1), (162, 1), (164, 4), (168, 8), (176, 8)] else [])

/-! ### Checks on the packet -/

/-- The limits of the group fields of an opening command (R138, R182). -/
def groupBreaches (p : List Byte) : List Breach :=
  let kr := kindReason (mOutKind p) (mOutFmt p)
  let t := field p 92 2
  [ bAlign (decide (mOut p % 32 ≠ 0)) 96,
    bParam (decide (kr = some 0x15)) 0x15 89,
    bParam (decide (kr = some 0x16)) 0x16 (if 8 ≤ mOutKind p then 90 else 89),
    bParam (mOutCurd p && decide (mOutKind p = 6)) 0x16 90,
    bParam (decide (15 < mGroup p)) 0x16 32,
    bParam (decide (mM p = 0) || decide (2 ^ 20 < mM p)) 0x16 36,
    bParam (decide (mN p = 0) || decide (2 ^ 20 < mN p)) 0x16 40,
    bParam (decide (16 < field p 88 1)) 0x16 88,
    bParam (decide (7 < mOutFmt p)) 0x16 89,
    bParam (decide (64 < field p 91 1)) 0x16 91,
    bParam (decide (t ≠ 0) && (decide (t < 64) || decide (1024 < t) || decide (t % 64 ≠ 0))) 0x16 92,
    bParam (decide (mOutPitch p % 32 ≠ 0)) 0x16 104,
    bParam (!mOutCurd p && (isMx (mOutFmt p) != decide (mOutScales p ≠ 0))) 0x16 112 ]

/-- A group field of a command that opens no group is not 0 (R140). -/
def strayGroupFields (p : List Byte) : List Breach := (groupSpans p).map (fun u => bParam (!allZero p u.1 u.2) 0x12 u.1)

/-- A threshold that the skimmer takes: finite and not negative. -/
def thresholdOk (v : F32) : Bool := f32Finite v && f32Le 0 v

/-- The skimmer fields (R252, R253). -/
def skimBreaches (p : List Byte) : List Breach :=
  if !mSparse p then []
  else if mOutCurd p then
    let m := mSkimMode p
    [ bAlign (decide (mOutDesc p % 64 ≠ 0)) 168, bAlign (decide (mMask p % 64 ≠ 0)) 176,
      bParam (decide (m = 0) || decide (4 < m)) 0x43 160,
      bParam (if m = 4 then decide (mSkimCap p ≠ 0) else decide (mSkimCap p = 0) || decide (8 < mSkimCap p)) 0x43 161,
      bParam (if m = 1 then decide (1 < mSkimFlags p) else decide (mSkimFlags p ≠ 0)) 0x43 162,
      bParam (if m = 2 ∨ m = 3 then !thresholdOk (mThreshold p) else decide (mThreshold p ≠ 0)) 0x43 164,
      bParam (if m = 4 then decide (mMask p = 0) else decide (mMask p ≠ 0)) 0x43 176,
      bParam (decide (mOut p ≠ 0)) 0x44 96, bParam (decide (mOutPitch p ≠ 0)) 0x44 104, bParam (decide (mOutScales p ≠ 0)) 0x44 112 ]
  else
    (groupSpans p).map (fun u => bParam (decide (160 ≤ u.1) && !allZero p u.1 u.2) 0x44 u.1)

/-- The stored rows and columns of A and B. -/
def mARows (p : List Byte) : Nat := if mOpt p 0 then mK p else mM p
def mACols (p : List Byte) : Nat := if mOpt p 0 then mM p else mK p
def mBRows (p : List Byte) : Nat := if mOpt p 1 then mN p else mK p
def mBCols (p : List Byte) : Nat := if mOpt p 1 then mK p else mN p

/-- The operand limits of a product (R138, R140, R253). -/
def operandBreaches (p : List Byte) : List Breach :=
  let ax := isMx (mAFmt p)
  let bx := isMx (mBFmt p)
  let ac := mACurd p
  let bc := mBCurd p
  [ bAlign (decide (mA p % (if ac then 64 else 32) ≠ 0)) 48,
    bAlign (decide (mB p % (if bc then 64 else 32) ≠ 0)) 56,
    bParam ((ax || bx) && decide (mK p % 32 ≠ 0)) 0x13 44,
    bParam (ax && !ac && decide (mAScales p = 0)) 0x13 72,
    bParam (bx && !bc && decide (mBScales p = 0)) 0x13 80,
    bParam (ax && !ac && mOpt p 0 && !mOpt p 2) 0x14 35,
    bParam (decide (15 < mGroup p)) 0x16 32,
    bParam (decide (7 < mAFmt p)) 0x16 33,
    bParam (decide (7 < mBFmt p)) 0x16 34,
    bParam (decide ((if mSparse p then 127 else 15) < field p 35 1)) 0x16 35,
    bParam (decide (mM p = 0) || decide (2 ^ 20 < mM p)) 0x16 36,
    bParam (decide (mN p = 0) || decide (2 ^ 20 < mN p)) 0x16 40,
    bParam (decide (mK p = 0) || decide (2 ^ 31 < mK p)) 0x16 44,
    bParam (!ac && (decide (mAPitch p % 32 ≠ 0) || decide (mAPitch p < rowBytes (mAFmt p) (mACols p)))) 0x16 64,
    bParam (!bc && (decide (mBPitch p % 32 ≠ 0) || decide (mBPitch p < rowBytes (mBFmt p) (mBCols p)))) 0x16 68,
    bParam (!ac && !ax && decide (mAScales p ≠ 0)) 0x16 72,
    bParam (!bc && !bx && decide (mBScales p ≠ 0)) 0x16 80,
    bParam (ac && mOpt p 2) 0x41 35, bParam (bc && mOpt p 3) 0x41 35,
    bParam (ac && decide (mAPitch p ≠ 0)) 0x41 64, bParam (bc && decide (mBPitch p ≠ 0)) 0x41 68,
    bParam (ac && decide (mAScales p ≠ 0)) 0x41 72, bParam (bc && decide (mBScales p ≠ 0)) 0x41 80 ]

/-- The checks on the packet of a product. -/
def productStatic (p : List Byte) : List Breach :=
  operandBreaches p ++ (if mOpens p then groupBreaches p else strayGroupFields p) ++ skimBreaches p

/-! ### Operands -/

/-- A and B as whole-form tensors (R138, R176). -/
def tensorA (p : List Byte) : Tensor :=
  ⟨mAFmt p, mARows p, mACols p, mA p, mAPitch p, if mOpt p 2 then .square else .row, mAScales p⟩
def tensorB (p : List Byte) : Tensor :=
  ⟨mBFmt p, mBRows p, mBCols p, mB p, mBPitch p, if mOpt p 3 then .square else if mOpt p 1 then .row else .column, mBScales p⟩

/-- The descriptor at an address. -/
def State.curdAt (s : State) (a : Nat) : CurdDesc := curdOf (s.read a 64).data

/-- The checks of a curd descriptor named by a packet field: reason 0x40, alignment of its arrays, and where they lie. -/
def curdBreaches (s : State) (c : Ctx) (a off : Nat) (isOut : Bool) : List Breach :=
  let bs := (s.read a 64).data
  let d := curdOf bs
  rangeBreach s c a 64 off ++
  (if (s.rangeReason a 64).isSome then [] else
    bParam (if isOut then !curdHeadOk bs else !curdOk bs) 0x40 off :: bAlign (!curdAligned d) off ::
    (if isOut || !curdOk bs || !curdShapeOk d then [] else
      rangeBreach s c d.index (d.tiles * d.indexBytes) off ++ rangeBreach s c d.values (d.tiles * d.valueBytes) off
        ++ (if isMx d.fmt then rangeBreach s c d.scales d.tiles off else [])))

/-- The checks of a descriptor that a packet names at off alone, whose shape no other field gives: ROWS and COLS within the limits of R244 as well. -/
def curdShapeBreaches (s : State) (c : Ctx) (off : Nat) : List Breach :=
  let a := c.f off 8
  curdBreaches s c a off false ++ (if (s.rangeReason a 64).isSome then [] else [bParam (!curdShapeOk (s.curdAt a)) 0x40 off])

/-- Where the arrays of an output descriptor lie, for the shape that the skimmer will give it. -/
def curdOutBreaches (s : State) (c : Ctx) (a off fmt cap rows cols : Nat) : List Breach :=
  let d := { s.curdAt a with fmt := fmt, cap := cap, rows := rows, cols := cols }
  curdBreaches s c a off true ++
  (if (s.rangeReason a 64).isSome then [] else
    rangeBreach s c d.index (d.tiles * d.indexBytes) off ++ rangeBreach s c d.values (d.tiles * d.valueBytes) off
      ++ (if isMx fmt then rangeBreach s c d.scales d.tiles off else []))

/-- The checks of a curd operand against its descriptor (R253): format 0x41, shape 0x41, transposed read 0x42. -/
def curdOperandBreaches (s : State) (c : Ctx) (a off fmt rows cols : Nat) (fmtOff : Nat) (transposed : Bool) : List Breach :=
  let d := s.curdAt a
  curdBreaches s c a off false ++
  (if (s.rangeReason a 64).isSome then [] else
    [ bParam (decide (d.fmt ≠ fmt)) 0x41 fmtOff,
      bParam (decide (d.rows ≠ rows) || decide (d.cols ≠ cols)) 0x41 off,
      bParam (transposed && !d.twoWay) 0x42 off ])

/-- The checks of a product's operands against the state. -/
def operandDyn (s : State) (c : Ctx) : List Breach :=
  let p := c.pkt
  (if mACurd p then curdOperandBreaches s c (mA p) 48 (mAFmt p) (mARows p) (mACols p) 33 (mOpt p 0) else tensorBreach s c (tensorA p) 48 72)
    ++ (if mBCurd p then curdOperandBreaches s c (mB p) 56 (mBFmt p) (mBRows p) (mBCols p) 34 (!mOpt p 1) else tensorBreach s c (tensorB p) 56 80)

/-- The capacity with which a skimmer writes: its own, or that of MASK. -/
def State.skimCapOf (s : State) (mode cap mask : Nat) : Nat := if mode = 4 then (s.curdAt mask).cap else cap

/-- The checks of an opening command's output against the state. -/
def outputDyn (s : State) (c : Ctx) : List Breach :=
  let p := c.pkt
  if !mOpens p then []
  else if mOutCurd p then
    curdOutBreaches s c (mOutDesc p) 168 (mOutFmt p) (s.skimCapOf (mSkimMode p) (mSkimCap p) (mMask p)) (mM p) (mN p)
      ++ (if mSkimMode p = 4 then
            curdBreaches s c (mMask p) 176 false
              ++ [bParam (decide ((s.curdAt (mMask p)).rows ≠ mM p) || decide ((s.curdAt (mMask p)).cols ≠ mN p)) 0x43 176]
          else [])
  else tensorBreach s c ⟨mOutFmt p, mM p, mN p, mOut p, mOutPitch p, kindLayout (mOutKind p), mOutScales p⟩ 96 112

/-! ### Groups -/

/-- Two ridge sets share a ridge: a step-level set is every enabled ridge, and branches divide them (R24, R144). -/
def setsMeet (a b : Option Nat) : Bool := a.isNone || b.isNone || a == b

/-- The open group of a slot on a set of ridges (R140). -/
def State.group? (s : State) (set : Option Nat) (slot : Nat) : Option Group :=
  s.matrix.groups.find? (fun g => g.slot == slot && setsMeet g.set set)

/-- The group with a slot on a set changed. -/
def State.updGroup (s : State) (g : Group) (f : Group → Group) : State :=
  { s with matrix := { s.matrix with groups := mapWhere (fun h => h.slot == g.slot && h.set == g.set) f s.matrix.groups } }

/-- The group freed. -/
def State.freeGroup (s : State) (g : Group) : State :=
  { s with matrix := { s.matrix with groups := s.matrix.groups.filter (fun h => !(h.slot == g.slot && h.set == g.set)) } }

/-- Tiles down and across (R141). -/
def Group.tilesDown (g : Group) : Nat := ceilDiv g.m g.tileRows
def Group.tilesAcross (g : Group) : Nat := ceilDiv g.n 64
def Group.units (g : Group) : Nat := g.tilesDown * g.tilesAcross * g.s

/-- The unit of an element's slice. -/
def Group.unitOf (g : Group) (t i j : Nat) : Nat := ((i / g.tileRows) * g.tilesAcross + j / 64) * g.s + t

/-- The elements of a tile. -/
def Group.tileElems (g : Group) (tile : Nat) : Nat :=
  let i := tile / max g.tilesAcross 1
  let j := tile % max g.tilesAcross 1
  min g.tileRows (g.m - i * g.tileRows) * min 64 (g.n - j * 64)

/-- The units dealt to the ridge at a position of its set (R141). -/
def Group.unitsAt (g : Group) (b pos : Nat) : List Nat := (List.range g.units).filter (fun u => u % max b 1 == pos)

/-- A logical ridge runs in register mode (R160). -/
def State.inRegisterMode (s : State) (r : Nat) : Bool :=
  match s.ridge? (s.physical r) with
  | some x => x.registerMode
  | none => false

/-- Words of a ridge's stack area per element: L + 1, or one parked word (R146, R161). -/
def State.stackWords (s : State) (g : Group) (r : Nat) : Nat := if s.inRegisterMode r then 1 else g.l + 1

/-- The bytes that a group reserves on the ridge at a position of its set (R146, R147). -/
def State.groupBytes (s : State) (g : Group) (ridges : List Nat) (pos : Nat) : Nat :=
  let us := g.unitsAt ridges.length pos
  let w := s.stackWords g (ridges.getD pos 0)
  if g.transient then min us.length 2 * (g.tileRows * 64 * 4 * w)
  else us.foldl (fun a u => a + g.tileElems (u / max g.s 1) * 4 * w) 0

/-- What the open groups hold on a logical ridge. -/
def State.stackUsed (s : State) (r : Nat) : Nat :=
  s.matrix.groups.foldl (fun a g =>
    let ridges := s.ridgeSet g.set
    if ridges.contains r then a + s.groupBytes g ridges (ridges.idxOf r) else a) 0

/-- Some ridge lacks the stack space for its share (R146, R147, R585). -/
def State.stackLacks (s : State) (g : Group) (ridges : List Nat) : Bool :=
  (ridges.zipIdx).any (fun (r, pos) => decide (s.mem.stack * 2 ^ 20 < s.stackUsed r + s.groupBytes g ridges pos))

/-- The empty accumulator of a unit: a carry stack, or a parked word in register mode. -/
def emptyAcc (l : Nat) (register : Bool) : Acc := if register then .parked none else .stack (List.replicate l 0) 0

/-- The group that a packet opens on a ridge set (R144). -/
def State.newGroup (s : State) (c : Ctx) : Group :=
  let p := c.pkt
  let skim : Option Skim := if mOutCurd p then some ⟨mSkimMode p, mSkimCap p, bitAt (mSkimFlags p) 0, mThreshold p, mOutDesc p, mMask p⟩ else none
  let g : Group := ⟨c.branch, mGroup p, mM p, mN p, mL p, mS p, mTileRows p, mOutFmt p, mOutKind p, mOut p, mOutPitch p, mOutScales p, skim,
    mProduct p && flagAccOpen p && flagAccClose p, false, List.replicate (mS p) 0, []⟩
  { g with accs := (List.range g.s).map (fun t => (List.range (g.m * g.n)).map (fun e =>
      let u := g.unitOf t (e / max g.n 1) (e % max g.n 1)
      emptyAcc g.l (s.inRegisterMode (c.ridges.getD (u % max c.ridges.length 1) 0)))) }

/-- Some other command has started on this command's slot and waits for its ridges' domains; kind picks it by its packet. -/
def State.wakingOn (s : State) (c : Ctx) (kind : List Byte → Bool) : Bool :=
  s.queues.cmds.any (fun d => d.id != c.id && d.stage == .waking && groupOp (opcodeOf d.pkt) && kind d.pkt && mGroup d.pkt == mGroup c.pkt && setsMeet (s.branchOf d.src) c.branch)

/-- The group that a command finds open: once the command that closes it has started, it counts as closed (R140). -/
def State.groupFor (s : State) (c : Ctx) : Option Group := if s.wakingOn c freesGroup then none else s.group? c.branch (mGroup c.pkt)

/-- The slot is not free yet for a command that opens, or not open yet for another: the command that has started on it goes on (R140, R144). -/
def State.slotWait (s : State) (c : Ctx) : Bool :=
  if opensGroup c.pkt then s.wakingOn c freesGroup else s.wakingOn c (fun p => opensGroup p && !freesGroup p)

/-- An earlier command of the same source into the same group has not ended: a plan entry of the branch that comes first in image order, or a packet taken first (R148 to R150). -/
def State.groupWait (s : State) (id : Nat) : Bool :=
  match s.cmd? id with
  | none => false
  | some c =>
    s.slotWait (s.ctxOf c) ||
    match c.src, s.plans.step with
    | .plan e, some st =>
      let b := (st.plan.entries.getD e default).branch
      (st.plan.entries.zipIdx).any (fun (en, k) => decide (k < e) && en.branch == b && groupOp (opcodeOf en.pkt) && mGroup en.pkt == mGroup c.pkt
        && (match st.entries.getD k .waiting with
            | .done => false
            | .waiting => true
            | .running d => match s.cmd? d with
              | some dc => dc.stage.live
              | none => false))
    | _, _ => s.queues.cmds.any (fun d => decide (d.id < id) && d.src == c.src && d.stage.live && groupOp (opcodeOf d.pkt) && mGroup d.pkt == mGroup c.pkt)

/-! ### Contributions -/

/-- Products that one tree input takes: 1 in the FP32 and 16-bit classes, 2 in the 8-bit class, 4 in the 4-bit class; the class is the wider operand's (R134, R135). -/
def productsPerInput (a b : Nat) : Nat :=
  let w := max (fmtBits a) (fmtBits b)
  if 16 ≤ w then 1 else if 6 ≤ w then 2 else 4

/-- q(k) of R255. -/
def curdQ (k : Nat) : Nat := nth [16, 16, 16, 16, 16, 12, 10, 9, 8] k 8

/-- How passes cut K: products per input, K elements per pass, and for a curd B its slots per group of 16. -/
structure PassShape where
  ppi : Nat
  kPer : Nat
  slots : Option Nat
  deriving DecidableEq, Repr, Inhabited

/-- The shape of the passes of a product (R134, R255). -/
def passShape (aFmt bFmt : Nat) (bCap : Option Nat) : PassShape :=
  let ppi := productsPerInput aFmt bFmt
  match bCap with
  | none => ⟨ppi, 64 * ppi, none⟩
  | some k => ⟨ppi, 16 * (ppi * curdQ k), some (max k 4)⟩

/-- The product at one K position; a position that either operand does not hold supplies +0 (R132, R256). -/
def productAt (x : Option Fp × Option Fp) : Fp :=
  match x with
  | (some a, some b) => fpMul a b
  | _ => fpZero

/-- The list filled with +0 to a length. -/
def padFp (n : Nat) (xs : List Fp) : List Fp := xs ++ List.replicate (n - xs.length) fpZero

/-- The products of a pass in the order of the tree inputs. -/
def passProducts (sh : PassShape) (xs : List (Option Fp × Option Fp)) : List Fp :=
  match sh.slots with
  | none => padFp (64 * sh.ppi) (xs.map productAt)
  | some w => padFp (64 * sh.ppi) ((chunks 16 xs).flatMap (fun g => padFp w ((g.filter (fun x => x.2.isSome)).map productAt)))

/-- The pass sum of a pass (R132, R133). -/
def passSum (sh : PassShape) (xs : List (Option Fp × Option Fp)) : FpM F32 :=
  treeSum ((chunks sh.ppi (passProducts sh xs)).map inputSum)

/-- The pass sums of a slice of two K vectors. -/
def slicePassSums (sh : PassShape) (xs : List (Option Fp × Option Fp)) : FpM (List F32) := (chunks sh.kPer xs).mapM (passSum sh)

/-- K elements of a slice (R141), and the range of slice t. -/
def sliceLen (k s kPer : Nat) : Nat := roundUp (ceilDiv k (max s 1)) kPer
def slicePasses (k s kPer t : Nat) : Nat := ceilDiv (min ((t + 1) * sliceLen k s kPer) k - min (t * sliceLen k s kPer) k) kPer

/-- An accumulator after the pass sums of one command (R155, R161). -/
def accAdd (l p : Nat) (a : Acc) (sums : List F32) : FpM Acc :=
  match a with
  | .stack lv top => do
    let r ← (sums.zipIdx).foldlM (fun (st : List F32 × F32) (x : F32 × Nat) => stackInsert l (p + x.2) st.1 st.2 x.1) (lv, top)
    pure (.stack r.1 r.2)
  | .parked w => do
    let r ← registerSum sums
    match r, w with
    | none, _ => pure (.parked w)
    | some x, none => pure (.parked (some x))
    | some x, some y => do
      let z ← addF y x
      pure (.parked (some z))

/-- A group after a product of rows of A (each over K) and columns of B (each over K). -/
def Group.accumulate (g : Group) (sh : PassShape) (k : Nat) (as bs : List (List (Option Fp))) : FpM Group := do
  let len := sliceLen k g.s sh.kPer
  let accs ← (g.accs.zipIdx).mapM (fun (row : List Acc × Nat) => do
    let p := nth g.passes row.2 0
    (row.1.zipIdx).mapM (fun (x : Acc × Nat) => do
      let a := as.getD (x.2 / max g.n 1) []
      let b := bs.getD (x.2 % max g.n 1) []
      let sums ← slicePassSums sh (((a.drop (row.2 * len)).take len).zip ((b.drop (row.2 * len)).take len))
      accAdd g.l p x.1 sums))
  pure { g with accs := accs, passes := (g.passes.zipIdx).map (fun (p, t) => p + slicePasses k g.s sh.kPer t) }

/-- Rows turned into columns. -/
def transpose {α : Type} (cols : Nat) (d : α) (rows : List (List α)) : List (List α) :=
  (List.range cols).map (fun j => rows.map (fun r => r.getD j d))

/-- A curd tensor as a matrix with absent positions. -/
def curdMatrix (d : CurdDesc) (vs : List CurdValue) : List (List (Option Fp)) :=
  (List.range d.rows).map (fun r =>
    let here := vs.filter (fun v => v.row == r)
    (List.range d.cols).map (fun c => (here.find? (fun v => v.col == c)).map (·.val)))

/-- What a product reads: the matrix of A by rows over K and of B by columns over K, its reads, and its failing tile. -/
structure ProductInput where
  as : List (List (Option Fp))
  bs : List (List (Option Fp))
  reads : List (Nat × Nat)
  poisoned : Bool
  failure : Option (Nat × Byte × Nat × Nat)
  shape : PassShape

/-- The lower of two failing tiles; the first operand's on a tie (R270). -/
def lowerTile (a b : Option (Nat × Byte × Nat × Nat)) : Option (Nat × Byte × Nat × Nat) :=
  match a, b with
  | none, b => b
  | a, none => a
  | some x, some y => if y.1 < x.1 then some y else some x

/-- The operands of a product as they are read. -/
def State.productInput (s : State) (p : List Byte) : ProductInput :=
  let da := s.curdAt (mA p)
  let db := s.curdAt (mB p)
  let sa := if mACurd p then curdMatrix da (s.curdValues da) else (s.tensorFp (tensorA p)).map (fun r => r.map some)
  let sb := if mBCurd p then curdMatrix db (s.curdValues db) else (s.tensorFp (tensorB p)).map (fun r => r.map some)
  { as := if mOpt p 0 then transpose (mACols p) none sa else sa
    bs := if mOpt p 1 then sb else transpose (mBCols p) none sb
    reads := (if mACurd p then (mA p, 64) :: da.reads else (tensorA p).reads) ++ (if mBCurd p then (mB p, 64) :: db.reads else (tensorB p).reads)
    poisoned := (mACurd p && da.poisoned) || (mBCurd p && db.poisoned)
    failure := lowerTile (if mACurd p then curdFailure da da.twoWay (s.curdIndex da) else none) (if mBCurd p then curdFailure db db.twoWay (s.curdIndex db) else none)
    shape := passShape (mAFmt p) (mBFmt p) (if mBCurd p then some db.cap else none) }

/-! ### Closing -/

/-- The result of one accumulator (R156, R161). -/
def accResult (l p : Nat) (a : Acc) : FpM F32 :=
  match a with
  | .stack lv top => stackClose l p lv top
  | .parked w => pure (w.getD 0)

/-- The FP32 result of every element: slices added as a pairwise tree in slice order (R156). -/
def Group.results (g : Group) : FpM (List (List F32)) := do
  let flat ← (List.range (g.m * g.n)).mapM (fun e => do
    let rs ← (List.range g.s).mapM (fun t => accResult g.l (nth g.passes t 0) ((g.accs.getD t []).getD e (.parked none)))
    let r ← pairFold addF 64 rs
    pure (r.headD 0))
  pure ((List.range g.m).map (fun i => (flat.drop (i * g.n)).take g.n))

/-- An accumulator of normal accumulation. -/
def Acc.normal : Acc → Bool
  | .stack _ _ => true
  | .parked _ => false

/-- The largest m over normally accumulated slices with more than 2^L passes, 0 when there is none (R158, R162). -/
def Group.longSum (g : Group) : Nat :=
  ((List.range g.s).map (fun t =>
    let p := nth g.passes t 0
    if (g.accs.getD t []).any Acc.normal && decide (2 ^ g.l < p) then ceilDiv p (2 ^ g.l) else 0)).foldl max 0

/-- Any unit of the group ran in register mode. -/
def Group.anyRegister (g : Group) : Bool := g.accs.any (fun r => r.any (fun a => !a.normal))

/-- The output of a whole-form group. -/
def Group.outTensor (g : Group) : Tensor := ⟨g.outFmt, g.m, g.n, g.out, g.outPitch, kindLayout g.outKind, g.outScales⟩

/-- The result of a close: LONG_SUM, the register-mode flag and m (R158, R162). -/
def Group.closeResult (g : Group) : Result :=
  let d := detailOf (bnat g.anyRegister) (min g.longSum 0xFFFF)
  if g.longSum = 0 then ⟨stOK, 0, d, 0, 0, 0⟩ else ⟨stNote, stLongSum, d, 0, 1, 0⟩

/-- The reply of a close that failed: DETAIL [55:48] reads 1 when any unit ran in register mode, where no other rule gives DETAIL (R162). -/
def Group.failResult (g : Group) (r : Result) : Result := if r.detail = 0 then { r with detail := detailOf (bnat g.anyRegister) 0 } else r

/-- A close that noted LONG_SUM is counted by group ID and chip-wide (R154, R158). -/
def State.countLongSum (s : State) (g : Group) : State :=
  if g.longSum = 0 then s else
  { s with
    matrix := { s.matrix with longSums := assocSet s.matrix.longSums g.slot (satAdd16 (assocGet s.matrix.longSums g.slot 0) 1) }
    health := { s.health with counts := { s.health.counts with longSums := satAdd32 s.health.counts.longSums 1 } } }

/-- The skimmer's parameters: mode, capacity, TWO_WAY of mode 1, threshold, output descriptor, mask descriptor, kind and format. -/
structure SkimJob where
  skim : Skim
  kind : Nat
  fmt : Nat
  rows : Nat
  cols : Nat
  deriving DecidableEq, Repr, Inhabited

/-- TWO_WAY of a skimmed output (R261). -/
def State.skimTwoWay (s : State) (k : Skim) : Bool :=
  match k.mode with
  | 1 => k.twoWay
  | 3 => true
  | 4 => (s.curdAt k.mask).twoWay
  | _ => false

/-- The output descriptor of a skim, with its shape. -/
def State.skimDesc (s : State) (j : SkimJob) : CurdDesc :=
  { s.curdAt j.skim.desc with fmt := j.fmt, cap := s.skimCapOf j.skim.mode j.skim.cap j.skim.mask, twoWay := s.skimTwoWay j.skim, rows := j.rows, cols := j.cols }

/-- The writes that leave a skimmed output poisoned: its flag set and its contents open (R265, R271, R489). -/
def skimFreeWrites (d : CurdDesc) (desc free : Nat) (poisoned : Bool) : List (Nat × List Byte) :=
  let bytes := freeBytes free (d.tiles * (d.indexBytes + d.valueBytes + 1) + 8)
  let n1 := d.tiles * d.indexBytes
  let n2 := d.tiles * d.valueBytes
  [(d.index, bytes.take n1), (d.values, (bytes.drop n1).take n2)]
    ++ (if isMx d.fmt then [(d.scales, (bytes.drop (n1 + n2)).take d.tiles)] else [])
    ++ descWrites desc d.fmt d.cap d.twoWay poisoned d.rows d.cols (leNat ((bytes.drop (n1 + n2 + d.tiles)).take 8))

/-- A skimmed output is written with its flag POISONED and open contents. -/
def State.skimPoison (s : State) (j : SkimJob) : State :=
  let d := s.skimDesc j
  let f := s.draw
  (f.2.storeAll 0 (skimFreeWrites d j.skim.desc f.1 true)).1

/-- The failure of a mask's tiles. -/
def State.maskFailure (s : State) (k : Skim) : Option (Nat × Byte × Nat × Nat) :=
  if k.mode = 4 then (let d := s.curdAt k.mask; curdFailure d d.twoWay (s.curdIndex d)) else none

/-- The reads of a mask. -/
def State.maskReads (s : State) (k : Skim) : List (Nat × Nat) :=
  if k.mode = 4 then (let d := s.curdAt k.mask; [(k.mask, 64), (d.index, d.tiles * d.indexBytes)]) else []

/-- FP32 values skimmed into a curd output: a failing or poisoned mask and an overfull group leave the output poisoned; else the arrays and the descriptor are written (R261 to R265). -/
def State.runSkim (s : State) (c : Ctx) (j : SkimJob) (vals : List (List F32)) (overlaps : Bool) : State × Option Result :=
  let d := s.skimDesc j
  let md := s.curdAt j.skim.mask
  let rr := s.readAll (s.maskReads j.skim)
  let s1 := s.noteReads 0 (s.maskReads j.skim)
  let masks := if j.skim.mode = 4 then s.curdIndex md else []
  let m := skimMatrix j.skim.mode d.cap (d.twoWay && decide (j.skim.mode = 1)) j.skim.threshold md.cap masks j.rows j.cols vals
  let maskPoison : Option Result := if j.skim.mode = 4 ∧ md.poisoned then some (resStatus stPoisoned) else none
  match (readStatus rr).or maskPoison with
  | some r => (s1.skimPoison j, some r)
  | none =>
    match lowerTile (s.maskFailure j.skim) (skimFailure m) with
    | some f => (s1.skimPoison j, some (tileResult f))
    | none =>
      if overlaps then
        let f := s1.draw
        let w := f.2.storeAll 0 (skimFreeWrites d j.skim.desc f.1 false)
        (w.1, writeStatus w.2)
      else
        let b := skimBytes d.cap j.kind j.fmt (s.historyOf c) m
        let s2 := (s1.countConv c b.count).recordHistory c (if j.kind = 4 then b.es else [])
        let w := s2.storeAll 0 ([(d.index, b.index), (d.values, b.values)] ++ (if isMx j.fmt then [(d.scales, b.scales)] else [])
          ++ descWrites j.skim.desc j.fmt d.cap d.twoWay false j.rows j.cols b.nnz)
        (w.1, writeStatus w.2)

/-- The output's arrays and its descriptor. -/
def State.skimOut (s : State) (j : SkimJob) : List (Nat × Nat) := (j.skim.desc, 64) :: (s.skimDesc j).reads

/-- The mask overlaps the output and is not the output (R265). -/
def State.maskOverlaps (s : State) (j : SkimJob) : Bool :=
  decide (j.skim.mask ≠ j.skim.desc) && (s.maskReads j.skim).any (fun a => (s.skimOut j).any (overlap a))

/-- The skim job of a group. -/
def Group.skimJob (g : Group) (k : Skim) : SkimJob := ⟨k, g.outKind, g.outFmt, g.m, g.n⟩

/-- The declared output of a group marked poisoned (R153, R489). -/
def State.poisonGroupOut (s : State) (g : Group) : State :=
  match g.skim with
  | some k => s.skimPoison (g.skimJob k)
  | none => s.poisonRanges 0 g.outTensor.ranges

/-- The output of a group written: skimmed, or converted under its kind's recipe (R149). -/
def State.writeGroup (s : State) (c : Ctx) (g : Group) (vals : List (List F32)) : State × Option Result :=
  match g.skim with
  | some k => s.runSkim c (g.skimJob k) vals (s.maskOverlaps (g.skimJob k))
  | none =>
    let k := convertTensor g.outKind g.outFmt g.n (if g.outKind = 4 then s.historyOf c else none) none vals
    let s1 := (s.countConv c k.count).recordHistory c (if g.outKind = 4 then k.es else [])
    let w := s1.storeAll 0 (g.outTensor.writes k)
    (w.1, writeStatus w.2)

/-- A group closes: its result is formed and written, its slot and stacks are freed (R149, R153, R156, R158). -/
def State.closeGroup (s : State) (c : Ctx) (g : Group) : State × Result :=
  let s := s.freeGroup g
  if g.poisoned then (s.poisonGroupOut g, g.failResult (resStatus stPoisoned))
  else
    let r := g.results.run 0
    let w := (s.countNonfinite r.2).writeGroup c g r.1
    match w.2 with
    | some e => (if e.failed then w.1.poisonGroupOut g else w.1, g.failResult e)
    | none => (w.1.countLongSum g, g.closeResult)

/-! ### Opening, products -/

/-- The ridges whose ridge-matrix domain must be switched on for the units of a group (R17). -/
def State.dormant (s : State) (g : Group) (ridges : List Nat) : List Nat := s.switchedOff ((ridges.take g.units).map s.physical)

/-- The start checks of an opening command: its slot is free and its stacks fit (R140, R146, R147). -/
def State.openFails (s : State) (c : Ctx) : Option Result :=
  if (s.group? c.branch (mGroup c.pkt)).isSome || s.wakingOn c (fun p => opensGroup p && !freesGroup p) then some (badParam 0x11 32)
  else if s.stackLacks (s.newGroup c) c.ridges then some (resStatus stNoResource) else none

/-- The checks of R140 on the open group: it is open (0x10), and a product has its M and N (0x12). -/
def groupMismatch (p : List Byte) (g : Option Group) : Option Result :=
  match g with
  | none => some (badParam 0x10 32)
  | some g =>
    if mProduct p && decide (mM p ≠ g.m) then some (badParam 0x12 36)
    else if mProduct p && decide (mN p ≠ g.n) then some (badParam 0x12 40)
    else none

/-- What a command into a group fails with as it starts (R140). -/
def State.startFails (s : State) (c : Ctx) : Option Result :=
  if !groupOp (opcodeOf c.pkt) then none else if opensGroup c.pkt then s.openFails c else groupMismatch c.pkt (s.groupFor c)

/-- The group opened. -/
def State.openGroup (s : State) (c : Ctx) : State := { s with matrix := { s.matrix with groups := s.matrix.groups ++ [s.newGroup c] } }

/-- A command that opens its group and no more: the group is open, and closed again when the packet carries ACC_CLOSE (R29, R144, R149). -/
def State.runOpen (s : State) (c : Ctx) : State × Option Result :=
  match s.openFails c with
  | some r => (s, some r)
  | none =>
    let s1 := s.openGroup c
    if flagAccClose c.pkt then
      let w := s1.closeGroup c (s.newGroup c)
      (w.1, some w.2)
    else (s1, some resOK)

/-- The failing tile of a product's operands, with those of MASK where the product closes a skimmed group (R270). -/
def State.productTile (s : State) (p : List Byte) (g : Group) (f : Nat × Byte × Nat × Nat) : Nat × Byte × Nat × Nat :=
  (lowerTile (some f) (match g.skim with
    | some k => if flagAccClose p && (readStatus (s.readAll (s.maskReads k))).isNone then s.maskFailure k else none
    | none => none)).getD f

/-- A product on its group, and the close when the packet carries ACC_CLOSE (R138, R148, R149, R153). -/
def State.runProduct (s : State) (c : Ctx) (g : Group) : State × Option Result :=
  let p := c.pkt
  let x := s.productInput p
  let rr := s.readAll x.reads
  let s1 := s.noteReads 0 x.reads
  let fail : Option Result := match readStatus rr with
    | some r => some r
    | none => if x.poisoned then some (resStatus stPoisoned) else x.failure.map (fun f => tileResult (s.productTile p g f))
  match fail with
  | some r =>
    if flagAccClose p then ((s1.freeGroup g).poisonGroupOut g, some (g.failResult r))
    else (s1.updGroup g (fun h => { h with
        poisoned := true
        passes := (h.passes.zipIdx).map (fun (q, t) => q + slicePasses (mK p) h.s x.shape.kPer t) }), some r)
  | none =>
    let a := (g.accumulate x.shape (mK p) x.as x.bs).run 0
    let s2 := (s1.countNonfinite a.2).updGroup g (fun _ => a.1)
    if flagAccClose p then
      let w := s2.closeGroup c a.1
      (w.1, some w.2)
    else (s2, some resOK)

/-- A product command as it starts: the checks of R140 at start, the domains it needs, its group, its passes. -/
def State.startProduct (s : State) (c : Ctx) : State × Option Result :=
  let p := c.pkt
  if mOpens p then
    match s.openFails c with
    | some r => (s, some r)
    | none =>
      let g := s.newGroup c
      let ph := s.dormant g c.ridges
      if ph.isEmpty then (s.openGroup c).runProduct c g else (s.wakeFor c.id ph, none)
  else
    match s.groupFor c with
    | none => (s, some (badParam 0x10 32))
    | some g =>
      match groupMismatch p (some g) with
      | some r => (s, some r)
      | none =>
        let ph := s.dormant g c.ridges
        if ph.isEmpty then s.runProduct c g else (s.wakeFor c.id ph, none)

/-- A command into a group, which waits for the earlier ones (R148). -/
def State.runGroupCmd (s : State) (i : OpInfo) (id : Nat) (effect : State → Ctx → State × Option Result) : State :=
  if s.groupWait id then s else s.runCmd i id effect

/-! ### MATRIX -/

def matrixAccOpenInfo : OpInfo where
  code := 0x3001
  len := some 96
  used := [(32, 1), (36, 8), (88, 6), (96, 12), (112, 8)]
  reason := 0x16
  static := groupBreaches
  dyn := outputDyn

def effectMatrixAccOpen (s : State) (c : Ctx) : State × Option Result := s.runOpen c

/-- MATRIX.ACC_OPEN (R144). -/
def execMatrixAccOpen (id : Nat) (s : State) : Out State := .next (s.settle (s.runGroupCmd matrixAccOpenInfo id effectMatrixAccOpen))

/-- The packet of a command that names a group alone. -/
def groupOnly (code : Nat) : OpInfo where
  code := code
  used := [(32, 1)]
  reason := 0x16
  static := fun p => [bParam (decide (15 < mGroup p)) 0x16 32]

def effectMatrixAccClose (s : State) (c : Ctx) : State × Option Result :=
  match s.groupFor c with
  | none => (s, some (badParam 0x10 32))
  | some g =>
    let w := s.closeGroup c g
    (w.1, some w.2)

/-- MATRIX.ACC_CLOSE (R149). -/
def execMatrixAccClose (id : Nat) (s : State) : Out State := .next (s.settle (s.runGroupCmd (groupOnly 0x3002) id effectMatrixAccClose))

def effectMatrixAccDiscard (s : State) (c : Ctx) : State × Option Result :=
  match s.groupFor c with
  | none => (s, some (badParam 0x10 32))
  | some g => (s.freeGroup g, some resOK)

/-- MATRIX.ACC_DISCARD (R150). -/
def execMatrixAccDiscard (id : Nat) (s : State) : Out State := .next (s.settle (s.runGroupCmd (groupOnly 0x3003) id effectMatrixAccDiscard))

/-- State, passes and LONG_SUM count of a group (R154). -/
def State.groupStatus (s : State) (set : Option Nat) (slot : Nat) : Result :=
  let n := (assocGet s.matrix.longSums slot 0).toNat
  match s.group? set slot with
  | none => resOf stOK 0 n
  | some g => { resOf stOK (if g.poisoned then 2 else 1) n with index := BitVec.ofNat 32 (min (g.passes.foldl max 0) 0xFFFFFFFF) }

def effectMatrixAccStatus (s : State) (c : Ctx) : State × Option Result := (s, some (s.groupStatus c.branch (mGroup c.pkt)))

/-- MATRIX.ACC_STATUS (R154). -/
def execMatrixAccStatus (id : Nat) (s : State) : Out State := .next (s.settle (s.runCmd (groupOnly 0x3004) id effectMatrixAccStatus))

def matrixMatmulInfo : OpInfo where
  code := 0x3010
  len := some 96
  flags := 0x18
  used := [(32, 62), (96, 12), (112, 8)]
  reason := 0x16
  static := productStatic
  dyn := fun s c => operandDyn s c ++ outputDyn s c

def effectMatrixMatmul (s : State) (c : Ctx) : State × Option Result := s.startProduct c

/-- MATRIX.MATMUL (R138). -/
def execMatrixMatmul (id : Nat) (s : State) : Out State := .next (s.settle (s.runGroupCmd matrixMatmulInfo id effectMatrixMatmul))

/-! ### SPARSE -/

def sparseMatmulInfo : OpInfo where
  code := 0x5001
  len := some 128
  flags := 0x18
  used := [(32, 62), (96, 12), (112, 8), (160, 3), (164, 20)]
  reason := 0x16
  static := productStatic
  dyn := fun s c => operandDyn s c ++ outputDyn s c

def effectSparseMatmul (s : State) (c : Ctx) : State × Option Result := s.startProduct c

/-- SPARSE.MATMUL (R255). -/
def execSparseMatmul (id : Nat) (s : State) : Out State := .next (s.settle (s.runGroupCmd sparseMatmulInfo id effectSparseMatmul))

def sparseAccOpenInfo : OpInfo where
  code := 0x5002
  len := some 128
  used := [(32, 1), (36, 8), (88, 6), (96, 12), (112, 8), (160, 3), (164, 20)]
  reason := 0x16
  static := fun p => groupBreaches p ++ skimBreaches p
  dyn := outputDyn

def effectSparseAccOpen (s : State) (c : Ctx) : State × Option Result := s.runOpen c

/-- SPARSE.ACC_OPEN (R254). -/
def execSparseAccOpen (id : Nat) (s : State) : Out State := .next (s.settle (s.runGroupCmd sparseAccOpenInfo id effectSparseAccOpen))

/-- The fields of SPARSE.SKIM (R264). -/
def skMode (p : List Byte) : Nat := field p 32 1
def skInFmt (p : List Byte) : Nat := field p 33 1
def skKind (p : List Byte) : Nat := field p 34 1
def skFlags (p : List Byte) : Nat := field p 35 1
def skCap (p : List Byte) : Nat := field p 36 1
def skOutFmt (p : List Byte) : Nat := field p 37 1
def skRows (p : List Byte) : Nat := field p 40 4
def skCols (p : List Byte) : Nat := field p 44 4
def skThreshold (p : List Byte) : F32 := BitVec.ofNat 32 (field p 48 4)
def skIn (p : List Byte) : Nat := field p 56 8
def skOut (p : List Byte) : Nat := field p 64 8
def skMask (p : List Byte) : Nat := field p 72 8

/-- The input of a skim. -/
def skTensor (p : List Byte) : Tensor := ⟨skInFmt p, skRows p, skCols p, skIn p, roundUp (rowBytes (skInFmt p) (skCols p)) 32, .row, 0⟩

/-- The skim job of the packet. -/
def skJob (p : List Byte) : SkimJob := ⟨⟨skMode p, skCap p, bitAt (skFlags p) 0, skThreshold p, skOut p, skMask p⟩, skKind p, skOutFmt p, skRows p, skCols p⟩

def sparseSkimInfo : OpInfo where
  code := 0x5010
  len := some 64
  used := [(32, 6), (40, 12), (56, 24)]
  reason := 0x43
  static := fun p =>
    let m := skMode p
    let kr := kindReason (skKind p) (skOutFmt p)
    [ bAlign (decide (skOut p % 64 ≠ 0)) 64, bAlign (decide (skMask p % 64 ≠ 0)) 72,
      bParam (decide (kr = some 0x15)) 0x15 34,
      bParam (decide (kr = some 0x16) || decide (skKind p = 6)) 0x16 34,
      bParam (decide (m = 0) || decide (4 < m)) 0x43 32,
      bParam (decide (1 < skInFmt p)) 0x43 33,
      bParam (if m = 1 then decide (1 < skFlags p) else decide (skFlags p ≠ 0)) 0x43 35,
      bParam (if m = 4 then decide (skCap p ≠ 0) else decide (skCap p = 0) || decide (8 < skCap p)) 0x43 36,
      bParam (decide (7 < skOutFmt p)) 0x43 37,
      bParam (decide (skRows p = 0) || decide (2 ^ 31 < skRows p)) 0x43 40,
      bParam (decide (skCols p = 0) || decide (2 ^ 31 < skCols p)) 0x43 44,
      bParam (if m = 2 ∨ m = 3 then !thresholdOk (skThreshold p) else decide (skThreshold p ≠ 0)) 0x43 48,
      bParam (if m = 4 then decide (skMask p = 0) else decide (skMask p ≠ 0)) 0x43 72 ]
  dyn := fun s c =>
    let p := c.pkt
    tensorBreach s c (skTensor p) 56 56
      ++ curdOutBreaches s c (skOut p) 64 (skOutFmt p) (s.skimCapOf (skMode p) (skCap p) (skMask p)) (skRows p) (skCols p)
      ++ (if skMode p = 4 then
            curdBreaches s c (skMask p) 72 false
              ++ [bParam (decide ((s.curdAt (skMask p)).rows ≠ skRows p) || decide ((s.curdAt (skMask p)).cols ≠ skCols p)) 0x43 72]
          else [])

/-- Some two of input, mask and output overlap, other than a mask that is the output (R265). -/
def State.skimOverlaps (s : State) (p : List Byte) : Bool :=
  let out := s.skimOut (skJob p)
  let inp := (skTensor p).reads
  inp.any (fun a => out.any (overlap a)) || inp.any (fun a => (s.maskReads (skJob p).skim).any (overlap a)) || s.maskOverlaps (skJob p)

def effectSparseSkim (s : State) (c : Ctx) : State × Option Result :=
  let p := c.pkt
  let t := skTensor p
  let rr := s.readAll t.reads
  let s1 := s.noteReads 0 t.reads
  match readStatus rr with
  | some r => (s1.skimPoison (skJob p), some r)
  | none =>
    let w := s1.runSkim c (skJob p) (s.tensorF32 t) (s.skimOverlaps p)
    (w.1, some (w.2.getD resOK))

/-- SPARSE.SKIM (R264). -/
def execSparseSkim (id : Nat) (s : State) : Out State := .next (s.settle (s.runCmd sparseSkimInfo id effectSparseSkim))

/-- The output of SPARSE.EXPAND. -/
def exTensor (s : State) (p : List Byte) : Tensor :=
  let d := s.curdAt (field p 32 8)
  ⟨field p 40 1, d.rows, d.cols, field p 48 8, field p 56 4, .row, 0⟩

def sparseExpandInfo : OpInfo where
  code := 0x5011
  used := [(32, 9), (48, 12)]
  static := fun p => [bAlign (decide (field p 32 8 % 64 ≠ 0)) 32, bParam (decide (2 < field p 40 1)) 0 40]
  dyn := fun s c =>
    curdShapeBreaches s c 32
      ++ [bParam (decide (c.f 40 1 ≠ 0) && decide (c.f 40 1 ≠ (s.curdAt (c.f 32 8)).fmt)) 0 40]
      ++ tensorBreach s c (exTensor s c.pkt) 48 48

/-- The status of a read of a curd tensor: its words, its POISONED flag, its tiles. -/
def State.curdReadStatus (s : State) (a : Nat) : Option Result :=
  let d := s.curdAt a
  match readStatus (s.readAll ((a, 64) :: d.reads)) with
  | some r => some r
  | none => if d.poisoned then some (resStatus stPoisoned) else (curdFailure d d.twoWay (s.curdIndex d)).map tileResult

/-- The whole form of a curd tensor, zeros in absent positions, as element codes of FP32 or of its own format. -/
def expandRows (outFmt : Nat) (d : CurdDesc) (vs : List CurdValue) : List (List Byte) :=
  (List.range d.rows).map (fun r =>
    let here := vs.filter (fun v => v.row == r)
    packCodes outFmt ((List.range d.cols).map (fun c => match here.find? (fun v => v.col == c) with
      | some v => if outFmt = 0 then v.word.toNat else v.code
      | none => 0)))

def effectSparseExpand (s : State) (c : Ctx) : State × Option Result :=
  let a := c.f 32 8
  let d := s.curdAt a
  let t := exTensor s c.pkt
  let s1 := s.noteReads 0 ((a, 64) :: d.reads)
  match s.curdReadStatus a with
  | some r => (s1.poisonRanges 0 t.ranges, some r)
  | none =>
    let w := s1.storeAll 0 (((expandRows t.fmt d (s.curdValues d)).zipIdx).map (fun (bs, r) => (t.addr + r * t.pitch, bs)))
    (w.1, some ((writeStatus w.2).getD resOK))

/-- SPARSE.EXPAND (R272). -/
def execSparseExpand (id : Nat) (s : State) : Out State := .next (s.settle (s.runCmd sparseExpandInfo id effectSparseExpand))

def sparseCheckInfo : OpInfo where
  code := 0x5020
  used := [(32, 8)]
  static := fun p => [bAlign (decide (field p 32 8 % 64 ≠ 0)) 32]
  dyn := fun s c => curdShapeBreaches s c 32

/-- Every tile meets R249. -/
def allTwoWay (k : Nat) (ts : List TileIndex) : Bool :=
  ts.all (fun t => t.counts.all (fun n => decide (n ≤ k)) && (columnCounts k t).all (fun n => decide (n ≤ k)))

def effectSparseCheck (s : State) (c : Ctx) : State × Option Result :=
  let a := c.f 32 8
  let d := s.curdAt a
  let ts := s.curdIndex d
  let two := allTwoWay d.cap ts
  let nnz := ts.foldl (fun n t => n + t.counts.foldl (· + ·) 0) 0
  let s1 := s.noteReads 0 ((a, 64) :: d.reads)
  match readStatus (s.readAll ((a, 64) :: d.reads)), s.curdReadStatus a with
  | some r, _ => (s1, some r)
  | none, some r =>
    let tile := (curdFailure d d.twoWay ts).map (fun f => (tileResult f).index)
    (s1, some { r with index := tile.getD 0, detail := if two then detailOf (r.detail.toNat / 65536) 1 else r.detail })
  | none, none => (s1, some { resIndex nnz with detail := detailOf 0 (bnat two) })

/-- SPARSE.CHECK (R272). -/
def execSparseCheck (id : Nat) (s : State) : Out State := .next (s.settle (s.runCmd sparseCheckInfo id effectSparseCheck))

end Sys2Proof.Machine
end

