-- ==== Sys2Proof/Machine/OpTable.lean ====
section
/-! DEFINITION. The assigned opcodes: the packet forms of all Tuimi commands in one table, and the checks of R46 that every packet meets before its own chapter's checks. -/
namespace Sys2Proof.Machine

/-! ### PLAN and STEP packets (R67) -/

def planLoadInfo : OpInfo where
  code := 0xF001
  used := [(32, 13)]
  static := fun p =>
    [ bAlign (decide (field p 32 8 % 32 ≠ 0)) 32,
      bParam (decide (field p 40 4 < 64) || decide (field p 40 4 % 32 ≠ 0) || decide (8 * 2 ^ 20 < field p 40 4)) 0 40,
      bParam (decide (63 < field p 44 1)) 0 44 ]
  dyn := fun s c => rangeBreach s c (c.f 32 8) (c.f 40 4) 32

def planUnloadInfo : OpInfo where
  code := 0xF002
  used := [(32, 1)]
  static := fun p => [bParam (decide (63 < field p 32 1)) 0 32]

def stepRunInfo : OpInfo where
  code := 0xF010
  used := [(32, 1)]
  static := fun p => [bParam (decide (63 < field p 32 1)) 0 32]

/-- PLAN.BARRIER and PLAN.AGREE act only as plan entries (R68). The reason is 0x00 and the offset that of OPCODE: the rule gives neither (DESIGN CHOICE, log 22). -/
def entryOnly (c : Ctx) : Breach := bParam (!c.inPlan) 0 0

def planBarrierInfo : OpInfo where
  code := 0xF020
  used := [(32, 1)]
  static := fun p => [bParam (decide (1 < field p 32 1)) 0 32]
  dyn := fun _ c => [entryOnly c]

def planAgreeInfo : OpInfo where
  code := 0xF021
  used := [(32, 8)]
  dyn := fun _ c => [entryOnly c]

/-! ### The table -/

/-- The packet forms by family (R67, R74, R137, R201, R253, R276, R320, R331, R366, R417, R433, R453, R475, R480, R492, R525, R541). -/
def sysOps : List OpInfo := [sysNopInfo, sysQueueCreateInfo, sysQueueDeleteInfo, sysQueueFlushInfo, sysInfoInfo, sysDeadlinesInfo]
def planOps : List OpInfo := [planLoadInfo, planUnloadInfo, stepRunInfo, planBarrierInfo, planAgreeInfo]
def cfgOps : List OpInfo :=
  [cfgWideInfo, cfgScalePoolInfo, cfgRatioSetInfo, cfgNumReadInfo, cfgLinkPortsInfo, cfgLinkRouteInfo, cfgLinkRanksInfo, cfgLinkPolicyInfo, cfgLinkRetrainInfo,
    cfgStaezReadInfo, cfgStaezWriteInfo, cfgCairnReadInfo, cfgBootClearInfo]
def graphOps : List OpInfo :=
  [graphShardSetInfo, graphShardClearInfo, graphJobInfo, graphSampleInfo, graphAliasRebuildInfo, graphAliasConfigInfo, graphAliasStatusInfo, graphFeatureSetInfo,
    graphFeatureClearInfo, graphGatherInfo, graphAggregateInfo, graphAggregateBwdInfo, graphScatterInfo]
def matrixOps : List OpInfo := [matrixAccOpenInfo, groupOnly 0x3002, groupOnly 0x3003, groupOnly 0x3004, matrixMatmulInfo]
def vecOps : List OpInfo :=
  [vecMapInfo, vecReduceInfo, vecNormInfo, vecNormBwdInfo, vecSoftmaxInfo, vecLossInfo, vecDropoutInfo, vecInitInfo, vecRandomBitsInfo, vecGumbelInfo, funcApplyInfo,
    funcDerivInfo, funcLoadPairInfo, funcClearPairInfo, funcReadPairInfo, vecRngSeedInfo]
def sparseOps : List OpInfo := [sparseMatmulInfo, sparseAccOpenInfo, sparseSkimInfo, sparseExpandInfo, sparseCheckInfo]
def embedOps : List OpInfo := [embedTableSetInfo, embedTableClearInfo, embedPolicyInfo, embedLookupInfo, embedLookupBwdInfo, embedApplyInfo]
def updateOps : List OpInfo := [updateShardSetInfo, updateShardClearInfo, updateHyperTableInfo, updateStepSetInfo, updateRunInfo]
def collOps : List OpInfo := [collConfigInfo, collInfo 0x8010, collInfo 0x8011, collInfo 0x8012, collInfo 0x8013]
def memOps : List OpInfo :=
  [memInfoInfo, memShareInfo, memPolicyInfo, memRemapReadInfo, memRetrainInfo, memCacheSplitInfo, memCacheFlushInfo, memStackAreaInfo, memCopyInfo, memFillInfo, memAtomicInfo]
def powerOps : List OpInfo := [powerCapInfo, powerClockInfo, powerHintInfo]
def healthOps : List OpInfo := [healthPolicyInfo, healthTestInfo, healthClearHaltInfo 0, healthRetireInfo, telemRingInfo, telemCountersInfo]
def ctxOps : List OpInfo := [ctxSizeInfo, ctxSaveInfo, ctxRestoreInfo]
def secOps : List OpInfo :=
  [secCertReadInfo, secQuoteInfo, secExtendInfo, secImageWriteInfo, secImageStatusInfo, secFuseCommitInfo, secCustomerKeyInfo, secDebugChallengeInfo, secDebugUnlockInfo]

/-- Every assigned opcode's packet form. -/
def opTable : List OpInfo :=
  sysOps ++ planOps ++ cfgOps ++ graphOps ++ matrixOps ++ vecOps ++ sparseOps ++ embedOps ++ updateOps ++ collOps ++ memOps ++ powerOps ++ healthOps ++ ctxOps ++ secOps

/-- The packet form of an opcode. -/
def opInfo? (code : Nat) : Option OpInfo := opTable.find? (fun i => i.code == code)

/-! ### Checks 1 to 4 of R46 -/

/-- Check 1: the reserved bits of FLAGS and QUEUE_DEADLINE, and HDR_VERSION, each with the offset of its header field. -/
def headerBreaches (p : List Byte) : List Breach :=
  [ bParam (decide (field p 2 1 % 4 ≠ 0)) 0 2, bParam (decide (field p 3 1 ≠ 1)) 0 3, bParam (decide (field p 12 4 % 256 ≠ 0)) 0 12 ]

/-- PARAM_LENGTH is legal for the opcode (check 3). -/
def lengthOk (i : OpInfo) (p : List Byte) : Bool :=
  let n := pktParamLength p
  decide (n % 32 = 0) && decide (n ≤ 16320) && (match i.len with
    | some k => decide (n = k)
    | none => true)

/-- The flags beyond FENCE, NODEFER and QUIET that R29 gives an opcode: STALE_OK the GRAPH family, ACC_OPEN and ACC_CLOSE the MATRIX and SPARSE families. -/
def ownFlags (op : Nat) : Nat := if familyOf op = 2 then 0x20 else if familyOf op = 3 ∨ familyOf op = 5 then 0x18 else 0

/-- Of STALE_OK, ACC_OPEN and ACC_CLOSE the packet sets only those that R29 gives its opcode. -/
def flagsOk (i : OpInfo) (p : List Byte) : Bool :=
  let own := ownFlags i.code
  let set := field p 2 1 / 8 % 8 * 8
  decide (set &&& own = set)

/-- Checks 1 to 4 of R46: the packet's form, or the result that it ends with. noQueue says that the response queue it names does not exist, which is the last part of check 3; at one check and one reason the lowest
offset is reported, so that PARAM_LENGTH (8) comes before QUEUE_DEADLINE (12). -/
def precheck (noQueue : Bool) (p : List Byte) : Result ⊕ OpInfo :=
  match firstBreach (headerBreaches p) with
  | some r => .inl r
  | none =>
    match opInfo? (opcodeOf p) with
    | none => .inl (resStatus stBadOpcode)
    | some i =>
      if !lengthOk i p then .inl (badParam 0 8)
      else if noQueue then .inl (badParam 0 12)
      else match firstBreach [bParam (!flagsOk i p) 0 2, bParam (!deadlineLegal p) 0 12] with
        | some r => .inl r
        | none => .inr i

end Sys2Proof.Machine
end

