-- ==== Sys2Proof/Machine/Plan.lean ====
section
/-! DEFINITION. Plan images: the header and the entries (R55, R56), every reason for which PLAN.LOAD refuses one, the division of ridges (R24), counter sets and scale histories (R184, R192), PLAN.LOAD and PLAN.UNLOAD. -/
namespace Sys2Proof.Machine

/-! ### The header (R55) -/

def phBranches (img : List Byte) : Nat := field img 6 1
def phEntries (img : List Byte) : Nat := field img 8 4
def phDeadline (img : List Byte) : Nat := field img 20 4
def phWeight (img : List Byte) (b : Nat) : Nat := field img (32 + 4 * b) 1
def phPrio (img : List Byte) (b : Nat) : Nat := field img (33 + 4 * b) 1

/-- The header is as R55 states, for an image of the given length; R25 adds that there are no more branches than ridges. -/
def headerOk (img : List Byte) (ridges : Nat) : Bool :=
  let nb := phBranches img
  decide (field img 0 4 = 0x4E4C5054) && decide (field img 4 2 = 1) && decide (1 ≤ nb) && decide (nb ≤ 8) && decide (nb ≤ ridges)
    && decide (1 ≤ phEntries img) && decide (phEntries img ≤ 65535) && decide (field img 12 4 = img.length)
    && decide (crc32 (splice img 16 (zeros 4)) = field img 16 4) && decide (phDeadline img ≤ 3600000)
    && (List.range 8).all (fun b => if b < nb then decide (1 ≤ phWeight img b) && decide (phWeight img b ≤ 64) && decide (phPrio img b ≤ 7) else allZero img (32 + 4 * b) 4)

/-! ### The division of ridges (R24) -/

/-- Ridges left over go one each to the branches with the largest remainders, equal remainders to the lower branch first. -/
def handOut (rems : List Nat) (counts : List Nat) (left : Nat) : List Nat :=
  let order := sortBy (fun (a b : Nat × Nat) => decide (b.1 < a.1) || (decide (a.1 = b.1) && decide (a.2 ≤ b.2))) rems.zipIdx
  ((order.take left).map (·.2)).foldl (fun cs b => cs.set b (cs.getD b 0 + 1)) counts

/-- The highest-numbered of the branches that hold the most. -/
def richest (counts : List Nat) : Nat := (List.range counts.length).foldl (fun m i => if counts.getD m 0 ≤ counts.getD i 0 then i else m) 0

/-- A branch that holds none takes one ridge from the branch that holds the most at that moment. -/
def feedBranch (counts : List Nat) (b : Nat) : List Nat :=
  if counts.getD b 0 ≠ 0 then counts else
  let m := richest counts
  (counts.set m (counts.getD m 0 - 1)).set b 1

/-- How many of e ridges each branch receives. -/
def ridgeShares (e : Nat) (weights : List Nat) : List Nat :=
  let total := max (weights.foldl (· + ·) 0) 1
  let floors := weights.map (fun w => e * w / total)
  let out := handOut (weights.map (fun w => e * w % total)) floors (e - floors.foldl (· + ·) 0)
  (List.range weights.length).foldl feedBranch out

/-- Branch 0 takes the lowest logical numbers, branch 1 the next, and so on. -/
def dealRidges : Nat → List Nat → List (List Nat)
  | _, [] => []
  | n, k :: ks => ((List.range k).map (· + n)) :: dealRidges (n + k) ks

/-- The branches of an image on a chip of e ridges. -/
def branchesOf (img : List Byte) (e : Nat) : List Branch :=
  let bs := List.range (phBranches img)
  let dealt := dealRidges 0 (ridgeShares e (bs.map (phWeight img)))
  bs.map (fun b => ⟨phWeight img b, phPrio img b, dealt.getD b []⟩)

/-! ### Refusals entry by entry -/

/-- A group that is open at a point of the image: its ridge set (a branch, or 0xFF), its slot, the entry that opened it, and what its close will convert. -/
structure OpenedGroup where
  branch : Nat
  slot : Nat
  entry : Nat
  fmt : Nat
  kind : Nat
  rows : Nat
  cols : Nat
  skims : Bool
  deriving DecidableEq, Repr, Inhabited

/-- What the entries so far leave behind: the entries that completion of a fence group of a branch shows complete (as a mask), the newest setter of each condition bit and whether it is an agreement, the barriers, the open groups, the
group IDs used and whether by step-level entries, the lookups, the tables applied, the tags updated, the entries that convert with the blocks of their ACT_GRAD MX output, and the entries themselves. -/
structure PlanScan where
  covers : List ((Nat × Nat) × Nat)
  setters : List (Nat × (Nat × Bool))
  barriers : List Nat
  opened : List OpenedGroup
  groupIds : List (Nat × Bool)
  lookups : List (Nat × Nat)
  applied : List Nat
  tags : List Nat
  convs : List (Nat × Option Nat)
  entries : List PlanEntry
  deriving DecidableEq, Repr, Inhabited

/-- The earlier entries that must have completed before an entry starts, as a mask: those of its waits and those that they waited for. -/
def PlanScan.covered (sc : PlanScan) (e : PlanEntry) : Nat :=
  (seenBranches e.branch).foldl (fun m b => (waitGroups e).foldl (fun m g => m ||| assocGet sc.covers (b, g) 0) m) 0

/-- The opcodes that name a group (R137, R253). -/
def namesGroup (op : Nat) : Bool := groupOp op || op == 0x3004

/-- The group is open at this point. -/
def PlanScan.group? (sc : PlanScan) (branch slot : Nat) : Option OpenedGroup := sc.opened.find? (fun g => g.branch == branch && g.slot == slot)

/-- The condition bits that an entry writes, each with whether an agreement wrote it: those of an agreement's mask, and its SET bit. -/
def setsBits (e : PlanEntry) : List (Nat × Bool) :=
  let agree := opcodeOf e.pkt == 0xF021
  (if agree then (bitsSet (field e.pkt 32 8) 64).map (fun b => (b, true)) else []) ++ (match e.set with
    | some b => [(b, agree)]
    | none => [])

/-- The opcodes that no plan may hold: SYS, CFG, HEALTH, CTX, SEC, TELEM, the plan commands, STEP.RUN (R62, R475), pair loads and clears and the seed (R212), UPDATE other than UPDATE.RUN (R322). -/
def neverInPlan (op : Nat) : Bool :=
  [0, 1, 0xB, 0xC, 0xD, 0xE].contains (familyOf op) || [0xF001, 0xF002, 0xF010, 0x4110, 0x4111, 0x4200].contains op || (familyOf op == 7 && op != 0x7010)

/-- The skip of an entry breaks R62: its bit has no earlier setter, or none that the waits cover, or one that is not an agreement where other chips wait for the entry. -/
def PlanScan.skipBad (sc : PlanScan) (e : PlanEntry) : Bool :=
  match e.skip with
  | none => false
  | some (_, bit) =>
    let op := opcodeOf e.pkt
    match sc.setters.find? (fun x => x.1 == bit) with
    | none => true
    | some (_, setter, agree) =>
      !(sc.covered e).testBit setter || op == 0xF020 || (([2, 6, 8].contains (familyOf op) || op == 0xF021) && !agree)

/-- The group rules of R145 and R151 that an entry breaks. -/
def PlanScan.groupBad (sc : PlanScan) (e : PlanEntry) : Bool :=
  let p := e.pkt
  if !namesGroup (opcodeOf p) then false else
  let g := sc.group? e.branch (mGroup p)
  sc.groupIds.any (fun x => x.1 == mGroup p && x.2 != (e.branch == 0xFF))
    || (if opensGroup p then g.isSome else g.isNone)
    || (e.skip.isSome && (opensGroup p || closesGroup p))

/-- The rules of the embedding tables (R297), of the function pairs (R212) and of the update engine (R322) that an entry breaks. -/
def PlanScan.unitBad (s : State) (sc : PlanScan) (p : List Byte) : Bool :=
  let op := opcodeOf p
  let table := field p 32 1
  let after := sc.barriers.contains 0
  if op = 0x6010 then after || sc.lookups.contains (table, lkId p)
  else if op = 0x6011 then after || !sc.lookups.contains (table, field p 33 1)
  else if op = 0x6020 then !after || sc.applied.contains table
  else if familyOf op = 4 then s.namesEmptyPair p
  else if op = 0x7010 then sc.tags.contains (field p 32 2) || (s.dshard? (field p 32 2)).isNone
  else false

/-- A rule for which PLAN.LOAD refuses the image is broken by this entry. -/
def PlanScan.refuses (s : State) (sc : PlanScan) (e : PlanEntry) : Bool :=
  let op := opcodeOf e.pkt
  neverInPlan op || ((op == 0xF020 || op == 0xF021) && e.branch != 0xFF) || sc.skipBad e || (op == 0xF020 && (e.skip.isSome || sc.barriers.contains (field e.pkt 32 1)))
    || sc.groupBad e || sc.unitBad s e.pkt

/-- The blocks of a tensor of Square scales (R181). -/
def squareBlocks (rows cols : Nat) : Nat := ceilDiv rows 32 * ceilDiv cols 32

/-- A conversion to a format of a kind: counted for MX, BF16 and FP16 (R192), with its blocks where ACT_GRAD goes to an MX format (R184). -/
def conversion (fmt kind blocks : Nat) : Option (Option Nat) :=
  if fmt = 0 ∨ 7 < fmt then none else some (if kind = 4 ∧ isMx fmt then some blocks else none)

/-- What an entry converts, if it does. -/
def State.converts (s : State) (sc : PlanScan) (e : PlanEntry) : Option (Option Nat) :=
  let p := e.pkt
  let op := opcodeOf p
  if [0x4001, 0x4020, 0x4021, 0x4030, 0x4040, 0x4050, 0x4051, 0x4100, 0x4101].contains op then conversion (vOutFmt p) (vKind p) (squareBlocks (vRows p) (vCols p))
  else if op = 0x5010 then conversion (skOutFmt p) (skKind p) (ceilDiv (skRows p) 16 * ceilDiv (skCols p) 16)
  else if op = 0x8010 ∨ op = 0x8011 ∨ op = 0x8012 then
    if cIn p = 3 then none else conversion (cFmt p) (cKind p) (squareBlocks (s.outTensor p).rows (s.outTensor p).cols)
  else if op = 0x6020 then (match s.etable? (field p 32 1) with
    | some t => if t.dtype = 0 then none else some none
    | none => none)
  else if op = 0x7010 then (if s.num.wideState then none else some none)
  else if opensGroup p && closesGroup p then
    conversion (mOutFmt p) (mOutKind p) (if mOutCurd p then ceilDiv (mM p) 16 * ceilDiv (mN p) 16 else squareBlocks (mM p) (mN p))
  else if closesGroup p then (match sc.group? e.branch (mGroup p) with
    | some g => conversion g.fmt g.kind (if g.skims then ceilDiv g.rows 16 * ceilDiv g.cols 16 else squareBlocks g.rows g.cols)
    | none => none)
  else none

/-- The scan after entry i. -/
def PlanScan.after (s : State) (sc : PlanScan) (i : Nat) (e : PlanEntry) : PlanScan :=
  let p := e.pkt
  let op := opcodeOf p
  let key := (e.branch, e.doneGroup)
  let opened := if opensGroup p then sc.opened ++ [⟨e.branch, mGroup p, i, mOutFmt p, mOutKind p, mM p, mN p, mOutCurd p⟩] else sc.opened
  { covers := assocSet sc.covers key (assocGet sc.covers key 0 ||| 2 ^ i ||| sc.covered e)
    setters := (setsBits e).foldl (fun xs b => assocSet xs b.1 (i, b.2)) sc.setters
    barriers := if op = 0xF020 then field p 32 1 :: sc.barriers else sc.barriers
    opened := if freesGroup p then opened.filter (fun g => g.branch != e.branch || g.slot != mGroup p) else opened
    groupIds := if namesGroup op then (mGroup p, e.branch == 0xFF) :: sc.groupIds else sc.groupIds
    lookups := if op = 0x6010 then (field p 32 1, lkId p) :: sc.lookups else sc.lookups
    applied := if op = 0x6020 then field p 32 1 :: sc.applied else sc.applied
    tags := if op = 0x7010 then field p 32 2 :: sc.tags else sc.tags
    convs := match s.converts sc e with
      | some k => sc.convs ++ [(i, k)]
      | none => sc.convs
    entries := sc.entries ++ [e] }

/-- The entry of an entry word and its packet (R56). -/
def planEntryAt (w pkt : List Byte) : PlanEntry :=
  let skip := field w 4 1
  let set := field w 5 1
  ⟨field w 0 1, field w 1 1 % 16, BitVec.ofNat 16 (field w 2 2), if bitAt skip 7 then some (bitAt skip 6, skip % 64) else none, if bitAt set 7 then some (set % 64) else none, decide (field w 6 1 = 1), pkt⟩

/-- A refusal of the image at an entry: BAD_PARAM at the address field of PLAN.LOAD, unless the entry's own packet fails a check. -/
def planRefusal : Result := badParam 0 32

/-- An entry word and the packet after it, when they are as R56 states and lie in the image. -/
def cutEntry (nb : Nat) (rest : List Byte) : Option (PlanEntry × List Byte) :=
  let w := rest.take 16
  let n := field w 8 4
  let pkt := (rest.drop 16).take n
  if w.length = 16 ∧ 64 ≤ n ∧ pkt.length = n ∧ n = 64 + pktParamLength pkt ∧ (field w 0 1 < nb ∨ field w 0 1 = 0xFF) ∧ field w 6 1 ≤ 1
  then some (planEntryAt w pkt, rest.drop (16 + n)) else none

/-- The checks of R46 that an entry's packet alone decides. -/
def packetRefusal (p : List Byte) : Option Result :=
  match precheck false p with
  | .inl r => some r
  | .inr i => i.staticCheck p

/-- The entries of an image from entry i on, n of them: the first refusal with its entry, or the scan after the last. -/
def scanEntries (s : State) (nb : Nat) : Nat → Nat → List Byte → PlanScan → (Nat × Result) ⊕ PlanScan
  | 0, _, _, sc => .inr sc
  | n + 1, i, rest, sc =>
    match cutEntry nb rest with
    | none => .inl (i, planRefusal)
    | some (e, rest') =>
      match packetRefusal e.pkt with
      | some r => .inl (i, r)
      | none => if sc.refuses s e then .inl (i, planRefusal) else scanEntries s nb n (i + 1) rest' (sc.after s i e)

/-- An image's entries, or its refusal: a group that stays open refuses the entry that opened it (R151). -/
def State.scanImage (s : State) (img : List Byte) : (Nat × Result) ⊕ PlanScan :=
  match scanEntries s (phBranches img) (phEntries img) 0 (img.drop 64) default with
  | .inl r => .inl r
  | .inr sc =>
    match sc.opened with
    | [] => .inr sc
    | g :: _ => .inl (g.entry, planRefusal)

/-! ### Counter sets and histories -/

/-- The counter sets without those of a plan ID; the two shared sets stay (R192). -/
def dropSets (id : Nat) (xs : List CounterSet) : List CounterSet := xs.filter (fun x => x.plan != id)

/-- Counter sets assigned in image order while fewer than 4,096 are in use. -/
def assignSets (id : Nat) (convs : List (Nat × Option Nat)) (xs : List CounterSet) : List CounterSet :=
  let free := 4096 - (xs.filter (fun x => decide (x.plan < 64))).length
  xs ++ (convs.take free).map (fun c => ⟨id, c.1, 0, 0, 0⟩)

/-- Bytes of the scale pool that the history of a tensor of some blocks takes (R184). -/
def historyBytes (blocks : Nat) : Nat := 64 + 16 * blocks

/-- The entries that get a history in image order until the pool is exhausted, and how many are left without: each with its bytes. -/
def assignHistories (room : Nat) : List (Nat × Nat) → List (Nat × Nat) × Nat
  | [] => ([], 0)
  | c :: cs =>
    if historyBytes c.2 ≤ room then let r := assignHistories (room - historyBytes c.2) cs; (c :: r.1, r.2)
    else ([], cs.length + 1)

/-- Numerics as the load of an image leaves them: the old sets and histories of the ID go, the entries that convert get theirs, and how many stay without a history. -/
def State.loadNumerics (s : State) (id : Nat) (convs : List (Nat × Option Nat)) : Numerics × Nat :=
  let n := s.num
  let kept := n.histories.filter (fun h => h.plan != id)
  let used := kept.foldl (fun u h => u + historyBytes h.blocks) 0
  let asked := convs.filterMap (fun c => c.2.map (fun b => (c.1, b)))
  let got := assignHistories (n.poolSize - used) asked
  ({ n with sets := assignSets id convs (dropSets id n.sets), histories := kept ++ got.1.map (fun c => ⟨id, c.1, c.2, []⟩) }, got.2)

/-! ### PLAN.LOAD, PLAN.UNLOAD -/

/-- The plan ID belongs to the running step. -/
def State.planRunning (s : State) (id : Nat) : Bool :=
  match s.plans.step with
  | some st => st.plan.id == id
  | none => false

/-- Bytes of images of other plan IDs in the plan store. -/
def State.storeUsed (s : State) (id : Nat) : Nat := ((s.plans.store.filter (fun p => p.id != id)).map (·.length)).foldl (· + ·) 0

/-- The plan of a checked image. -/
def planOf (id : Nat) (img : List Byte) (e : Nat) (es : List PlanEntry) : Plan := ⟨id, img.length, sha3 img, phDeadline img, branchesOf img e, es⟩

/-- The image installed in place of what its ID held (R64), measured into slot 5 (R536). -/
def State.installPlan (s : State) (id : Nat) (img : List Byte) (sc : PlanScan) : State × Result :=
  let n := s.loadNumerics id sc.convs
  let store := s.plans.store.filter (fun p => p.id != id) ++ [planOf id img s.E sc.entries]
  let s1 := { s with num := n.1, plans := { s.plans with store := store } }
  (s1.extendSlot 5 img, { resIndex sc.entries.length with detail := detailOf 0 (min n.2 0xFFFF) })

/-- The checks of the image come before those of the store and of the running step (R46); a header that fails names no entry, and INDEX is then a free value. -/
def effectPlanLoad (s : State) (c : Ctx) : State × Option Result :=
  let id := c.f 44 1
  let rr := s.read (c.f 32 8) (c.f 40 4)
  let s1 := s.noteRead 0 (c.f 32 8) (c.f 40 4)
  match readStatus rr with
  | some r => (s1, some r)
  | none =>
    if !headerOk rr.data s.E then
      let d := s1.draw
      (d.2, some { planRefusal with index := Config.freeWord d.1 0 })
    else match s.scanImage rr.data with
      | .inl (i, r) => (s1, some { r with index := BitVec.ofNat 32 i })
      | .inr sc =>
        if 32 * 2 ^ 20 < s.storeUsed id + rr.data.length then (s1, some (resStatus stNoResource))
        else if s.planRunning id then (s1, some (resStatus stBusy))
        else let r := s1.installPlan id rr.data sc; (r.1, some r.2)

/-- PLAN.LOAD (R64). -/
def execPlanLoad (id : Nat) (s : State) : Out State := .next (s.settle (s.runCmd planLoadInfo id effectPlanLoad))

/-- The plan of an ID gone, with its counter sets and histories (R184, R192). -/
def State.dropPlan (s : State) (id : Nat) : State :=
  { s with
    plans := { s.plans with store := s.plans.store.filter (fun p => p.id != id) }
    num := { s.num with sets := dropSets id s.num.sets, histories := s.num.histories.filter (fun h => h.plan != id) } }

def effectPlanUnload (s : State) (c : Ctx) : State × Option Result :=
  if s.planRunning (c.f 32 1) then (s, some (resStatus stBusy)) else (s.dropPlan (c.f 32 1), some resOK)

/-- PLAN.UNLOAD (R67): no effect when the ID holds no plan. -/
def execPlanUnload (id : Nat) (s : State) : Out State := .next (s.settle (s.runCmd planUnloadInfo id effectPlanUnload))

end Sys2Proof.Machine
end

