-- ==== Sys2Proof/Machine/StepUnit.lean ====
section
/-! DEFINITION. Steps: STEP.RUN and the begin of a step (R65, R105, R152), plan entries (R57 to R60, R66), barriers and agreements (R19, R61, R63, R380), the step boundary, and the deadlines of barriers and steps (R21, R52). -/
namespace Sys2Proof.Machine

/-! ### STEP.RUN -/

/-- The request waits for its step; a parked chip refuses it (R65, R568). -/
def effectStepRun (s : State) (c : Ctx) : State × Option Result :=
  if !s.plans.store.any (fun p => p.id == c.f 32 1) then (s, some (badParam 0 32))
  else if !s.jobReady then (s, some (badParam 0x73 0))
  else if s.host.parked then (s, some parkedResult)
  else (s, none)

/-- STEP.RUN (R65). -/
def execStepRun (id : Nat) (s : State) : Out State := .next (s.settle (s.runCmd stepRunInfo id effectStepRun))

/-- The first STEP.RUN whose step has not begun: steps do not overlap, so it waits for the boundary of the one before (R20). -/
def State.waitingRun (s : State) : Option Cmd :=
  (s.queues.cmds.filter (fun c => c.stage.isRunning && opcodeOf c.pkt == 0xF010 && s.plans.step.all (fun st => st.cmd != c.id))).foldl (fun (a : Option Cmd) c => match a with
    | some b => if c.id < b.id then some c else some b
    | none => some c) none

/-- A directly submitted command that a running step defers (R47, R478). -/
def defers (p : List Byte) : Bool :=
  let op := opcodeOf p
  (decide (2 ≤ familyOf op) && decide (familyOf op ≤ 9) && op != 0x8001) || (op == healthTestInfo.code && intrusive (testCode p))

/-- A command that was deferred, or that came between steps, has still to start before the next step begins (R47). -/
def State.startsFirst (s : State) (c : Cmd) : Bool :=
  match c.stage with
  | .deferred => true
  | .taken => c.entry?.isNone && defers c.pkt && s.fenceMet c
  | .waking => c.entry?.isNone
  | _ => false

/-- The shards on which a plan samples weighted edges without STALE_OK (R105). -/
def Plan.freshShards (p : Plan) : List Nat :=
  p.entries.filterMap (fun e => if opcodeOf e.pkt = 0x2010 ∧ (hopSpec e.pkt).kind = 1 ∧ !(hopSpec e.pkt).staleOk then some (hopSpec e.pkt).shard else none)

/-- The shards of those that are stale here. -/
def State.staleFor (s : State) (p : Plan) : List Shard := p.freshShards.filterMap (fun i => (s.shard? i).bind (fun x => if x.stale then some x else none))

/-- Whether a step may begin now: its STEP.RUN ends instead, or waits, or the step begins (R65, R105, R152, R326, R474, R478). -/
inductive BeginVerdict where
  | ends (r : Result)
  | waits
  | goes (p : Plan)
  deriving DecidableEq, Repr

/-- The checks in order. -/
def State.mayBegin (s : State) (c : Cmd) : BeginVerdict :=
  match s.plans.store.find? (fun p => p.id == field c.pkt 32 1) with
  | none => .ends (badParam 0 32)
  | some p =>
    if pktTag c.pkt ≠ s.plans.stepNo.toNat ∨ !s.countersAgree then .ends (resStatus stStepMismatch)
    else if !s.jobReady then .ends (badParam 0x73 0)
    else if !s.matrix.groups.isEmpty then .ends (resStatus stBusy)
    else if (s.staleFor p).any Shard.rebuildFailed then .ends (resStatus stUncorrected)
    else if !(s.staleFor p).isEmpty || !s.mem.copying.isEmpty || s.health.testing.any (fun t => intrusive t.2.1) then .waits
    else .goes p

/-- The step begins: hyperparameter records are read (R311), notices of rows that came leave (R304), held-back refreshes are sent (R301), collectives count from 0 (R376). -/
def State.beginStep (s : State) (c : Cmd) (p : Plan) : State :=
  let st : StepRun := ⟨c.id, p, s.stepDeadlineOf p c.pkt, p.entries.map (fun _ => .waiting), 0, 0, 0, none, false, false, s.latchHyper⟩
  let s1 := { s with plans := { s.plans with step := some st }, coll := { s.coll with nextId := [] } }
  let s2 := s1.sendNotices
  if s2.embed.policy.oneStale then s2.refreshAll else s2

/-- STEP_BEGIN. -/
def execStepBegin (s : State) : Out State :=
  .next (s.settle (
    if s.stepRunning || s.isHalted || s.queues.cmds.any s.startsFirst then s else
    match s.waitingRun with
    | none => s
    | some c =>
      match s.mayBegin c with
      | .ends r => s.endCmd c.id r
      | .waits => s
      | .goes p => s.beginStep c p))

/-! ### Plan entries -/

/-- The state of the running step changed. -/
def State.updStep (s : State) (f : StepRun → StepRun) : State := { s with plans := { s.plans with step := s.plans.step.map f } }

/-- A condition bit written. -/
def writeCond (cond : W64) (bit : Option Nat) (v : Bool) : W64 :=
  match bit with
  | none => cond
  | some b => if v then cond ||| (1 <<< b : W64) else cond &&& ~~~(1 <<< b : W64)

/-- A saturating count one higher. -/
def up16 (n : W16) : W16 := satAdd16 n 1

/-- The entry is skipped (R59). -/
def StepRun.skips? (st : StepRun) (e : PlanEntry) : Bool :=
  match e.skip with
  | none => false
  | some (pol, bit) => st.cond.getLsbD bit == pol

/-- A skipped entry completes at once with OK: its condition bit, if it sets one, becomes 0 (R58, R59). -/
def StepRun.skip (st : StepRun) (i : Nat) : StepRun :=
  { st with entries := st.entries.set i .done, skips := up16 st.skips, cond := writeCond st.cond (st.entry i).set false }

/-- The command of an entry enters execution. -/
def State.issueEntry (s : State) (i : Nat) (pkt : List Byte) : State :=
  let id := s.queues.nextId
  let c : Cmd := ⟨id, .plan i, pkt, .taken, 0⟩
  let s1 := { s with queues := { s.queues with nextId := id + 1, cmds := s.queues.cmds ++ [c] } }
  s1.updStep (fun st => { st with entries := st.entries.set i (.running id) })

/-- PLAN_ENTRY_START (R18, R57, R59). -/
def execPlanEntryStart (entry : Nat) (s : State) : Out State :=
  .next (s.settle (match s.plans.step with
    | none => s
    | some st =>
      if st.entries.length ≤ entry || st.entryState entry != .waiting || !st.waitsMet entry || !st.turn entry || !st.stageMet entry then s
      else if st.skips? (st.entry entry) then s.updStep (fun st => st.skip entry)
      else s.issueEntry entry (st.entry entry).pkt))

/-- The code that an outcome notes: that of OK_NOTE, or the failure that an entry with ON_FAIL 1 may note (R60, R66). -/
def noteOf (e : PlanEntry) (r : Result) : Option Byte :=
  if r.status = stNote then some r.note
  else if e.noted && (r.status == stOverfull || r.status == stIndexRange || r.status == stPoisoned) then some r.status
  else none

/-- The step after an entry that completed with OK or was noted (R58, R66). -/
def StepRun.complete (st : StepRun) (i : Nat) (note : Option Byte) : StepRun :=
  { st with
    entries := st.entries.set i .done
    cond := writeCond st.cond (st.entry i).set note.isSome
    notes := if note.isSome then up16 st.notes else st.notes
    firstNote := st.firstNote.or (note.map (fun n => (n, i))) }

/-- A command leaves the list of those in flight. -/
def State.dropCmd (s : State) (id : Nat) : State := { s with queues := { s.queues with cmds := s.queues.cmds.filter (fun c => c.id != id) } }

/-- PLAN_ENTRY_COMPLETE (R49, R50, R58, R60): a fatal outcome ends the step and raises the wave. -/
def execPlanEntryComplete (entry : Nat) (s : State) : Out State :=
  .next (s.settle (match s.plans.step with
    | none => s
    | some st =>
      match st.entryState entry with
      | .running id =>
        (match (s.cmd? id).map (fun (c : Cmd) => c.stage) with
        | some (Stage.ended r) =>
          let note := noteOf (st.entry entry) r
          if r.failed && note.isNone then s.failStep r (some entry) 0x01
          else (s.dropCmd id).updStep (fun st => st.complete entry note)
        | _ => s)
      | _ => s))

/-! ### PLAN.BARRIER, PLAN.AGREE -/

/-- An entry's command waits while the chip is at another barrier. -/
def State.barrierHeld (s : State) (id : Nat) : Bool := s.plans.barrier.isSome && (match s.cmd? id with
  | some c => c.entry?.isSome
  | none => false)

/-- The chip reaches a barrier by a plan entry. -/
def State.atBarrier (s : State) (kind id : Nat) (mask : W64) : State := { s with plans := { s.plans with barrier := some (s.newBarrier kind (some id) mask) } }

/-- At the scatter barrier the pre-merges of replicas leave, and what waits in batches (R126, R300). -/
def effectPlanBarrier (s : State) (c : Ctx) : State × Option Result :=
  if c.f 32 1 = 0 then
    let k := s.sendPremerges
    let s1 := k.1.sendBatches (fun _ => true)
    ((s1.atBarrier 0 c.id 0).awaitScatter ⟨c.id, [], [], k.2, false, none⟩, none)
  else (s.atBarrier 1 c.id 0, none)

/-- PLAN.BARRIER (R63). -/
def execPlanBarrier (id : Nat) (s : State) : Out State :=
  .next (s.settle (if s.barrierHeld id then s else s.runCmd planBarrierInfo id effectPlanBarrier))

/-- The condition bits of the running step. -/
def State.condBits (s : State) : W64 :=
  match s.plans.step with
  | some st => st.cond
  | none => 0

def effectPlanAgree (s : State) (c : Ctx) : State × Option Result :=
  (s.atBarrier 3 c.id (s.condBits &&& BitVec.ofNat 64 (c.f 32 8)), none)

/-- PLAN.AGREE (R61). -/
def execPlanAgree (id : Nat) (s : State) : Out State :=
  .next (s.settle (if s.barrierHeld id then s else s.runCmd planAgreeInfo id effectPlanAgree))

/-- The command of a barrier that has passed ends with OK, and the chip is at no barrier. -/
def State.leaveBarrier (s : State) (b : Barrier) : State :=
  let s1 := { s with plans := { s.plans with barrier := none } }
  match b.cmd with
  | some id => s1.endCmd id resOK
  | none => s1

/-- The barrier of a kind, once it has passed. -/
def State.passed? (s : State) (kind : Nat) : Option Barrier := s.plans.barrier.filter (fun b => b.passed && b.kind == kind)

/-- SCATTER_BARRIER_PASS (R19): the merge logs are put in order for the row updates (R292). -/
def execScatterBarrierPass (s : State) : Out State :=
  .next (s.settle (match s.passed? 0 with
    | none => s
    | some b => (((s.updStep (fun st => { st with scatterPassed := true })).leaveBarrier b).sortMerge)))

/-- UPDATE_BARRIER_PASS (R19): replicas and migrations are decided, the refresh follows (R299, R301, R303), and the monitor's sums leave (R196). -/
def execUpdateBarrierPass (s : State) : Out State :=
  .next (s.settle (match s.passed? 1 with
    | none => s
    | some b => (((s.updStep (fun st => { st with updatePassed := true })).leaveBarrier b).decideReplicas.chooseMigrations).refreshDue.sendSums))

/-- BARRIER_FLAG_RECEIVE (R380, R381): a flag of a barrier that the chip has not reached is kept; waited is what the chip has waited if the flag lets the barrier pass (R385). -/
def execBarrierFlagReceive (f : Flag) (waited : Nat) (s : State) : Out State :=
  .next (s.settle (
    if s.isHalted then s else
    match s.plans.barrier with
    | none => { s with plans := { s.plans with earlyFlags := s.plans.earlyFlags ++ [f] } }
    | some b =>
      if b.passed then { s with plans := { s.plans with earlyFlags := s.plans.earlyFlags ++ [f] } } else
      let s1 := (s.takeFlag f).climb
      match s1.plans.barrier with
      | some b1 => if b1.passed then s1.addWait (min b.kind 3) waited else s1
      | none => s1))

/-! ### Deadlines -/

/-- A barrier wait misses its deadline (R21): a fatal fault. -/
def State.barrierTimeout (s : State) : State :=
  match s.plans.barrier with
  | none => s
  | some b =>
    if b.passed then s
    else if b.cmd.isSome then s.failStep (resStatus stTimeout) (s.barrierEntry b) 0x02
    else s.raiseWave 0x02 stTimeout

/-- The deadline of a PLAN.BARRIER or PLAN.AGREE entry passes while it awaits its barrier, or waits behind another one: the fatal fault of R21 (R68). -/
def State.entryBarrierTimeout (s : State) (c : Cmd) : State :=
  if !c.stage.live || s.plans.barrier.any (fun b => b.cmd == some c.id && b.passed) then s
  else s.failStep (resStatus stTimeout) c.entry? 0x02

/-- BARRIER_DEADLINE. -/
def execBarrierDeadline (s : State) : Out State := .next (s.settle s.barrierTimeout)

/-! ### The step boundary -/

/-- The step summary record (R483): times under each cause and the mean bubble share are free values. -/
def State.stepSummary (s : State) : State :=
  let d := s.draw
  let w (i : Nat) : List Byte := toLE 4 (Config.freeWord d.1 i).toNat
  d.2.telem 2 65 0 0 (w 0 ++ s.halt.stepWaits.flatMap (fun n => toLE 4 n.toNat) ++ [s.halt.topTag] ++ (w 8).take 1 ++ toLE 2 s.halt.slowRank.toNat ++ (List.range 7).flatMap (fun i => w (i + 1)) ++ zeros 8)

/-- What waited for the boundary in the units (R104, R190, R191, R200, R219, R302, R333, R401, R406, R479). -/
def State.boundarySettings (s : State) : State :=
  let ended := s.plans.stepNo
  let s1 := s.monitorBoundary ended
  let s2 := { s1 with
    num := s1.num.atBoundary
    vec := { s1.vec with seed := s1.vec.pendingSeed.getD s1.vec.seed, pendingSeed := none }
    gddr := { s1.gddr with weights := s1.gddr.pendingWeights.getD s1.gddr.weights, pendingWeights := none }
    health := { s1.health with recopy := [] } }
  let s3 := s2.linkBoundary.embedBoundary ended
  (s3.gddr.ports.filter (·.retrainPending)).foldl (fun s p => s.startRetrain p.num 0) s3

/-- The step is over: its counters go up, rebuilt alias tables become current, and the requests that owners hold are judged again (R96, R104, R325). -/
def State.afterStep (s : State) : State :=
  let s1 := { s with
    plans := { s.plans with step := none, barrier := none }
    halt := { s.halt with stepWaits := [0, 0, 0, 0, 0], topTag := 0 }
    coll := { s.coll with nextId := [] } }
  let s2 := s1.countersUp
  let s3 := s2.swapFinished
  s3.retakeExpansions.retakeRows.retakeLookups

/-- OK, or OK_NOTE with the first note (R66). -/
def StepRun.outcome (st : StepRun) : Result :=
  st.result (match st.firstNote with
    | some n => { resStatus stNote with note := n.1 }
    | none => resOK) none

/-- STEP_BOUNDARY (R19, R63, R66). -/
def execStepBoundary (s : State) : Out State :=
  .next (s.settle (match s.plans.step, s.passed? 2 with
    | some st, some _ => (s.boundarySettings.stepSummary.afterStep).setStage st.cmd (.ended st.outcome)
    | _, _ => s))

end Sys2Proof.Machine
end

