-- ==== Sys2Proof/Machine/Take.lean ====
section
/-! DEFINITION. The life of a directly submitted command: doorbells (R35, R36), the turn of the queues and the taking of packets (R37, R40, R44 to R48), deferral (R47), replies (R32, R33, R38, R41), and deadlines (R51, R52). -/
namespace Sys2Proof.Machine

/-! ### Doorbells -/

/-- HST_QUEUE_ERR takes an error of a queue. -/
def State.queueErr (s : State) (q : Nat) (f : QueueErr → QueueErr) : State :=
  { s with queues := { s.queues with err := { f s.queues.err with lastQ := BitVec.ofNat 6 q } } }

/-- A queue position counted over two laps of the ring: its unit and its wrap state. -/
def SubQueue.lap (q : SubQueue) (unit : Nat) (wrap : Bool) : Nat := unit + (if wrap then q.units else 0)

/-- A doorbell moves the tail, or is ignored with an error bit (R35, R36): no such queue, a tail beyond the ring, or a tail behind the head. -/
def doorbell (q : Nat) (value : W32) (s : State) : State :=
  let tail := value.toNat % 2 ^ 16
  let wrap := value.getLsbD 16
  match s.sub? q with
  | none => s.queueErr q (fun e => { e with dbNoq := true })
  | some x =>
    if x.units ≤ tail then s.queueErr q (fun e => { e with dbRange := true })
    else if x.units < (x.lap tail wrap + 2 * x.units - x.lap x.head x.headWrap) % (2 * x.units) then s.queueErr q (fun e => { e with dbBack := true })
    else s.updSub q (fun y => { y with tail := tail, tailWrap := wrap })

/-- HST_SQ_DOORBELL. -/
def execHstSqDoorbell (q : Nat) (value : W32) (s : State) : Out State := .next (s.settle (s.bar (fun s => if q < 64 then doorbell q value s else s)))

/-! ### The turn of the queues (R44) -/

/-- The packet would be deferred now, so that an interim reply comes before its final one (R33, R47). -/
def State.willDefer (s : State) (p : List Byte) : Bool := s.stepRunning && defers p && !flagNoDefer p

/-- Slots that a packet's replies need. -/
def State.slotsFor (s : State) (p : List Byte) : Nat := if s.willDefer p then 2 else 1

/-- The packet that may be taken from a queue now: whole, with room for its replies, from a queue that is not being deleted (R35, R40, R43). -/
def State.takeable (s : State) (q : Nat) : Option (List Byte) :=
  match s.sub? q with
  | none => none
  | some x =>
    if x.deleting.isSome then none else
    match s.headPacket x with
    | none => none
    | some p =>
      match s.resp? (s.replyQueue p) with
      | some r => if s.slotsFor p ≤ r.room then some p else none
      | none => none

/-- The order of a turn: queue 0, then from the queue after the one that the turn before served last. -/
def turnOrder (base : Nat) : List Nat := 0 :: (List.range 63).map (fun k => (base + k) % 63 + 1)

/-- The place in a turn of the next queue with a packet to take. -/
def State.nextPlace (s : State) (base pos : Nat) : Option Nat := (List.range 64).find? (fun i => decide (pos ≤ i) && (s.takeable ((turnOrder base).getD i 0)).isSome)

/-- The base and the place of the queue to serve next: in this turn, or in a new one. -/
def State.nextTurn (s : State) : Option (Nat × Nat) :=
  match s.nextPlace s.queues.turnBase s.queues.turnPos with
  | some i => some (s.queues.turnBase, i)
  | none => (s.nextPlace s.queues.lastServed 0).map (fun i => (s.queues.lastServed, i))

/-! ### What becomes of a packet as it is taken -/

/-- The checks of REPLY_ADDRESS (R28, R420). -/
def State.replyBreaches (s : State) (p : List Byte) : List Breach :=
  let a := pktReplyAddress p
  if a = 0 then [] else bAlign (decide (a % 32 ≠ 0)) 16 :: (match s.rangeReason a 32 with
    | some r => [bParam true r 16]
    | none => [])

/-- Checks 5 to 7, with those of REPLY_ADDRESS. -/
def State.checksTo7 (s : State) (i : OpInfo) (c : Ctx) : Option Result :=
  firstBreach ((s.replyBreaches c.pkt ++ reservedBreaches i c.pkt ++ i.static c.pkt ++ i.dyn s c).filter (fun b => decide (b.order ≤ 14)))

/-- The families whose checks on the packet are made as it is taken, before its waits (R140, R253). -/
def productFamily (op : Nat) : Bool := familyOf op == 3 || familyOf op == 5

/-- The stage that a packet enters as it is taken: it ends at once when it fails checks 1 to 4, among them that its response queue exists (R37, R46), or those of its REPLY_ADDRESS, or comes to a halted chip
(R48); while a step runs it is checked and deferred, or refused under NODEFER (R47); a MATRIX or SPARSE packet that breaks a limit by itself ends now, with the lowest reason that it breaks (R140, R253). -/
def State.takenStage (s : State) (c : Ctx) : Stage :=
  let p := c.pkt
  match precheck (s.resp? (pktRespQueue p)).isNone p with
  | .inl r => .ended r
  | .inr i =>
    if (s.replyBreaches p).any (·.fails) then .ended ((s.checksTo7 i c).getD (badParam 0 16))
    else if s.isHalted && !haltServed (familyOf (opcodeOf p)) then .ended (resStatus stHalted)
    else if s.stepRunning && defers p then (match s.checksTo7 i c with
      | some r => .ended r
      | none => if flagNoDefer p then .ended (resStatus stBusy) else .deferred)
    else if productFamily (opcodeOf p) && (i.staticCheck p).isSome then .ended ((s.checksTo7 i c).getD (badParam 0 0))
    else .taken

/-- The stage with the INDEX that R32 gives a STEP.RUN. -/
def Stage.forPacket (st : Stage) (c : Cmd) : Stage :=
  match st with
  | .ended r => .ended (r.forCmd c)
  | x => x

/-- The interim reply of a deferred packet (R33, R47). -/
def State.interim (s : State) (c : Cmd) : State :=
  let r := replyOf c (resStatus stDeferred) 0
  (s.pushReply c.rq r).writeReplyAddress c.pkt r

/-- A packet is taken from the head of a queue: a reply slot is reserved, the head moves on, and the command is in flight. -/
def State.takeFrom (s : State) (q : Nat) (x : SubQueue) (p : List Byte) : State :=
  let n := p.length / 32
  let m := x.moved n
  let missing := (s.resp? (pktRespQueue p)).isNone
  let id := s.queues.nextId
  let c0 : Cmd := ⟨id, .queue q, p, .taken, s.replyQueue p⟩
  let c := { c0 with stage := (s.takenStage (s.ctxOf c0)).forPacket c0 }
  let s1 := (s.updSub q (fun y => { y with head := m.1, headWrap := m.2, lag := min (y.lag + n) y.units })).updResp (s.replyQueue p) (fun r => { r with reserved := r.reserved + 1 })
  let s2 := { s1 with queues := { s1.queues with nextId := id + 1, cmds := s1.queues.cmds ++ [c] } }
  let s3 := if missing then s2.queueErr (pktRespQueue p) (fun e => { e with rqMissing := true }) else s2
  if c.stage = .deferred then s3.interim c else s3

/-- TAKE_PACKET (R40, R44): the queue is the one whose turn it is. -/
def execTakePacket (q : Nat) (s : State) : Out State :=
  .next (s.settle (match s.nextTurn, s.sub? q, s.takeable q with
    | some (base, i), some x, some p =>
      if (turnOrder base).getD i 0 ≠ q then s
      else ({ s with queues := { s.queues with turnBase := base, turnPos := i + 1, lastServed := q } }).takeFrom q x p
    | _, _, _ => s))

/-- DEFERRED_START (R47): at the boundary a deferred command may start. -/
def execDeferredStart (id : Nat) (s : State) : Out State :=
  .next (s.settle (match s.cmd? id with
    | some c => if c.stage = .deferred ∧ !s.stepRunning then s.setStage id .taken else s
    | none => s))

/-! ### Replies -/

/-- The reply of a command of a queue is written to the response queue in which its slot was reserved, or freed when QUIET suppresses the reply (R29, R33). -/
def State.reply (s : State) (c : Cmd) (r : Result) (runTime : Nat) : State :=
  let q := c.rq
  let s1 := s.updResp q (fun x => { x with reserved := x.reserved - 1 })
  if flagQuiet c.pkt && r.status == stOK then s1 else
  let y := replyOf c r runTime
  (s1.pushReply q y).writeReplyAddress c.pkt y

/-- COMMAND_COMPLETE (R33). -/
def execCommandComplete (id runTime : Nat) (s : State) : Out State :=
  .next (s.settle (match s.cmd? id with
    | none => s
    | some c =>
      match c.src, c.stage with
      | .queue _, .ended r => ((s.reply c r runTime).dropCmd id).finishDeletes
      | _, _ => s))

/-- The completion of a host read. -/
def State.answerHost (s : State) (bs : List Byte) (ep : Bool) : State := { s with host := { s.host with resp := ⟨bs, ep, false, false⟩ } }

/-- The replies of a response queue after the oldest has been popped. -/
def RespQueue.popped (q : RespQueue) : RespQueue := { q with replies := q.replies.tail, sinceSignal := min q.sinceSignal (q.replies.length - 1) }

/-- A read of the pop window of a queue (R38): the oldest reply, removed; 32 bytes of zeros when there is none; zeros and POP_SIZE for any read but an aligned one of 32 bytes. -/
def popRead (q offset length : Nat) (s : State) : State :=
  if length ≠ 32 ∨ offset % 32 ≠ 0 then (s.queueErr q (fun e => { e with popSize := true })).answerHost (zeros length) false
  else match s.resp? q with
    | some x =>
      (match x.replies with
      | r :: _ => (s.updResp q RespQueue.popped).answerHost r.bytes false
      | [] => s.answerHost (zeros 32) false)
    | none => s.answerHost (zeros 32) false

/-- POP_REPLY. -/
def execPopReply (q offset length : Nat) (s : State) : Out State := .next (s.settle (s.bar (popRead q offset length)))

/-- A whole packet waits in a queue for want of response space. -/
def State.stalls (s : State) (q : Nat) : Bool :=
  match s.sub? q with
  | some x => x.deleting.isNone && (s.headPacket x).isSome && (s.takeable q).isNone
  | none => false

/-- RQ_STALL (R40): after 1 s the bit sets and vector 63 signals. -/
def execRqStall (q : Nat) (s : State) : Out State :=
  .next (s.settle (
    if s.stalls q then
      let s1 := if s.queues.err.any then s.signal 63 else s
      s1.queueErr q (fun e => { e with rqStall := true })
    else s))

/-- RESPONSE_COALESCE_TIMER (R41): some waiting reply has not been signalled for the coalescing time. -/
def execResponseCoalesceTimer (q : Nat) (s : State) : Out State :=
  .next (s.settle (match s.resp? q with
    | some x => if x.irq && decide (q < 63) && !x.replies.isEmpty && decide (x.sinceSignal ≠ 0) then (s.updResp q (fun y => { y with sinceSignal := 0 })).signal q else s
    | none => s))

/-! ### Deadlines of commands -/

/-- The outputs that a VEC command is stated to write. -/
def vecOuts (p : List Byte) : List (Nat × Nat) :=
  let save : Tensor := vOperand p 0 (vSave p)
  match opcodeOf p with
  | 0x4010 => [(vOut p, 4 * (if vSub p = 5 then vCols p else vRows p))]
  | 0x4020 => (vOutTensor p).ranges ++ [(vSave p, 8 * vRows p)]
  | 0x4040 => (vOut p, 4 * vRows p) :: ({ vOutTensor p with addr := vSave p } : Tensor).ranges
  | 0x4052 => (vTensor 0 (vRows p) (vCols p) (vOut p) .row 0).ranges
  | 0x4060 => (vTensor 0 (vRows p) (vK p) (vOut p) .row 0).ranges ++ (if vSave p = 0 then [] else save.ranges)
  | _ => (vOutTensor p).ranges

/-- The output ranges of the commands whose outputs are whole-form tensors, records or tables (R489), by opcode. -/
def State.outsOf (s : State) (p : List Byte) : List (Nat × Nat) :=
  let a := field p 40 8
  match opcodeOf p with
  | 0x1111 => [(a, ((s.numRecords (field p 32 1)).flatten).length)]
  | 0x1301 => [(a, 512)]
  | 0x1303 => [(a, 64 * (recentRecords s.flash.records (field p 32 1)).length)]
  | 0x2110 => [(gaOut p, s.gaOutBytes p)]
  | 0x2120 => s.agOuts p
  | 0x2121 => (agEntryGrad p, rowsBytes (s.agEntries p) (agOutPitch p) (4 * agElems p)) :: (if agAuxGrad p = 0 then [] else [(agAuxGrad p, s.agAuxBytes p)])
  | 0x2130 => scatterOuts p
  | 0x4112 => [(a, 8256)]
  | 0x5011 => (exTensor s p).ranges
  | 0x6010 => (match s.etable? (lkTable p) with
    | some t => s.lkOutRange t p :: (if lkSave p = 0 then [] else [lkSaveRange t p])
    | none => [])
  | 0x6020 => (match s.etable? (field p 32 1) with
    | some t => ((s.touched t).run 0).1.map (fun u => (u.addr, t.recordBytes))
    | none => [])
  | 0x7010 => (match s.dshard? (field p 32 2) with
    | some x => [(x.records, s.recBytes * x.elements)]
    | none => [])
  | 0x9001 => [(a, s.buildRecord.length)]
  | 0x9004 => [(a, ((s.memPort? (field p 32 1)).map (fun m => m.remapBytes.length)).getD 0)]
  | 0x9110 => [(field p 48 8, field p 56 8)]
  | 0x9111 => [(a, field p 48 8)]
  | 0x9120 => if atResult p = 0 then [] else [(atResult p, tyBytes (atTy p))]
  | 0xC001 => [(a, 8)]
  | 0xE002 => [(a, 3072)]
  | 0xD001 => [(a, s.certBytes.length)]
  | 0xD002 => [(a, 2784)]
  | 0xD020 => [(a, 32)]
  | op => if familyOf op = 4 ∧ op < 0x4110 then vecOuts p else []

/-- The outputs of a command poisoned (R489): ranges of device memory, the flags of path logs and curd tensors, the output of a group that the command closes. -/
def State.poisonOuts (s : State) (c : Ctx) : State :=
  let p := c.pkt
  let op := opcodeOf p
  if op = 0x2010 then s.writePoisonedLog (((s.hop? c.id).map (·.step)).getD s.step32) p
  else if op = 0x5010 then s.skimPoison (skJob p)
  else if familyOf op = 8 ∧ op ≠ 0x8001 then s.poisonColl p
  else if groupOp op then
    (match s.group? c.branch (mGroup p) with
    | some g => if closesGroup p then (s.freeGroup g).poisonGroupOut g else if op = 0x3003 then s.freeGroup g else s.updGroup g (fun h => { h with poisoned := true })
    | none =>
      if !opensGroup p then s
      else if closesGroup p then s.poisonGroupOut (s.newGroup c)
      else (s.openGroup c).updGroup (s.newGroup c) (fun h => { h with poisoned := true }))
  else s.poisonRanges 0 ((s.outsOf p).filter (fun r => decide (0 < r.2) && (s.rangeReason r.1 r.2).isNone))

/-- What a command keeps in other units is dropped: its hop, gather, scatter, collective, stream or test, and a queue deletion. -/
def State.dropWork (s : State) (id : Nat) : State :=
  { s with
    graph := { s.graph with hops := s.graph.hops.filter (fun h => h.cmd != id), gathers := s.graph.gathers.filter (fun g => g.cmd != id) }
    scatters := s.scatters.filter (fun x => x.cmd != id)
    coll := { s.coll with jobs := s.coll.jobs.filter (fun j => j.cmd != id) }
    streams := s.streams.filter (fun x => x.cmd != id)
    health := { s.health with testing := s.health.testing.filter (fun t => t.1 != id) }
    queues := { s.queues with subs := mapWhere (fun (q : SubQueue) => q.deleting == some id) (fun q => { q with deleting := none }) s.queues.subs } }

/-- The reply of a command that times out; that of one that closes a group tells of register mode (R162). -/
def State.timeoutResult (s : State) (c : Ctx) : Result :=
  let r := resStatus stTimeout
  if !closesGroup c.pkt then r else match s.group? c.branch (mGroup c.pkt) with
    | some g => g.failResult r
    | none => if opensGroup c.pkt then (s.newGroup c).failResult r else r

/-- A command ends with TIMEOUT, its outputs poisoned (R49, R153); for a directly submitted collective the wave is raised (R51). -/
def State.timeoutCmd (s : State) (c : Cmd) : State :=
  let s1 := ((s.poisonOuts (s.ctxOf c)).dropWork c.id).endCmd c.id (s.timeoutResult (s.ctxOf c))
  if familyOf (opcodeOf c.pkt) = 8 ∧ c.entry?.isNone then s1.raiseWave 0x03 stTimeout else s1

/-- The entries of a step that runs end with it: the outputs of those in execution are poisoned, and what they keep is dropped. -/
def State.abandonEntries (s : State) : State :=
  let cs := s.queues.cmds.filter (fun c => c.entry?.isSome)
  let s1 := cs.foldl (fun s c => if c.stage = .running ∨ c.stage = .waking then (s.poisonOuts (s.ctxOf c)).dropWork c.id else s) s
  { s1 with queues := { s1.queues with cmds := s1.queues.cmds.filter (fun c => c.entry?.isNone) }, matrix := { s1.matrix with groups := [] }, num := s1.num.sumsCleared }

/-- A step's deadline passes (R52): its STEP.RUN ends with TIMEOUT, which is not fatal (R51), and the step number does not change. No step runs then, so finished alias rebuilds become current (R104). -/
def State.stepTimeout (s : State) (st : StepRun) : State :=
  let s1 := s.abandonEntries
  (({ s1 with plans := { s1.plans with step := none, barrier := none }, out := { s1.out with batches := [] } }).setStage st.cmd (.ended (st.result (resStatus stTimeout) none))).swapFinished

/-- STEP_DEADLINE: of the running step, or of the STEP.RUN whose step waits to begin (R105). -/
def execStepDeadline (s : State) : Out State :=
  .next (s.settle (match s.plans.step with
    | some st => s.stepTimeout st
    | none =>
      match s.waitingRun with
      | some c => s.endCmd c.id (resStatus stTimeout)
      | none => s))

/-- A taken command has nothing left to wait for: its fence is met, and the group and the pair that it names are free for it (R29, R148, R212). -/
def State.mayStart (s : State) (c : Cmd) : Bool :=
  let op := opcodeOf c.pkt
  let pair := field c.pkt (if op = 0x4100 ∨ op = 0x4101 then 39 else 32) 1
  s.fenceMet c && !(groupOp op && s.groupWait c.id) && !([0x4100, 0x4101, 0x4110, 0x4111, 0x4112].contains op && s.pairWait c.id pair)
    && !([0x4110, 0x4111].contains op && s.pairInUse pair)

/-- COMMAND_DEADLINE (R51, R52): the command has started, or may. -/
def execCommandDeadline (id : Nat) (s : State) : Out State :=
  .next (s.settle (match s.cmd? id with
    | none => s
    | some c =>
      let op := opcodeOf c.pkt
      if op = 0xF010 then
        (if !c.stage.isRunning then s else match s.plans.step with
        | some st => if st.cmd = id then s.stepTimeout st else s.endCmd id (resStatus stTimeout)
        | none => s.endCmd id (resStatus stTimeout))
      else if (op == 0xF020 || op == 0xF021) && c.entry?.isSome then s.entryBarrierTimeout c
      else if c.stage = .running ∨ c.stage = .waking then s.timeoutCmd c
      else if c.stage = .taken ∧ s.mayStart c then
        (match ((opInfo? op).bind (fun i => i.check s (s.ctxOf c))).or (s.startFails (s.ctxOf c)) with
        | some r => s.endCmd id r
        | none => s.timeoutCmd c)
      else s))

end Sys2Proof.Machine
end

