-- ==== Sys2Proof/Machine/HostUnit.lean ====
section
/-! DEFINITION. The host, the board controller and the technician (R549 to R571): BAR0 registers read and written, BAR2 and the memory window, the mailbox, configuration requests, the management bus,
the service button and the LEDs. -/
namespace Sys2Proof.Machine

/-! ### BAR0: the value of each register -/

/-- HST_SERVICE and HST_HOST_ERR (R555). -/
def serviceWord (h : HostIf) : Nat := bnat h.locate * 16 + bnat h.attention * 8 + bnat h.parked * 4 + bnat h.park * 2 + bnat h.button
def hostErrWord (h : HostIf) : Nat := bnat h.mboxOverrun * 32 + bnat h.resetKey * 16 + bnat h.bar0Size * 8 + bnat h.winRange * 4 + bnat h.winUncorr * 2

/-- The registers of R526. -/
def State.bootStatusWord (s : State) : Nat :=
  let st := match s.boot.state with
    | .booting => 0
    | .ready => 1
    | .safe => 2
  st * 2 ^ 28 + s.boot.step * 2 ^ 24 + s.boot.fails % 4 * 2 ^ 22 + bnat s.boot.slot * 2 ^ 21 + bnat s.boot.trial * 2 ^ 20 + s.flash.retire.sticky.toNat % 1024
def State.bootDetailWord (s : State) : Nat := s.boot.outcome.toNat * 2 ^ 24 + s.boot.code.toNat * 2 ^ 16 + s.boot.ridgeCount % 256 * 2 ^ 8 + s.boot.portCount % 32

/-- A value reported late by a free amount (R39): how far behind it is, at most its lag. -/
def State.lateBy (s : State) (lag : Nat) : Nat := (Config.freeWord s.free 0).toNat % (lag + 1)

/-- HST_SQ_HEAD_q: the position that lies the given units behind the head. -/
def headWord (q : SubQueue) (behind : Nat) : Nat :=
  let p := (q.lap q.head q.headWrap + 2 * q.units - behind) % (2 * q.units)
  bnat (decide (q.units ≤ p)) * 2 ^ 16 + p % q.units

/-- HST_QUEUE_ERR (R36). -/
def queueErrWord (e : QueueErr) : Nat :=
  e.lastQ.toNat * 2 ^ 16 + bnat e.rqStall * 64 + bnat e.popSize * 32 + bnat e.dbBack * 16 + bnat e.dbRange * 8 + bnat e.dbNoq * 4 + bnat e.rqMissing * 2

/-- The queue registers (R36). -/
def State.queueReg (s : State) (off : Nat) : Nat :=
  if off < 0x1100 then 0
  else if off < 0x1200 then (match s.sub? ((off - 0x1100) / 4) with
    | some q => headWord q (s.lateBy q.lag)
    | none => 0)
  else if off < 0x1300 then (match s.resp? ((off - 0x1200) / 4) with
    | some q => q.replies.length - s.lateBy q.replies.length
    | none => 0)
  else queueErrWord s.queues.err

/-- The numeric registers (R194). -/
def State.numReg (s : State) (off : Nat) : Nat :=
  let n := s.num
  match off with
  | 0x2000 => min (n.tags.filter (·.alarm)).length 4095 * 256 + bnat n.missBit * 8 + bnat n.nonfiniteBit * 4 + bnat n.ratioBit * 2 + bnat n.stallBit
  | 0x2004 => n.eventCode.toNat * 2 ^ 24 + n.eventTag.toNat
  | 0x2008 => n.nonfinite.toNat
  | 0x200C => n.flush.toNat
  | 0x2010 => n.miss.toNat
  | _ => 0

/-- The pace, halt and health registers (R385, R391, R500). -/
def State.paceReg (s : State) (off : Nat) : Nat :=
  let h := s.halt
  match off with
  | 0x3000 => h.slowRank.toNat * 2 ^ 16 + h.slowTag.toNat * 2 ^ 8 + h.ownTag.toNat
  | 0x3004 => h.paceStep.toNat
  | 0x3040 => haltWord h
  | 0x3044 => haltDetailWord h
  | 0x3048 => h.step.toNat
  | 0x3050 => h.dropped.toNat
  | 0x3100 => s.errSummary
  | 0x3104 => s.errEnable
  | 0x3110 => (s.health.head - BitVec.ofNat 32 (s.lateBy s.health.headLag)).toNat
  | 0x3114 => s.health.tail.toNat
  | 0x3118 => s.health.drop.toNat
  | _ => if 0x3010 ≤ off ∧ off < 0x3024 then (nth h.waits ((off - 0x3010) / 4) 0).toNat else 0

/-- LNK_PORT_STATUS_p (R364). A port that trains shows TRAINING, or HANDSHAKE once its frames have locked, which no event of the table marks: a free choice. -/
def portWord (shook : Bool) (p : Port) : Nat :=
  p.peer.toNat * 2 ^ 16 + (if p.trying && shook then 3 else portCode p.state) * 2 ^ 12 + widthCode p.lanes.length % 8 * 2 ^ 9 + p.cfgWidth % 8 * 2 ^ 6 + bnat p.half * 32 + bnat p.authenticated * 16 + bnat p.joined * 8

/-- The link registers (R364). -/
def State.linkReg (s : State) (off : Nat) : Nat :=
  let l := off % 256 / 4
  match off / 256 with
  | 0x100 => ((s.port? l).map (portWord ((Config.freeWord s.free 1).getLsbD 0))).getD 0
  | 0x101 => ((s.lane? l).map (·.corr.toNat)).getD 0
  | 0x102 => ((s.lane? l).map (fun x => x.lockLoss.toNat * 2 ^ 24 + x.uncorr.toNat)).getD 0
  | _ =>
    match off with
    | 0x10300 => s.link.changed.toNat * 2 ^ 16 + s.link.present.toNat
    | 0x10304 => s.link.noPath.toNat * 2 ^ 16 + s.link.hopLimitDrops.toNat
    | _ => 0

/-- MEM_PORT_STATUS_n of a present port, MEM_EVENT (R419). -/
def State.memPortWord (s : State) (m : MemPort) : Nat :=
  2 ^ 31 + bnat s.gddr.clamshell * 2 ^ 30 + s.gddr.rate % 8 * 2 ^ 27 + s.refreshOf m % 4 * 2 ^ 25 + bnat m.sensorFault * 2 ^ 24 + bnat m.retraining * 2 ^ 23 + bnat m.remapFull * 2 ^ 22
    + (ratByte m.temp).toNat * 2 ^ 14 + m.remaps.length % 2 ^ 13
def memEventWord (g : Gddr) : Nat :=
  g.lastPort.toNat * 2 ^ 16 + bnat g.evRemapFull * 16 + bnat g.evRemap * 8 + bnat g.evRetrain * 4 + bnat g.evSensor * 2 + bnat g.evUncorr

/-- The counters of a place as MEM_SCRATCH_UNCORR_r and MEM_CACHE_UNCORR_s read (R440). -/
def uncorrWord (e : ErrCount) : Nat := e.poison.toNat * 2 ^ 16 + e.uncorr.toNat

/-- The memory registers (R419, R440). -/
def State.memReg (s : State) (off : Nat) : Nat :=
  let k := off % 256 / 4
  let port := s.gddr.ports.find? (fun m => m.num == k)
  match off / 256 with
  | 0x200 => (port.map (fun m => if m.present then s.memPortWord m else 0)).getD 0
  | 0x201 => (port.map (·.corr.toNat)).getD 0
  | 0x202 => (port.map (fun m => m.poison.toNat * 2 ^ 16 + m.uncorr.toNat)).getD 0
  | 0x203 => if off = 0x20300 then memEventWord s.gddr else 0
  | 0x210 => (assocGet s.mem.scratch k ⟨0, 0, 0⟩).corr.toNat
  | 0x211 => uncorrWord (assocGet s.mem.scratch k ⟨0, 0, 0⟩)
  | 0x212 =>
    if k < 8 then (assocGet s.mem.slices k ⟨0, 0, 0⟩).corr.toNat
    else if k < 16 then uncorrWord (assocGet s.mem.slices (k - 8) ⟨0, 0, 0⟩)
    else if k = 16 then s.mem.queueCorr.toNat
    else if k = 17 then s.mem.lastIsland.toNat * 2 ^ 24 + s.mem.queueUncorr.toNat
    else if 20 ≤ k ∧ k < 24 then (match nth s.mem.quarantine (k - 20) none with
      | some b => 2 ^ 31 + b.1 * 2 ^ 16 + b.2
      | none => 0)
    else if k = 24 then s.mem.direct
    else 0
  | _ => 0

/-- The mean of the estimates of the last 100 µs (R455). -/
def Power.estMean (p : Power) : Rat := if p.estWindow.isEmpty then p.pEst else (p.estWindow.foldl (· + ·) 0) / p.estWindow.length

/-- PWR_POWER and PWR_TEMP (R471). -/
def Power.powerWord (p : Power) : Nat := ratClamp p.estMean 0 0xFFFF * 2 ^ 16 + ratClamp p.measured 0 0xFFFF
def Power.faulted (p : Power) : Nat := (p.sensors.filter (·.faulted)).length

/-- The power registers (R471). -/
def State.powerReg (s : State) (off : Nat) : Nat :=
  let p := s.power
  match off with
  | 0x30000 => ratClamp (p.bubble * 256) 0 255 * 2 ^ 24 + p.freq % 256 * 2 ^ 8 + p.cause % 8 * 2 ^ 5 + bnat p.throttle * 16 + bnat p.limit * 8 + bnat p.pin * 4 + bnat p.calFallback * 2 + bnat p.boardBinds
  | 0x30004 => p.powerWord
  | 0x30008 => p.effectiveCap % 2 ^ 16 * 2 ^ 16 + p.boardCap.getD 0 % 2 ^ 16
  | 0x3000C => (ratByte p.tj).toNat * 2 ^ 24 + p.hottest % 256 * 2 ^ 8 + p.faulted % 256
  | 0x30010 => bnat p.evCapUnmet * 32 + bnat p.evGuard * 16 + bnat p.evSensor * 8 + bnat p.evCal * 4 + bnat p.evLimit * 2 + bnat p.evThrottle
  | 0x30020 => bnat s.trip.tripped * 2 ^ 31 + s.trip.sensor.toNat * 2 ^ 8 + s.trip.temp.toNat
  | _ => if 0x30100 ≤ off ∧ off < 0x30200 then ((s.ridge? ((off - 0x30100) / 4)).map (·.droops.toNat)).getD 0 else 0

/-- DEVICE_ID as its registers and MGT_ID show it: zeros until FLASH has derived the key (R528, R542). -/
def State.shownDeviceId (s : State) : List Byte := if s.boot.endedOk.contains 1 then s.deviceId else zeros 32

/-- The security registers (R542). -/
def State.secReg (s : State) (off : Nat) : Nat :=
  if off = 0x40000 then
    (if s.boot.endedOk.contains 1 then s.fuses.svn % 256 else 0) * 2 ^ 24 + s.boot.imageSvn % 256 * 2 ^ 16 + s.sec.level % 4 * 16 + bnat (s.sec.level != 0) * 8 + bnat s.sec.keyReady * 4
      + bnat s.fuses.custRequired * 2 + bnat s.fuses.custSet
  else if 0x40010 ≤ off ∧ off < 0x40030 then field s.shownDeviceId (off - 0x40010) 4
  else 0

/-- HST_MBOX_CTRL, and the reply of the mailbox (R558). -/
def mboxWord (h : HostIf) : Nat := bnat h.mboxBusy * 2 ^ 30 + bnat h.mboxDone * 2 ^ 29 + h.mboxLen.toNat
def HostIf.replyBytes (h : HostIf) : List Byte := (h.mboxReply.map Reply.bytes).getD (zeros 32)

/-- The registers of this chapter, the boot registers and the mailbox (R526, R555, R558). -/
def State.hostReg (s : State) (off : Nat) : Nat :=
  match off with
  | 0x00 => 0x0064 * 2 ^ 16 + s.fuses.stepping.toNat * 2 ^ 8
  | 0x14 => serviceWord s.host
  | 0x18 => hostErrWord s.host
  | 0x20 => s.host.windowLo.toNat * 2 ^ 28
  | 0x24 => s.host.windowHi.toNat
  | 0x400 => s.bootStatusWord
  | 0x404 => s.boot.bootSeq.toNat
  | 0x408 => s.bootDetailWord
  | 0x800 => mboxWord s.host
  | _ => if 0x820 ≤ off ∧ off < 0x840 then field s.host.replyBytes (off - 0x820) 4 else 0

/-- The MSI-X table and the pending-bit array (R550, R553): the table as it was written, pending bits of the PCIe standard free. -/
def State.msixReg (s : State) (off : Nat) : Nat :=
  if off < 0x300400 then leNat (cellRead s.host.msixTable (off - 0x300000) 4)
  else if 0x301000 ≤ off ∧ off < 0x301008 then (Config.freeWord s.free 0).toNat
  else 0

/-- The 32-bit register at an aligned BAR0 offset (R553); a reserved offset reads 0 (R554). -/
def State.regValue (s : State) (off : Nat) : Nat :=
  if off < 0x1000 then s.hostReg off
  else if off < 0x1304 then s.queueReg off
  else if off < 0x3000 then s.numReg off
  else if off < 0x4000 then s.paceReg off
  else if off < 0x10000 then 0
  else if off < 0x20000 then s.linkReg off
  else if off < 0x30000 then s.memReg off
  else if off < 0x40000 then s.powerReg off
  else if off < 0x100000 then s.secReg off
  else if 0x300000 ≤ off ∧ off < 0x302000 then s.msixReg off
  else 0

/-! ### What a read leaves behind -/

/-- A read of a late register fixes how far behind it is: later reads show no less (R39). -/
def State.readLate (s : State) (off : Nat) : State :=
  let s1 := { s with free := s.free + 1 }
  if off < 0x1200 then s1.updSub ((off - 0x1100) / 4) (fun (q : SubQueue) => { q with lag := s.lateBy q.lag })
  else if off = 0x3110 then { s1 with health := { s1.health with headLag := s.lateBy s.health.headLag } }
  else s1

/-- The RC fields of a register are cleared (R7, R194, R364, R385, R391, R419, R440, R471, R500); a late or free register draws its value. -/
def State.afterRead (s : State) (off : Nat) : State :=
  let k := off % 256 / 4
  if (0x1100 ≤ off ∧ off < 0x1300) ∨ off = 0x3110 ∨ (0x301000 ≤ off ∧ off < 0x301008) then s.readLate off
  else if off = 0x2008 then { s with num := { s.num with nonfinite := 0 } }
  else if off = 0x200C then { s with num := { s.num with flush := 0 } }
  else if off = 0x2010 then { s with num := { s.num with miss := 0 } }
  else if 0x3010 ≤ off ∧ off < 0x3024 then { s with halt := { s.halt with waits := s.halt.waits.set ((off - 0x3010) / 4) 0 } }
  else if off = 0x3050 then { s with halt := { s.halt with dropped := 0 } }
  else if off = 0x3118 then { s with health := { s.health with drop := 0 } }
  else if off = 0x10304 then { s with link := { s.link with noPath := 0, hopLimitDrops := 0 } }
  else match off / 256 with
    | 0x101 => s.updLane k (fun (x : Lane) => { x with corr := 0 })
    | 0x102 => s.updLane k (fun (x : Lane) => { x with uncorr := 0, lockLoss := 0 })
    | 0x201 => s.updMemPort k (fun (m : MemPort) => { m with corr := 0 })
    | 0x202 => s.updMemPort k (fun (m : MemPort) => { m with poison := 0, uncorr := 0 })
    | 0x210 => { s with mem := { s.mem with scratch := mapWhere (fun e => e.1 == k) (fun e => (e.1, { e.2 with corr := 0 })) s.mem.scratch } }
    | 0x211 => { s with mem := { s.mem with scratch := mapWhere (fun e => e.1 == k) (fun e => (e.1, { e.2 with poison := 0, uncorr := 0 })) s.mem.scratch } }
    | 0x212 =>
      if k < 8 then { s with mem := { s.mem with slices := mapWhere (fun e => e.1 == k) (fun e => (e.1, { e.2 with corr := 0 })) s.mem.slices } }
      else if k < 16 then { s with mem := { s.mem with slices := mapWhere (fun e => e.1 == k - 8) (fun e => (e.1, { e.2 with poison := 0, uncorr := 0 })) s.mem.slices } }
      else if k = 16 then { s with mem := { s.mem with queueCorr := 0 } }
      else if k = 17 then { s with mem := { s.mem with queueUncorr := 0 } }
      else s
    | 0x301 => s.updRidge k (fun (r : Ridge) => { r with droops := 0 })
    | _ => s

/-- An access to the mailbox buffers: the base of the buffer and the offset in it. -/
def inMailbox (off : Nat) : Bool := decide (0x100000 ≤ off) && decide (off < 0x108000)

/-- The size and alignment that R554 allows at an offset. -/
def bar0SizeOk (off n : Nat) : Bool :=
  if inMailbox off then [4, 8, 16, 32, 64].contains n && decide (off % n = 0) else (decide (n = 4) || decide (n = 8)) && decide (off % n = 0)

/-- HST_HOST_ERR takes an error. -/
def State.hostErr (s : State) (f : HostIf → HostIf) : State := { s with host := f s.host }

/-- A read of BAR0 (R7, R554): its bytes and what it leaves behind. -/
def State.readBar0 (s : State) (off n : Nat) : List Byte × State :=
  if !bar0SizeOk off n then (zeros n, s.hostErr (fun h => { h with bar0Size := true }))
  else if inMailbox off then
    (if off < 0x104000 then cellRead s.host.mboxReq (off - 0x100000) n else cellRead s.host.mboxData (off - 0x104000) n, s)
  else
    let s1 := s.afterRead off
    if n = 4 then (toLE 4 (s.regValue off), s1) else (toLE 4 (s.regValue off) ++ toLE 4 (s1.regValue (off + 4)), s1.afterRead (off + 4))

/-- RC_READ (R7). -/
def rcRead (offset length : Nat) (s : State) : State :=
  let r := s.readBar0 offset length
  r.2.answerHost r.1 false

/-- RC_READ. -/
def execRcRead (offset length : Nat) (s : State) : Out State := .next (s.settle (s.bar (rcRead offset length)))

/-! ### The mailbox (R558 to R560) -/

/-- The families and commands that the mailbox serves (R559). -/
def mailboxServes (op : Nat) : Bool :=
  familyOf op == 0 || familyOf op == 1 || familyOf op == 0xE || familyOf op == 0xD || op == healthPolicyInfo.code || op == healthRetireInfo.code

/-- The boot step that must have ended OK before a command's block is there (R501, R559): FLASH for the flash records and the SEC family, FIRMWARE for images, SETTINGS for the image in force and the links, RIDGES for ridges, CORE for the rest. -/
def blockStep (p : List Byte) : Nat :=
  let op := opcodeOf p
  if op = 0x0001 then 0
  else if op = 0x0020 ∨ op = healthRetireInfo.code then 7
  else if familyOf op = 0xD then (if 0xD010 ≤ op ∧ op ≤ 0xD012 then 2 else 1)
  else if op = 0x1301 ∧ field p 32 1 = 2 then 5
  else if op / 256 = 0x13 then 1
  else if [cfgLinkPortsInfo.code, cfgLinkRouteInfo.code, cfgLinkRanksInfo.code, cfgLinkPolicyInfo.code, cfgLinkRetrainInfo.code].contains op then 5
  else 6

/-- The result with which the mailbox ends a packet at once, if it does: a LENGTH out of range, a failed check 1 to 4, a PARAM_LENGTH that disagrees, an opcode that it does not serve, a block that is not there. -/
def State.mailboxVerdict (s : State) (p : List Byte) (len : Nat) : Option Result :=
  if len < 2 ∨ 512 < len then some (badParam 0 8) else
  match firstBreach (headerBreaches p), opInfo? (opcodeOf p) with
  | some r, _ => some r
  | none, none => some (resStatus stBadOpcode)
  | none, some _ =>
    if packetBytes p ≠ 32 * len then some (badParam 0 8) else
    match precheck false p with
    | .inl r => some r
    | .inr i =>
      if !mailboxServes i.code then some (resOf stBusy (if s.boot.state = .safe then 0x18 else 0x1A) 0)
      else if blockStep p ≠ 0 ∧ !s.boot.endedOk.contains (blockStep p) then some (resOf stBusy 0x18 0)
      else none

/-- GO: the packet of the request buffer is in flight, and BUSY sets. -/
def State.takeMailbox (s : State) (len : Nat) : State :=
  let p := cellRead s.host.mboxReq 0 (32 * max len 2)
  let id := s.queues.nextId
  let c0 : Cmd := ⟨id, .mailbox, p, .taken, 0⟩
  let c := match s.mailboxVerdict p len with
    | some r => { c0 with stage := .ended (r.forCmd c0) }
    | none => c0
  { s with queues := { s.queues with nextId := id + 1, cmds := s.queues.cmds ++ [c] }, host := { s.host with mboxBusy := true } }

/-- A write to HST_MBOX_CTRL (R558): LENGTH, 1 to DONE, GO. GO is judged with BUSY and DONE as they were. -/
def mboxCtrl (value : W32) (s : State) : State :=
  let h := { s.host with mboxLen := value.setWidth 10, mboxDone := s.host.mboxDone && !value.getLsbD 29 }
  if !value.getLsbD 31 then { s with host := h }
  else if s.host.mboxBusy || s.host.mboxDone then { s with host := { h with mboxOverrun := true } }
  else ({ s with host := h }).takeMailbox (value.toNat % 1024)

/-- MAILBOX_GO. -/
def execMailboxGo (value : W32) (s : State) : Out State := .next (s.settle (s.bar (mboxCtrl value)))

/-- MAILBOX_DONE (R558): the reply is written, BUSY clears and DONE sets. -/
def execMailboxDone (id runTime : Nat) (s : State) : Out State :=
  .next (s.settle (match s.cmd? id with
    | none => s
    | some c =>
      match c.src, c.stage with
      | .mailbox, .ended r =>
        let s1 := (s.dropCmd id).finishDeletes
        { s1 with host := { s1.host with mboxReply := some (replyOf c r runTime), mboxBusy := false, mboxDone := true } }
      | _, _ => s))

/-! ### BAR0: writes -/

/-- A write to HST_RESET (R555). -/
def hostReset (value : W32) (s : State) : State :=
  if !value.getLsbD 0 then s
  else if value.toNat / 2 ^ 16 = 0xB007 then s.resetBy 2
  else s.hostErr (fun h => { h with resetKey := true })

/-- HST_RESET. -/
def execHstReset (value : W32) (s : State) : Out State := .next (s.settle (s.bar (hostReset value)))

/-- LOCATE takes a value. -/
def setLocate (v : Bool) (s : State) : State := s.hostErr (fun h => { h with locate := v })

/-- SERVICE_LOCATE_WRITE (R555). -/
def execServiceLocateWrite (locate : Bool) (s : State) : Out State := .next (s.settle (s.bar (setLocate locate)))

/-- A pending or active park is cancelled (R568). -/
def cancelPark (s : State) : State := s.hostErr (fun h => { h with park := false, parked := false })

/-- PARK_CANCEL: a write of 1 to PARK in HST_SERVICE. -/
def execParkCancel (s : State) : Out State := .next (s.settle (s.bar cancelPark))

/-- A write to HST_SERVICE. -/
def serviceWrite (value : W32) (s : State) : State :=
  let s1 := setLocate (value.getLsbD 4) s
  let s2 := if value.getLsbD 3 then s1.hostErr (fun h => { h with attention := false }) else s1
  if value.getLsbD 1 then cancelPark s2 else s2

/-- W1C: the bit after a write. -/
def w1c (b : Bool) (value : W32) (i : Nat) : Bool := b && !value.getLsbD i

/-- A write to a 32-bit register at an aligned offset (R7): RW fields take it, W1C bits that are written 1 clear, everything else is ignored. -/
def State.writeReg (s : State) (off : Nat) (v : W32) : State :=
  match off with
  | 0x10 => hostReset v s
  | 0x14 => serviceWrite v s
  | 0x18 => s.hostErr (fun h => { h with
      mboxOverrun := w1c h.mboxOverrun v 5, resetKey := w1c h.resetKey v 4, bar0Size := w1c h.bar0Size v 3, winRange := w1c h.winRange v 2, winUncorr := w1c h.winUncorr v 1 })
  | 0x20 => s.hostErr (fun h => { h with windowLo := BitVec.ofNat 4 (v.toNat / 2 ^ 28) })
  | 0x24 => s.hostErr (fun h => { h with windowHi := v })
  | 0x800 => mboxCtrl v s
  | 0x1300 =>
    let e := s.queues.err
    { s with queues := { s.queues with err := { e with
      rqStall := w1c e.rqStall v 6, popSize := w1c e.popSize v 5, dbBack := w1c e.dbBack v 4, dbRange := w1c e.dbRange v 3, dbNoq := w1c e.dbNoq v 2, rqMissing := w1c e.rqMissing v 1 } } }
  | 0x2000 => { s with num := { s.num with
      missBit := w1c s.num.missBit v 3, nonfiniteBit := w1c s.num.nonfiniteBit v 2, ratioBit := w1c s.num.ratioBit v 1, stallBit := w1c s.num.stallBit v 0 } }
  | 0x304C => haltReq v s
  | 0x3100 => { s with health := { s.health with
      telemDrop := w1c s.health.telemDrop v 9, testFail := w1c s.health.testFail v 8, quarantined := w1c s.health.quarantined v 7, poison := w1c s.health.poison v 1 } }
  | 0x3104 => { s with health := { s.health with enableHi := BitVec.ofNat 8 (v.toNat / 8), enableLo := v.setWidth 2 } }
  | 0x3114 => telemTail v s
  | 0x10300 => { s with link := { s.link with changed := s.link.changed &&& ~~~(BitVec.ofNat 16 (v.toNat / 2 ^ 16)) } }
  | 0x20300 => { s with gddr := { s.gddr with
      evRemapFull := w1c s.gddr.evRemapFull v 4, evRemap := w1c s.gddr.evRemap v 3, evRetrain := w1c s.gddr.evRetrain v 2, evSensor := w1c s.gddr.evSensor v 1, evUncorr := w1c s.gddr.evUncorr v 0 } }
  | 0x30010 => { s with power := { s.power with
      evCapUnmet := w1c s.power.evCapUnmet v 5, evGuard := w1c s.power.evGuard v 4, evSensor := w1c s.power.evSensor v 3, evCal := w1c s.power.evCal v 2,
      evLimit := w1c s.power.evLimit v 1, evThrottle := w1c s.power.evThrottle v 0 } }
  | 0x30020 => { s with trip := { s.trip with tripped := w1c s.trip.tripped v 31 } }
  | _ =>
    if 0x1000 ≤ off ∧ off < 0x1100 then doorbell ((off - 0x1000) / 4) v s
    else if 0x300000 ≤ off ∧ off < 0x300400 then s.hostErr (fun h => { h with msixTable := cellWrite h.msixTable (off - 0x300000) (toLE 4 v.toNat) })
    else s

/-- A write to BAR0 (R554). -/
def registerWrite (offset : Nat) (data : List Byte) (s : State) : State :=
  let n := data.length
  if !bar0SizeOk offset n then s.hostErr (fun h => { h with bar0Size := true })
  else if inMailbox offset then
    (if offset < 0x104000 then s.hostErr (fun h => { h with mboxReq := cellWrite h.mboxReq (offset - 0x100000) data })
    else s.hostErr (fun h => { h with mboxData := cellWrite h.mboxData (offset - 0x104000) data }))
  else
    let s1 := s.writeReg offset (BitVec.ofNat 32 (field data 0 4))
    if n = 8 then s1.writeReg (offset + 4) (BitVec.ofNat 32 (field data 4 4)) else s1

/-- REGISTER_WRITE. -/
def execRegisterWrite (offset : Nat) (data : List Byte) (s : State) : Out State := .next (s.settle (s.bar (registerWrite offset data)))

/-! ### BAR2 (R556, R557) -/

/-- The device address that a BAR2 offset of the memory window names. -/
def State.windowAddr (s : State) (off : Nat) : Nat := s.host.windowHi.toNat * 2 ^ 32 + s.host.windowLo.toNat * 2 ^ 28 + (off - 0x10000000)

/-- Data of ones. -/
def onesBytes (n : Nat) : List Byte := List.replicate n 0xFF

/-- A read through the memory window (R557). -/
def State.windowRead (s : State) (a n : Nat) : State :=
  if (s.rangeReason a n).isSome then (s.hostErr (fun h => { h with winRange := true })).answerHost (onesBytes n) false
  else
    let r := s.read a n
    let s1 := s.noteRead 4 a n
    if r.uncorr.isEmpty then s1.answerHost r.data false
    else (s1.hostErr (fun h => { h with winUncorr := true })).answerHost (onesBytes n) true

/-- A read of BAR2. -/
def bar2Read (off n : Nat) (s : State) : State :=
  if off < 0x800000 then s.answerHost (cellRead s.queues.memory off n) false
  else if 0x1000000 ≤ off ∧ off < 0x1040000 then popRead ((off - 0x1000000) / 0x1000) off n s
  else if 0x10000000 ≤ off ∧ off < 0x20000000 then s.windowRead (s.windowAddr off) n
  else s.answerHost (zeros n) false

/-- WINDOW_READ. -/
def execWindowRead (offset length : Nat) (s : State) : Out State := .next (s.settle (s.bar (bar2Read offset length)))

/-- One word's part of a window write: a part that would merge into an uncorrectable or poisoned word is dropped and WIN_UNCORR set (R557). -/
def State.windowPart (s : State) (a : Nat) (bs : List Byte) : State :=
  let r := s.read (a / 32 * 32) 32
  if decide (bs.length < 32) && !r.good then (s.noteRead 4 (a / 32 * 32) 32).hostErr (fun h => { h with winUncorr := true }) else (s.store 4 a bs).1

/-- A run of bytes cut at 32-byte words: the address and the bytes of each part. -/
def wordParts (a : Nat) (bs : List Byte) : List (Nat × List Byte) :=
  let first := bs.take (32 - a % 32)
  let rest := bs.drop (32 - a % 32)
  (a, first) :: ((chunks 32 rest).zipIdx).map (fun (c, i) => (a + first.length + 32 * i, c))

/-- A write through the memory window. -/
def State.windowWrite (s : State) (a : Nat) (bs : List Byte) : State :=
  if (s.rangeReason a bs.length).isSome then s.hostErr (fun h => { h with winRange := true })
  else if bs.isEmpty then s
  else (wordParts a bs).foldl (fun s w => s.windowPart w.1 w.2) s

/-- A write to BAR2: a posted write has no completion. -/
def bar2Write (off : Nat) (bs : List Byte) (s : State) : State :=
  if off < 0x800000 then { s with queues := { s.queues with memory := cellWrite s.queues.memory off (bs.take (0x800000 - off)) } }
  else if 0x10000000 ≤ off ∧ off < 0x20000000 then s.windowWrite (s.windowAddr off) bs
  else s

/-- WINDOW_WRITE. -/
def execWindowWrite (offset : Nat) (data : List Byte) (s : State) : Out State := .next (s.settle (s.bar (bar2Write offset data)))

/-! ### Configuration space and power states (R550 to R552) -/

/-- HOST has ended OK in this start. -/
def State.hostUp (s : State) : Bool := s.boot.endedOk.contains 4

/-- A configuration register (R550); words of which the manual gives no value are free. -/
def State.configWord (s : State) (off : Nat) : Nat :=
  let free := (Config.freeWord s.free 0).toNat
  match off with
  | 0x00 => 0x0064 * 2 ^ 16 + Config.vendorId.toNat
  | 0x08 => 0x120000 * 2 ^ 8 + free % 256
  | 0x10 => s.host.bar0.toNat % 2 ^ 32 + 4
  | 0x14 => s.host.bar0.toNat / 2 ^ 32
  | 0x18 => s.host.bar2.toNat % 2 ^ 32 + 4
  | 0x1C => s.host.bar2.toNat / 2 ^ 32
  | 0x20 => 0
  | 0x24 => 0
  | 0x2C => 0
  | 0x30 => 0
  | _ => free

/-- The base address registers take the address bits above their sizes, 4 MiB and 512 MiB. -/
def configWrite (off : Nat) (v : W32) (h : HostIf) : HostIf :=
  let lo (x : W64) (size : Nat) : W64 := BitVec.ofNat 64 (x.toNat / 2 ^ 32 * 2 ^ 32 + v.toNat / size * size)
  let hi (x : W64) : W64 := BitVec.ofNat 64 (v.toNat * 2 ^ 32 + x.toNat % 2 ^ 32)
  match off with
  | 0x10 => { h with bar0 := lo h.bar0 0x400000 }
  | 0x14 => { h with bar0 := hi h.bar0 }
  | 0x18 => { h with bar2 := lo h.bar2 0x20000000 }
  | 0x1C => { h with bar2 := hi h.bar2 }
  | _ => h

/-- CONFIG_REQUEST (R552): Request Retry Status before HOST has ended OK. -/
def execConfigRequest (r : CfgReq) (s : State) : Out State :=
  .next (s.settle (
    if !s.hostUp then s.hostErr (fun h => { h with resp := ⟨[], false, false, true⟩ })
    else if r.write then s.hostErr (fun h => { configWrite r.offset r.value h with resp := ⟨[], false, false, false⟩ })
    else ({ s with free := s.free + 1 }).answerHost (toLE 4 (s.configWord r.offset)) false))

/-- D3HOT_ENTRY, D0_RETURN (R551): the chip runs on. -/
def execD3hotEntry (s : State) : Out State := .next (s.settle (if s.hostUp then s.hostErr (fun h => { h with d3hot := true }) else s))
def execD0Return (s : State) : Out State := .next (s.settle (s.hostErr (fun h => { h with d3hot := false })))

/-! ### The management bus (R561 to R564) -/

/-- A read transaction is acknowledged and answered. -/
def State.mgtAnswer (s : State) (bs : List Byte) : State := { s with mgt := { s.mgt with answer := some bs, acked := true } }

/-- A write transaction: acknowledged, with its effect, when its PEC and its value stand; otherwise neither. -/
def State.mgtWrite (s : State) (ok : Bool) (f : State → State) : State :=
  if ok then f { s with mgt := { s.mgt with answer := none, acked := true } } else { s with mgt := { s.mgt with answer := none, acked := false } }

/-- MGT_ID. -/
def execMgtId (s : State) : Out State :=
  .next (s.settle (s.mgtAnswer (toLE 2 0x0064 ++ [s.fuses.stepping, 0] ++ toLE 2 s.chipId.toNat ++ zeros 2 ++ s.shownDeviceId.take 8)))

/-- MGT_BOOT. -/
def execMgtBoot (s : State) : Out State := .next (s.settle (s.mgtAnswer (toLE 4 s.bootStatusWord ++ toLE 4 s.bootDetailWord)))

/-- The hottest GDDR-7 reading, 0 before the first. -/
def State.hottestMem (s : State) : Rat :=
  match (s.gddr.ports.filter (·.present)).filterMap (·.lastTemp) with
  | [] => 0
  | t :: ts => ts.foldl max t

/-- MGT_TEMP. -/
def execMgtTemp (s : State) : Out State :=
  .next (s.settle (s.mgtAnswer [ratByte s.power.tj, ratByte s.hottestMem, BitVec.ofNat 8 s.power.hottest, BitVec.ofNat 8 s.power.faulted]))

/-- MGT_POWER. -/
def execMgtPower (s : State) : Out State := .next (s.settle (s.mgtAnswer (toLE 4 s.power.powerWord)))

/-- MGT_BOARD_CAP (R454, R563). -/
def execMgtBoardCap (write : Bool) (value : W16) (pecOk : Bool) (s : State) : Out State :=
  .next (s.settle (
    if !write then s.mgtAnswer (toLE 2 (s.power.boardCap.getD 0))
    else
      let n := value.toNat
      s.mgtWrite (pecOk && (decide (n = 0) || (decide (450 ≤ n) && decide (n ≤ 1200)))) (fun s => { s with power := { s.power with boardCap := if n = 0 then none else some n } })))

/-- MGT_ESTOP (R563): on a halted chip it has no effect. -/
def execMgtEstop (value : W16) (pecOk : Bool) (s : State) : Out State :=
  .next (s.settle (s.mgtWrite pecOk (fun s => if value = 0x5A5A then s.raiseWave 0x13 0 else s)))

/-- MGT_RESET. -/
def execMgtReset (value : W16) (pecOk : Bool) (s : State) : Out State :=
  .next (s.settle (s.mgtWrite pecOk (fun s => if value = 0xB007 then s.resetBy 5 else s.hostErr (fun h => { h with resetKey := true }))))

/-- MGT_LOCATE. -/
def execMgtLocate (write : Bool) (value : Byte) (pecOk : Bool) (s : State) : Out State :=
  .next (s.settle (if !write then s.mgtAnswer [BitVec.ofNat 8 (bnat s.host.locate)] else s.mgtWrite pecOk (setLocate (value.getLsbD 0))))

/-- MGT_ATTN: writing 1 clears ATTENTION and PARK alone. -/
def execMgtAttn (write : Bool) (value : Byte) (pecOk : Bool) (s : State) : Out State :=
  .next (s.settle (
    if !write then s.mgtAnswer [BitVec.ofNat 8 s.attention]
    else s.mgtWrite pecOk (fun s =>
      let s1 := if value.getLsbD 0 then s.hostErr (fun h => { h with attention := false }) else s
      if value.getLsbD 1 then cancelPark s1 else s1)))

/-- MGT_ATTN_MASK. -/
def execMgtAttnMask (write : Bool) (value : Byte) (pecOk : Bool) (s : State) : Out State :=
  .next (s.settle (if !write then s.mgtAnswer [s.mgt.mask] else s.mgtWrite pecOk (fun s => { s with mgt := { s.mgt with mask := value } })))

/-- MGT_BOOT_CLEAR: as CFG.BOOT_CLEAR, with its checks. -/
def execMgtBootClear (data : List Byte) (pecOk : Bool) (s : State) : Out State :=
  .next (s.settle (s.mgtWrite (pecOk && decide (data.length = 3)) (fun s =>
    if (bootClearBad (field data 0 2) (field data 2 1)).any (·.fails) then s else s.bootClear (field data 0 2) (field data 2 1))))

/-- MGT_STAEZ_DATA. -/
def execMgtStaezData (unit : Byte) (data : List Byte) (pecOk : Bool) (s : State) : Out State :=
  .next (s.settle (s.mgtWrite (pecOk && decide (unit.toNat < 32) && decide (data.length = 16)) (fun s =>
    { s with mgt := { s.mgt with staging := splice s.mgt.staging (16 * unit.toNat) data } })))

/-- A commit: refused while one is writing, or when the image breaks its limits; otherwise the write begins. -/
def State.commitStaez (s : State) : State :=
  if s.mgt.stagingWrite.isSome then { s with mgt := { s.mgt with stagingState := 3, stagingReason := 0x14 } }
  else if !staezFields false s.mgt.staging then { s with mgt := { s.mgt with stagingState := 3, stagingReason := 0x38 } }
  else { s with mgt := { s.mgt with stagingState := 1, stagingReason := 0, stagingWrite := some s.mgt.staging } }

/-- MGT_STAEZ_COMMIT (R563). -/
def execMgtStaezCommit (value : Byte) (pecOk : Bool) (s : State) : Out State :=
  .next (s.settle (s.mgtWrite pecOk (fun s => if value = 1 then s.commitStaez else s)))

/-- MGT_STAEZ_WRITE_DONE (R563). -/
def execMgtStaezWriteDone (s : State) : Out State :=
  .next (s.settle (match s.mgt.stagingWrite with
    | none => s
    | some img =>
      let s1 := s.writeStaez img
      { s1 with mgt := { s1.mgt with stagingState := 2, stagingReason := 0, stagingWrite := none } }))

/-- MGT_STAEZ_STATUS. -/
def execMgtStaezStatus (s : State) : Out State := .next (s.settle (s.mgtAnswer [BitVec.ofNat 8 s.mgt.stagingState, s.mgt.stagingReason, 0, 0]))

/-- The newest STEP_END record, zeros when there is none. -/
def State.newestEnd (s : State) : List Byte := ((s.flash.records.reverse.find? (fun r => r.kind == 3)).map CairnRec.bytes).getD (zeros 64)

/-- MGT_CAIRN_LAST: the other half is latched. -/
def execMgtCairnLast (s : State) : Out State :=
  .next (s.settle (
    let s1 := s.mgtAnswer (s.newestEnd.take 32)
    { s1 with mgt := { s1.mgt with cairnHi := s.newestEnd.drop 32 } }))

/-- MGT_CAIRN_LAST_HI. -/
def execMgtCairnLastHi (s : State) : Out State := .next (s.settle (s.mgtAnswer s.mgt.cairnHi))

/-- MGT_ALERT_RELEASE (R564). -/
def execMgtAlertRelease (s : State) : Out State := .next (s.settle (if s.attentionUnmasked then s else { s with mgt := { s.mgt with alertLow := false } }))

/-- SMBUS_CLOCK_TIMEOUT (R561): the target releases the bus, and the transaction is over without an acknowledgement. -/
def execSmbusClockTimeout (s : State) : Out State := .next (s.settle { s with mgt := { s.mgt with answer := none, acked := false } })

/-! ### Button and LEDs (R567 to R570) -/

/-- BUTTON_PRESS: a filtered press; one that is in force at the release of reset is ignored. -/
def execButtonPress (s : State) : Out State :=
  .next (s.settled (if s.host.button then s else s.hostErr (fun h => { h with button := true, buttonIgnored := s.boot.inReset, buttonHeld := false })))

/-- BUTTON_RELEASE: within 5,000 ms of its press it toggles LOCATE. -/
def execButtonRelease (heldMs : Nat) (s : State) : Out State :=
  .next (s.settled (
    if !s.host.button then s
    else s.hostErr (fun h => { h with
      button := false, buttonIgnored := false, buttonHeld := false
      locate := if h.buttonIgnored || h.buttonHeld || decide (5000 < heldMs) then h.locate else !h.locate })))

/-- BUTTON_HOLD: ATTENTION and PARK set. -/
def execButtonHold (s : State) : Out State :=
  .next (s.settle (
    if s.host.button && !s.host.buttonIgnored && !s.host.buttonHeld then s.hostErr (fun h => { h with attention := true, park := true, buttonHeld := true }) else s))

/-- The ports of a link group. -/
def State.groupPorts (s : State) (g : Nat) : List Port := s.link.ports.filter (fun p => p.groups.contains g)

/-- The word shifted out to the link LEDs (R570). -/
def State.ledWord (s : State) : W32 :=
  BitVec.ofNat 32 (((List.range 16).map (fun g =>
    let green := (s.groupPorts g).any (fun p => p.state == .up)
    let amber := s.link.present.getLsbD g && ((s.groupPorts g).any (fun p => p.state != .up) || s.link.lanes.any (fun l => decide (l.num / 4 = g) && l.removed))
    bnat green * 2 ^ (2 * g + 1) + bnat amber * 2 ^ (2 * g))).sum)

/-- LED_SHIFT. -/
def execLedShift (s : State) : Out State := .next (s.settle (s.send (.ledWord s.ledWord)))

/-- What a status line shows: on, blinking at a rate in hertz, or off (R569). -/
inductive LedShow where
  | on
  | blinking (hertz : Nat)
  | off
  deriving DecidableEq, Repr

/-- LED_PWR_N, LED_FAULT_N and LED_LOCATE_N (R569). -/
def State.ledPower (s : State) : LedShow :=
  if s.boot.inReset then .off else match s.boot.state with
    | .ready => .on
    | .booting => .blinking 1
    | .safe => .blinking 4
def State.ledFault (s : State) : LedShow :=
  if s.halt.halted || s.trip.tripped || s.trip.pinLow || s.boot.state == .safe then .on else if s.host.attention then .blinking 2 else .off
def State.ledLocate (s : State) : LedShow := if s.host.locate then .on else if s.host.parked then .blinking 1 else .off

end Sys2Proof.Machine
end

