-- ==== Sys2Proof/Machine/QueueUnit.lean ====
section
/-! DEFINITION. Inter-island queues (R441 to R445): words, pointers and their Gray-coded crossings, the FULL and EMPTY flags, flushes, and the decoding of what is read. -/
namespace Sys2Proof.Machine

/-- The modulus of a queue's pointers: (n + 1) bits. -/
def Iiq.modulus (q : Iiq) : Nat := 2 ^ (q.logDepth + 1)

/-- Gray code of a pointer (R441). -/
def gray (b : Nat) : Nat := b ^^^ (b / 2)

/-- The queue with its flags formed anew: the writing side compares its pointer with its copy of the read pointer, the reading side with its copy of the write pointer (R442). -/
def Iiq.flags (q : Iiq) : Iiq :=
  { q with
    full := decide ((q.wptr + q.modulus - q.rptrAtWriter) % q.modulus = 2 ^ q.logDepth)
    empty := decide (q.rptr = q.wptrAtReader) }

/-- A word enters the storage. -/
def Iiq.put (q : Iiq) (w : QWord) : Iiq := { q with store := q.store ++ [w], wptr := (q.wptr + 1) % q.modulus }.flags

/-- Words held back enter while FULL is clear; fuel bounds their number. -/
def Iiq.letIn : Nat → Iiq → Iiq
  | 0, q => q
  | n + 1, q => match q.heldBack with
    | [] => q
    | w :: rest => if q.full then q else Iiq.letIn n ({ q with heldBack := rest }.put w)

/-- The words of the packet that the reader is inside, at the front of the queue. -/
def packetRest : List QWord → List QWord
  | [] => []
  | w :: ws => if w.eop then [w] else w :: packetRest ws

/-- A pending flush takes effect once the writer stands at a packet boundary (R444): whole packets beyond the one being read are discarded and counted. -/
def Iiq.flushNow (q : Iiq) : Iiq :=
  if !q.flushing || q.midWrite then q else
  let all := q.store ++ q.heldBack
  let keep := if q.midRead then packetRest all else []
  let gone := ((all.drop keep.length).filter (·.eop)).length
  let kept := keep.take (2 ^ q.logDepth)
  let seen := (q.wptrAtReader + q.modulus - q.rptr) % q.modulus
  let w := (q.rptr + kept.length) % q.modulus
  { q with
    store := kept
    heldBack := keep.drop (2 ^ q.logDepth)
    wptr := w
    wptrAtReader := if kept.length < seen then w else q.wptrAtReader
    flushing := false
    discarded := gone }.flags

/-- A queue's record changed. -/
def State.updIiq (s : State) (n : Nat) (f : Iiq → Iiq) : State :=
  { s with mem := { s.mem with iiqs := mapWhere (fun q => q.num == n) f s.mem.iiqs } }

/-- The 36 symbols that a write brings: as given, or 32 data bytes with their check bytes formed. -/
def queueSymbols (data : List Byte) : List Byte := if data.length = 36 then data else wordSymbols (padTo 32 data)

/-- A writing side puts a word into a queue; the rest of a packet that the reading block discards is dropped (R442, R445). -/
def Iiq.write (q : Iiq) (w : QWord) : Iiq :=
  let q1 := { q with midWrite := !w.eop }
  (if q.dropping then { q1 with dropping := !w.eop }
   else if q.full || !q.heldBack.isEmpty then { q1 with heldBack := q.heldBack ++ [w] } else q1.put w).flushNow

/-- IIQ_WRITE (R442). -/
def execIiqWrite (queue : Nat) (data : List Byte) (sop eop : Bool) (s : State) : Out State :=
  .next (s.settle (s.updIiq queue (fun q => q.write ⟨queueSymbols data, sop, eop⟩)))

/-- The packet at the front is discarded up to its last word, and what is still to be written of it. -/
def Iiq.dropPacket (q : Iiq) : Iiq :=
  let n := (packetRest q.store).length
  let whole := (packetRest q.store).any (·.eop)
  let m := if whole then 0 else (packetRest q.heldBack).length
  let whole2 := whole || (packetRest q.heldBack).any (·.eop)
  let r := (q.rptr + n) % q.modulus
  { q with store := q.store.drop n, rptr := r, wptrAtReader := q.wptr, heldBack := q.heldBack.drop m, dropping := !whole2, midRead := false }.flags

/-- The word at the front leaves the queue. -/
def Iiq.pop (q : Iiq) (w : QWord) (bad : Bool) : Iiq :=
  { q with store := q.store.drop 1, rptr := (q.rptr + 1) % q.modulus, midRead := !w.eop, lastRead := some w, uncorrected := bad }.flags

/-- IIQ_READ (R443, R445): VALID 0 while EMPTY. A corrected word is passed on corrected; an uncorrectable data word of the producing unit is passed on unchanged; an uncorrectable header or control word has
its packet discarded and raises the wave. -/
def execIiqRead (queue : Nat) (s : State) : Out State :=
  .next (s.settle (match s.mem.iiqs.find? (fun q => q.num == queue) with
    | none => s
    | some q => match if q.empty then none else q.store.head? with
      | none => s.updIiq queue (fun q => { q with lastRead := none, uncorrected := false })
      | some w =>
        let d := decodeWord w.symbols
        match d.1 with
        | .clean => s.updIiq queue (fun q => q.pop w false)
        | .corrected _ _ =>
          ({ s with mem := { s.mem with queueCorr := satAdd32 s.mem.queueCorr 1 } }).updIiq queue (fun q => q.pop { w with symbols := wordSymbols d.2 } false)
        | .uncorrectable =>
          let s1 := { s with mem := { s.mem with queueUncorr := satAdd16 s.mem.queueUncorr 1, lastIsland := BitVec.ofNat 8 q.island } }
          if q.producerWords && !w.sop then s1.updIiq queue (fun q => q.pop w true)
          else (s1.updIiq queue (fun q => { q.dropPacket with lastRead := none, uncorrected := false })).raiseWave 0x0C 0))

/-- IIQ_FLUSH (R444). -/
def execIiqFlush (queue : Nat) (s : State) : Out State :=
  .next (s.settle (s.updIiq queue (fun q => { q with flushing := true }.flushNow)))

/-- IIQ_POINTER_SYNC (R442): one side's pointer has passed the other's synchronisers; its flag is formed anew, and a writer's held-back words enter. -/
def execIiqPointerSync (queue : Nat) (toWriter : Bool) (s : State) : Out State :=
  .next (s.settle (s.updIiq queue (fun q =>
    if toWriter then
      let q1 := { q with rptrAtWriter := q.rptr }.flags
      (Iiq.letIn q1.heldBack.length q1).flushNow
    else { q with wptrAtReader := q.wptr }.flags)))

end Sys2Proof.Machine
end

