-- ==== Sys2Proof/Machine/Dispatch.lean ====
section
/-! DEFINITION. One arm per command: what each row of the opcode table does to the state, but for the queue of waiting commands. -/
namespace Sys2Proof.Machine

/-- The effect of a command on everything but the queue of waiting commands. -/
def exec (i : Instr) (s : State) : Host.Outcome State Fault Refusal :=
  match i with
  | .sysNop id => Sys2Proof.Machine.execSysNop id s
  | .sysQueueCreate id => Sys2Proof.Machine.execSysQueueCreate id s
  | .sysQueueDelete id => Sys2Proof.Machine.execSysQueueDelete id s
  | .sysQueueFlush id => Sys2Proof.Machine.execSysQueueFlush id s
  | .sysInfo id => Sys2Proof.Machine.execSysInfo id s
  | .sysDeadlines id => Sys2Proof.Machine.execSysDeadlines id s
  | .planLoad id => Sys2Proof.Machine.execPlanLoad id s
  | .planUnload id => Sys2Proof.Machine.execPlanUnload id s
  | .stepRun id => Sys2Proof.Machine.execStepRun id s
  | .planBarrier id => Sys2Proof.Machine.execPlanBarrier id s
  | .planAgree id => Sys2Proof.Machine.execPlanAgree id s
  | .graphShardSet id => Sys2Proof.Machine.execGraphShardSet id s
  | .graphShardClear id => Sys2Proof.Machine.execGraphShardClear id s
  | .graphJob id => Sys2Proof.Machine.execGraphJob id s
  | .graphSample id => Sys2Proof.Machine.execGraphSample id s
  | .graphAliasRebuild id => Sys2Proof.Machine.execGraphAliasRebuild id s
  | .graphAliasConfig id => Sys2Proof.Machine.execGraphAliasConfig id s
  | .graphAliasStatus id => Sys2Proof.Machine.execGraphAliasStatus id s
  | .graphFeatureSet id => Sys2Proof.Machine.execGraphFeatureSet id s
  | .graphFeatureClear id => Sys2Proof.Machine.execGraphFeatureClear id s
  | .graphGather id => Sys2Proof.Machine.execGraphGather id s
  | .graphAggregate id => Sys2Proof.Machine.execGraphAggregate id s
  | .graphAggregateBwd id => Sys2Proof.Machine.execGraphAggregateBwd id s
  | .graphScatter id => Sys2Proof.Machine.execGraphScatter id s
  | .matrixAccOpen id => Sys2Proof.Machine.execMatrixAccOpen id s
  | .matrixAccClose id => Sys2Proof.Machine.execMatrixAccClose id s
  | .matrixAccDiscard id => Sys2Proof.Machine.execMatrixAccDiscard id s
  | .matrixAccStatus id => Sys2Proof.Machine.execMatrixAccStatus id s
  | .matrixMatmul id => Sys2Proof.Machine.execMatrixMatmul id s
  | .cfgWide id => Sys2Proof.Machine.execCfgWide id s
  | .cfgScalePool id => Sys2Proof.Machine.execCfgScalePool id s
  | .cfgRatioSet id => Sys2Proof.Machine.execCfgRatioSet id s
  | .cfgNumRead id => Sys2Proof.Machine.execCfgNumRead id s
  | .vecMap id => Sys2Proof.Machine.execVecMap id s
  | .vecReduce id => Sys2Proof.Machine.execVecReduce id s
  | .vecNorm id => Sys2Proof.Machine.execVecNorm id s
  | .vecNormBwd id => Sys2Proof.Machine.execVecNormBwd id s
  | .vecSoftmax id => Sys2Proof.Machine.execVecSoftmax id s
  | .vecLoss id => Sys2Proof.Machine.execVecLoss id s
  | .vecDropout id => Sys2Proof.Machine.execVecDropout id s
  | .vecInit id => Sys2Proof.Machine.execVecInit id s
  | .vecRandomBits id => Sys2Proof.Machine.execVecRandomBits id s
  | .vecGumbel id => Sys2Proof.Machine.execVecGumbel id s
  | .funcApply id => Sys2Proof.Machine.execFuncApply id s
  | .funcDeriv id => Sys2Proof.Machine.execFuncDeriv id s
  | .funcLoadPair id => Sys2Proof.Machine.execFuncLoadPair id s
  | .funcClearPair id => Sys2Proof.Machine.execFuncClearPair id s
  | .funcReadPair id => Sys2Proof.Machine.execFuncReadPair id s
  | .vecRngSeed id => Sys2Proof.Machine.execVecRngSeed id s
  | .sparseMatmul id => Sys2Proof.Machine.execSparseMatmul id s
  | .sparseAccOpen id => Sys2Proof.Machine.execSparseAccOpen id s
  | .sparseSkim id => Sys2Proof.Machine.execSparseSkim id s
  | .sparseExpand id => Sys2Proof.Machine.execSparseExpand id s
  | .sparseCheck id => Sys2Proof.Machine.execSparseCheck id s
  | .embedTableSet id => Sys2Proof.Machine.execEmbedTableSet id s
  | .embedTableClear id => Sys2Proof.Machine.execEmbedTableClear id s
  | .embedPolicy id => Sys2Proof.Machine.execEmbedPolicy id s
  | .embedLookup id => Sys2Proof.Machine.execEmbedLookup id s
  | .embedLookupBwd id => Sys2Proof.Machine.execEmbedLookupBwd id s
  | .embedApply id => Sys2Proof.Machine.execEmbedApply id s
  | .updateShardSet id => Sys2Proof.Machine.execUpdateShardSet id s
  | .updateShardClear id => Sys2Proof.Machine.execUpdateShardClear id s
  | .updateHyperTable id => Sys2Proof.Machine.execUpdateHyperTable id s
  | .updateStepSet id => Sys2Proof.Machine.execUpdateStepSet id s
  | .updateRun id => Sys2Proof.Machine.execUpdateRun id s
  | .cfgLinkPorts id => Sys2Proof.Machine.execCfgLinkPorts id s
  | .cfgLinkRoute id => Sys2Proof.Machine.execCfgLinkRoute id s
  | .cfgLinkRanks id => Sys2Proof.Machine.execCfgLinkRanks id s
  | .cfgLinkPolicy id => Sys2Proof.Machine.execCfgLinkPolicy id s
  | .cfgLinkRetrain id => Sys2Proof.Machine.execCfgLinkRetrain id s
  | .collConfig id => Sys2Proof.Machine.execCollConfig id s
  | .collReduceScatter id => Sys2Proof.Machine.execCollReduceScatter id s
  | .collAllGather id => Sys2Proof.Machine.execCollAllGather id s
  | .collAllReduce id => Sys2Proof.Machine.execCollAllReduce id s
  | .collAllToAll id => Sys2Proof.Machine.execCollAllToAll id s
  | .memInfo id => Sys2Proof.Machine.execMemInfo id s
  | .memShare id => Sys2Proof.Machine.execMemShare id s
  | .memPolicy id => Sys2Proof.Machine.execMemPolicy id s
  | .memRemapRead id => Sys2Proof.Machine.execMemRemapRead id s
  | .memRetrain id => Sys2Proof.Machine.execMemRetrain id s
  | .memCacheSplit id => Sys2Proof.Machine.execMemCacheSplit id s
  | .memCacheFlush id => Sys2Proof.Machine.execMemCacheFlush id s
  | .memStackArea id => Sys2Proof.Machine.execMemStackArea id s
  | .memCopy id => Sys2Proof.Machine.execMemCopy id s
  | .memFill id => Sys2Proof.Machine.execMemFill id s
  | .memAtomic id => Sys2Proof.Machine.execMemAtomic id s
  | .powerCap id => Sys2Proof.Machine.execPowerCap id s
  | .powerClock id => Sys2Proof.Machine.execPowerClock id s
  | .powerHint id => Sys2Proof.Machine.execPowerHint id s
  | .healthPolicy id => Sys2Proof.Machine.execHealthPolicy id s
  | .healthTest id => Sys2Proof.Machine.execHealthTest id s
  | .healthClearHalt id sinceHalt => Sys2Proof.Machine.execHealthClearHalt id sinceHalt s
  | .healthRetire id => Sys2Proof.Machine.execHealthRetire id s
  | .telemRing id => Sys2Proof.Machine.execTelemRing id s
  | .telemCounters id => Sys2Proof.Machine.execTelemCounters id s
  | .ctxSize id => Sys2Proof.Machine.execCtxSize id s
  | .ctxSave id => Sys2Proof.Machine.execCtxSave id s
  | .ctxRestore id => Sys2Proof.Machine.execCtxRestore id s
  | .cfgStaezRead id => Sys2Proof.Machine.execCfgStaezRead id s
  | .cfgStaezWrite id => Sys2Proof.Machine.execCfgStaezWrite id s
  | .cfgCairnRead id => Sys2Proof.Machine.execCfgCairnRead id s
  | .cfgBootClear id => Sys2Proof.Machine.execCfgBootClear id s
  | .secCertRead id => Sys2Proof.Machine.execSecCertRead id s
  | .secQuote id => Sys2Proof.Machine.execSecQuote id s
  | .secExtend id => Sys2Proof.Machine.execSecExtend id s
  | .secImageWrite id => Sys2Proof.Machine.execSecImageWrite id s
  | .secImageStatus id => Sys2Proof.Machine.execSecImageStatus id s
  | .secFuseCommit id => Sys2Proof.Machine.execSecFuseCommit id s
  | .secCustomerKey id => Sys2Proof.Machine.execSecCustomerKey id s
  | .secDebugChallenge id => Sys2Proof.Machine.execSecDebugChallenge id s
  | .secDebugUnlock id => Sys2Proof.Machine.execSecDebugUnlock id s
  | .jtagDebugUnlock token => Sys2Proof.Machine.execJtagDebugUnlock token s
  | .jtagChipReset => Sys2Proof.Machine.execJtagChipReset s
  | .hstSqDoorbell q value => Sys2Proof.Machine.execHstSqDoorbell q value s
  | .takePacket q => Sys2Proof.Machine.execTakePacket q s
  | .deferredStart id => Sys2Proof.Machine.execDeferredStart id s
  | .commandComplete id runTime => Sys2Proof.Machine.execCommandComplete id runTime s
  | .commandDeadline id => Sys2Proof.Machine.execCommandDeadline id s
  | .popReply q offset length => Sys2Proof.Machine.execPopReply q offset length s
  | .rqStall q => Sys2Proof.Machine.execRqStall q s
  | .responseCoalesceTimer q => Sys2Proof.Machine.execResponseCoalesceTimer q s
  | .stepBegin => Sys2Proof.Machine.execStepBegin s
  | .planEntryStart entry => Sys2Proof.Machine.execPlanEntryStart entry s
  | .planEntryComplete entry => Sys2Proof.Machine.execPlanEntryComplete entry s
  | .stepDeadline => Sys2Proof.Machine.execStepDeadline s
  | .hopComplete id => Sys2Proof.Machine.execHopComplete id s
  | .batchSendTimer owner => Sys2Proof.Machine.execBatchSendTimer owner s
  | .expansionRequest src r => Sys2Proof.Machine.execExpansionRequest src r s
  | .expansionResponse src r => Sys2Proof.Machine.execExpansionResponse src r s
  | .rowRequest src rs => Sys2Proof.Machine.execRowRequest src rs s
  | .rowResponse src r => Sys2Proof.Machine.execRowResponse src r s
  | .lookupRequest src rs => Sys2Proof.Machine.execLookupRequest src rs s
  | .lookupResponse src r => Sys2Proof.Machine.execLookupResponse src r s
  | .contributionReceive src c => Sys2Proof.Machine.execContributionReceive src c s
  | .contributionAck src tag status => Sys2Proof.Machine.execContributionAck src tag status s
  | .scatterBarrierPass => Sys2Proof.Machine.execScatterBarrierPass s
  | .updateBarrierPass => Sys2Proof.Machine.execUpdateBarrierPass s
  | .subscriptionRequest src table key => Sys2Proof.Machine.execSubscriptionRequest src table key s
  | .migrationCopy m => Sys2Proof.Machine.execMigrationCopy m s
  | .migrationAck src table key accepted => Sys2Proof.Machine.execMigrationAck src table key accepted s
  | .relocationNotice r => Sys2Proof.Machine.execRelocationNotice r s
  | .replicaRefresh src table key tenure weights => Sys2Proof.Machine.execReplicaRefresh src table key tenure weights s
  | .stepBoundary => Sys2Proof.Machine.execStepBoundary s
  | .barrierDeadline => Sys2Proof.Machine.execBarrierDeadline s
  | .barrierFlagReceive f waited => Sys2Proof.Machine.execBarrierFlagReceive f waited s
  | .collPieceReceive p => Sys2Proof.Machine.execCollPieceReceive p s
  | .collEntryTransferStart id => Sys2Proof.Machine.execCollEntryTransferStart id s
  | .collComplete id waited => Sys2Proof.Machine.execCollComplete id waited s
  | .haltCellReceive port c => Sys2Proof.Machine.execHaltCellReceive port c s
  | .hstHaltReq value => Sys2Proof.Machine.execHstHaltReq value s
  | .aliasRebuildFinish shard => Sys2Proof.Machine.execAliasRebuildFinish shard s
  | .aliasRebuildFail shard nodesLeft => Sys2Proof.Machine.execAliasRebuildFail shard nodesLeft s
  | .domainOnDone ridge => Sys2Proof.Machine.execDomainOnDone ridge s
  | .matrixDomainIdleOff ridge => Sys2Proof.Machine.execMatrixDomainIdleOff ridge s
  | .cellReceive lane seq symbols => Sys2Proof.Machine.execCellReceive lane seq symbols s
  | .controlSlotReceive slotLane c => Sys2Proof.Machine.execControlSlotReceive slotLane c s
  | .replayTimer port => Sys2Proof.Machine.execReplayTimer port s
  | .laneLossOfLock lane => Sys2Proof.Machine.execLaneLossOfLock lane s
  | .widthSwitch port => Sys2Proof.Machine.execWidthSwitch port s
  | .restripeDone port => Sys2Proof.Machine.execRestripeDone port s
  | .laneMarginal lane cells corrected uncorrectable => Sys2Proof.Machine.execLaneMarginal lane cells corrected uncorrectable s
  | .laneRejoin t => Sys2Proof.Machine.execLaneRejoin t s
  | .packetReceive port p => Sys2Proof.Machine.execPacketReceive port p s
  | .escapeWait port vc => Sys2Proof.Machine.execEscapeWait port vc s
  | .batchReassembled src vc tag => Sys2Proof.Machine.execBatchReassembled src vc tag s
  | .cablePresenceChange group present => Sys2Proof.Machine.execCablePresenceChange group present s
  | .trainingAttempt port => Sys2Proof.Machine.execTrainingAttempt port s
  | .trainingComplete port r => Sys2Proof.Machine.execTrainingComplete port r s
  | .trainingDeadline port => Sys2Proof.Machine.execTrainingDeadline port s
  | .trainingRetryTimer port => Sys2Proof.Machine.execTrainingRetryTimer port s
  | .authMessageReceive port m => Sys2Proof.Machine.execAuthMessageReceive port m s
  | .authTimeout port => Sys2Proof.Machine.execAuthTimeout port s
  | .gatewayAck chip tag offset error => Sys2Proof.Machine.execGatewayAck chip tag offset error s
  | .gatewayReadData chip tag offset last error data => Sys2Proof.Machine.execGatewayReadData chip tag offset last error data s
  | .paceTagTick inputs => Sys2Proof.Machine.execPaceTagTick inputs s
  | .estimatorTick counts => Sys2Proof.Machine.execEstimatorTick counts s
  | .calibrationTick amps volts shareWatts ok disturbed => Sys2Proof.Machine.execCalibrationTick amps volts shareWatts ok disturbed s
  | .governorTick => Sys2Proof.Machine.execGovernorTick s
  | .railSettled => Sys2Proof.Machine.execRailSettled s
  | .droopDetect ridge => Sys2Proof.Machine.execDroopDetect ridge s
  | .droopStretchEnd ridge => Sys2Proof.Machine.execDroopStretchEnd ridge s
  | .guardWindow long share => Sys2Proof.Machine.execGuardWindow long share s
  | .junctionSensorRead readings => Sys2Proof.Machine.execJunctionSensorRead readings s
  | .thermalTrip sensor temp => Sys2Proof.Machine.execThermalTrip sensor temp s
  | .tripPowerOff => Sys2Proof.Machine.execTripPowerOff s
  | .railFault => Sys2Proof.Machine.execRailFault s
  | .refclkLoss => Sys2Proof.Machine.execRefclkLoss s
  | .stewardHeartbeatTimeout => Sys2Proof.Machine.execStewardHeartbeatTimeout s
  | .memTempRead port reading => Sys2Proof.Machine.execMemTempRead port reading s
  | .memTimingSample port margin => Sys2Proof.Machine.execMemTimingSample port margin s
  | .memPortRetrainDone port ok margin => Sys2Proof.Machine.execMemPortRetrainDone port ok margin s
  | .memWriteBatchSend channel => Sys2Proof.Machine.execMemWriteBatchSend channel s
  | .addBufferEvict port sector => Sys2Proof.Machine.execAddBufferEvict port sector s
  | .memorySideAdd id r => Sys2Proof.Machine.execMemorySideAdd id r s
  | .sliceAtomic id r => Sys2Proof.Machine.execSliceAtomic id r s
  | .rowRemap port => Sys2Proof.Machine.execRowRemap port s
  | .remapFlashWrite => Sys2Proof.Machine.execRemapFlashWrite s
  | .gddrScrub port channel row => Sys2Proof.Machine.execGddrScrub port channel row s
  | .scratchPatrol ridge word => Sys2Proof.Machine.execScratchPatrol ridge word s
  | .cachePatrol slice word => Sys2Proof.Machine.execCachePatrol slice word s
  | .quarantineCopyDone => Sys2Proof.Machine.execQuarantineCopyDone s
  | .selfTestDone id failures => Sys2Proof.Machine.execSelfTestDone id failures s
  | .imageWriteDone ok => Sys2Proof.Machine.execImageWriteDone ok s
  | .flashSectorEraseDone => Sys2Proof.Machine.execFlashSectorEraseDone s
  | .hstTelemTail value => Sys2Proof.Machine.execHstTelemTail value s
  | .iiqWrite queue data sop eop => Sys2Proof.Machine.execIiqWrite queue data sop eop s
  | .iiqRead queue => Sys2Proof.Machine.execIiqRead queue s
  | .iiqFlush queue => Sys2Proof.Machine.execIiqFlush queue s
  | .windowRead offset length => Sys2Proof.Machine.execWindowRead offset length s
  | .windowWrite offset data => Sys2Proof.Machine.execWindowWrite offset data s
  | .hstReset value => Sys2Proof.Machine.execHstReset value s
  | .serviceLocateWrite locate => Sys2Proof.Machine.execServiceLocateWrite locate s
  | .parkCancel => Sys2Proof.Machine.execParkCancel s
  | .mailboxGo value => Sys2Proof.Machine.execMailboxGo value s
  | .mailboxDone id runTime => Sys2Proof.Machine.execMailboxDone id runTime s
  | .rcRead offset length => Sys2Proof.Machine.execRcRead offset length s
  | .registerWrite offset data => Sys2Proof.Machine.execRegisterWrite offset data s
  | .configRequest r => Sys2Proof.Machine.execConfigRequest r s
  | .d3hotEntry => Sys2Proof.Machine.execD3hotEntry s
  | .d0Return => Sys2Proof.Machine.execD0Return s
  | .mgtId => Sys2Proof.Machine.execMgtId s
  | .mgtBoot => Sys2Proof.Machine.execMgtBoot s
  | .mgtTemp => Sys2Proof.Machine.execMgtTemp s
  | .mgtPower => Sys2Proof.Machine.execMgtPower s
  | .mgtBoardCap write value pecOk => Sys2Proof.Machine.execMgtBoardCap write value pecOk s
  | .mgtEstop value pecOk => Sys2Proof.Machine.execMgtEstop value pecOk s
  | .mgtReset value pecOk => Sys2Proof.Machine.execMgtReset value pecOk s
  | .mgtLocate write value pecOk => Sys2Proof.Machine.execMgtLocate write value pecOk s
  | .mgtAttn write value pecOk => Sys2Proof.Machine.execMgtAttn write value pecOk s
  | .mgtAttnMask write value pecOk => Sys2Proof.Machine.execMgtAttnMask write value pecOk s
  | .mgtBootClear data pecOk => Sys2Proof.Machine.execMgtBootClear data pecOk s
  | .mgtStaezData unit data pecOk => Sys2Proof.Machine.execMgtStaezData unit data pecOk s
  | .mgtStaezCommit value pecOk => Sys2Proof.Machine.execMgtStaezCommit value pecOk s
  | .mgtStaezStatus => Sys2Proof.Machine.execMgtStaezStatus s
  | .mgtCairnLast => Sys2Proof.Machine.execMgtCairnLast s
  | .mgtCairnLastHi => Sys2Proof.Machine.execMgtCairnLastHi s
  | .mgtAlertRelease => Sys2Proof.Machine.execMgtAlertRelease s
  | .buttonPress => Sys2Proof.Machine.execButtonPress s
  | .buttonRelease heldMs => Sys2Proof.Machine.execButtonRelease heldMs s
  | .buttonHold => Sys2Proof.Machine.execButtonHold s
  | .ledShift => Sys2Proof.Machine.execLedShift s
  | .powerOnReset => Sys2Proof.Machine.execPowerOnReset s
  | .pcieReset => Sys2Proof.Machine.execPcieReset s
  | .resetRelease => Sys2Proof.Machine.execResetRelease s
  | .bootStepStart elapsed => Sys2Proof.Machine.execBootStepStart elapsed s
  | .bootStepEnd r elapsed => Sys2Proof.Machine.execBootStepEnd r elapsed s
  | .bootStepTimeout elapsed => Sys2Proof.Machine.execBootStepTimeout elapsed s
  | .bootPolicyReset => Sys2Proof.Machine.execBootPolicyReset s
  | .bootWatchdog => Sys2Proof.Machine.execBootWatchdog s
  | .coreFault => Sys2Proof.Machine.execCoreFault s
  | .iiqPointerSync queue toWriter => Sys2Proof.Machine.execIiqPointerSync queue toWriter s
  | .droopCleared => Sys2Proof.Machine.execDroopCleared s
  | .smbusClockTimeout => Sys2Proof.Machine.execSmbusClockTimeout s
  | .mgtStaezWriteDone => Sys2Proof.Machine.execMgtStaezWriteDone s
  | .subscriptionRefused src table key => Sys2Proof.Machine.execSubscriptionRefused src table key s
  | .unsubscribe src table key => Sys2Proof.Machine.execUnsubscribe src table key s

end Sys2Proof.Machine
end

