-- ==== Sys2Proof/Safety.lean ====
section
/-! DEFINITION. What a run that goes well is, in the terms in which statements are written: when a command is ready, how it runs and ends, what follows every command, the invariants of the chip, and the canonical form
of its memory. -/
namespace Sys2Proof.Machine

/-! ### Commands -/

/-- The state in which a command has begun to run. -/
def State.begun (s : State) (id : Nat) : State := s.setStage id .running

/-- The command of a number may start, has the frame c, and passes every check of its row (R46). -/
def Ready (s : State) (i : OpInfo) (id : Nat) (c : Ctx) : Prop := ∃ k, s.startable id i.code = some k ∧ s.ctxOf k = c ∧ i.check s c = none

/-- The row's effect is the state u, settled as every state is that a command leaves. -/
def Runs (i : Instr) (s u : State) : Prop := exec i s = .next (s.settle u)

/-- The row's effect is the state u, and the command of a number ends with a result. -/
def Ends (i : Instr) (s : State) (id : Nat) (r : Result) (u : State) : Prop := Runs i s (u.endCmd id r)

/-- The command with readable operands that computes o ends with OK and leaves the state that the reads, the counts, the history and the writes of o leave. -/
def Commits (i : Instr) (s : State) (id : Nat) (c : Ctx) (reads : List (Nat × Nat)) (o : VecOut) : Prop :=
  ∀ w, (s.readAll reads).good = true → o.fail = none →
    w = (((((s.begun id).noteReads 0 reads).countNonfinite o.nonfinite).countConv c o.conv).recordHistory c o.es).storeAll 0 o.writes →
    writeStatus w.2 = none → Ends i s id resOK w.1

/-- The check list of each command row whose only condition for starting is its own turn, with the packet's number; the rows that wait for a group, a function pair, a barrier or the collectives before them are left out. -/
def commandInfo : Instr → Option (Nat × OpInfo)
  | .cfgStaezRead id => some (id, cfgStaezReadInfo)
  | .cfgStaezWrite id => some (id, cfgStaezWriteInfo)
  | .cfgCairnRead id => some (id, cfgCairnReadInfo)
  | .cfgBootClear id => some (id, cfgBootClearInfo)
  | .collConfig id => some (id, collConfigInfo)
  | .ctxSize id => some (id, ctxSizeInfo)
  | .ctxSave id => some (id, ctxSaveInfo)
  | .ctxRestore id => some (id, ctxRestoreInfo)
  | .embedTableSet id => some (id, embedTableSetInfo)
  | .embedTableClear id => some (id, embedTableClearInfo)
  | .embedLookup id => some (id, embedLookupInfo)
  | .graphFeatureSet id => some (id, graphFeatureSetInfo)
  | .graphFeatureClear id => some (id, graphFeatureClearInfo)
  | .graphGather id => some (id, graphGatherInfo)
  | .graphAggregate id => some (id, graphAggregateInfo)
  | .graphAggregateBwd id => some (id, graphAggregateBwdInfo)
  | .graphShardSet id => some (id, graphShardSetInfo)
  | .graphShardClear id => some (id, graphShardClearInfo)
  | .graphJob id => some (id, graphJobInfo)
  | .graphSample id => some (id, graphSampleInfo)
  | .graphAliasRebuild id => some (id, graphAliasRebuildInfo)
  | .graphAliasConfig id => some (id, graphAliasConfigInfo)
  | .graphAliasStatus id => some (id, graphAliasStatusInfo)
  | .healthPolicy id => some (id, healthPolicyInfo)
  | .healthTest id => some (id, healthTestInfo)
  | .healthClearHalt id us => some (id, (healthClearHaltInfo us))
  | .healthRetire id => some (id, healthRetireInfo)
  | .telemRing id => some (id, telemRingInfo)
  | .telemCounters id => some (id, telemCountersInfo)
  | .embedLookupBwd id => some (id, embedLookupBwdInfo)
  | .embedApply id => some (id, embedApplyInfo)
  | .embedPolicy id => some (id, embedPolicyInfo)
  | .cfgLinkPorts id => some (id, cfgLinkPortsInfo)
  | .cfgLinkRoute id => some (id, cfgLinkRouteInfo)
  | .cfgLinkRanks id => some (id, cfgLinkRanksInfo)
  | .cfgLinkPolicy id => some (id, cfgLinkPolicyInfo)
  | .cfgLinkRetrain id => some (id, cfgLinkRetrainInfo)
  | .matrixAccStatus id => some (id, (groupOnly 0x3004))
  | .sparseSkim id => some (id, sparseSkimInfo)
  | .sparseExpand id => some (id, sparseExpandInfo)
  | .sparseCheck id => some (id, sparseCheckInfo)
  | .memInfo id => some (id, memInfoInfo)
  | .memShare id => some (id, memShareInfo)
  | .memPolicy id => some (id, memPolicyInfo)
  | .memRemapRead id => some (id, memRemapReadInfo)
  | .memRetrain id => some (id, memRetrainInfo)
  | .memCacheSplit id => some (id, memCacheSplitInfo)
  | .memCacheFlush id => some (id, memCacheFlushInfo)
  | .memStackArea id => some (id, memStackAreaInfo)
  | .memCopy id => some (id, memCopyInfo)
  | .memFill id => some (id, memFillInfo)
  | .memAtomic id => some (id, memAtomicInfo)
  | .cfgWide id => some (id, cfgWideInfo)
  | .cfgScalePool id => some (id, cfgScalePoolInfo)
  | .cfgRatioSet id => some (id, cfgRatioSetInfo)
  | .cfgNumRead id => some (id, cfgNumReadInfo)
  | .planLoad id => some (id, planLoadInfo)
  | .planUnload id => some (id, planUnloadInfo)
  | .powerCap id => some (id, powerCapInfo)
  | .powerClock id => some (id, powerClockInfo)
  | .powerHint id => some (id, powerHintInfo)
  | .graphScatter id => some (id, graphScatterInfo)
  | .secCertRead id => some (id, secCertReadInfo)
  | .secQuote id => some (id, secQuoteInfo)
  | .secExtend id => some (id, secExtendInfo)
  | .secImageWrite id => some (id, secImageWriteInfo)
  | .secImageStatus id => some (id, secImageStatusInfo)
  | .secFuseCommit id => some (id, secFuseCommitInfo)
  | .secCustomerKey id => some (id, secCustomerKeyInfo)
  | .secDebugChallenge id => some (id, secDebugChallengeInfo)
  | .secDebugUnlock id => some (id, secDebugUnlockInfo)
  | .stepRun id => some (id, stepRunInfo)
  | .sysNop id => some (id, sysNopInfo)
  | .sysInfo id => some (id, sysInfoInfo)
  | .sysQueueCreate id => some (id, sysQueueCreateInfo)
  | .sysQueueDelete id => some (id, sysQueueDeleteInfo)
  | .sysQueueFlush id => some (id, sysQueueFlushInfo)
  | .sysDeadlines id => some (id, sysDeadlinesInfo)
  | .updateShardSet id => some (id, updateShardSetInfo)
  | .updateShardClear id => some (id, updateShardClearInfo)
  | .updateHyperTable id => some (id, updateHyperTableInfo)
  | .updateStepSet id => some (id, updateStepSetInfo)
  | .updateRun id => some (id, updateRunInfo)
  | .vecMap id => some (id, vecMapInfo)
  | .vecReduce id => some (id, vecReduceInfo)
  | .vecNorm id => some (id, vecNormInfo)
  | .vecNormBwd id => some (id, vecNormBwdInfo)
  | .vecSoftmax id => some (id, vecSoftmaxInfo)
  | .vecLoss id => some (id, vecLossInfo)
  | .vecDropout id => some (id, vecDropoutInfo)
  | .vecInit id => some (id, vecInitInfo)
  | .vecRandomBits id => some (id, vecRandomBitsInfo)
  | .vecGumbel id => some (id, vecGumbelInfo)
  | .vecRngSeed id => some (id, vecRngSeedInfo)
  | _ => none

/-! ### What follows every command -/

/-- Nothing that follows every step of the chip is due: no bank is flagged, no ridge is to leave register mode, no step runs, no barrier waits, no park pends, no port is to begin its authentication, every
message has left as packets, and no port has an acknowledgement or credit to send. -/
structure State.calm (s : State) : Prop where
  noFlag : s.mem.flagged = []
  modes : ∀ r ∈ s.ridges, s.normalRidge r = r
  noStep : s.plans.step = none
  noBarrier : s.plans.barrier = none
  noPark : s.host.park = false
  auths : ∀ x ∈ s.link.ports, x.state = .auth → x.authenticating = true ∨ 2 ≤ (s.link.ports.filter Port.authenticating).length
  posted : s.out.sent.length ≤ s.link.posted
  slots : ∀ x ∈ s.link.ports, x.slotDue = false

/-! ### Invariants -/

/-- Memory is in canonical form: addresses strictly rising, and no cell equal to what an unlisted address reads as. -/
def Memory.wf (m : Memory) : Bool := cellsWf m.cells

/-- Every sparse store of the chip is in canonical form: device memory, queue memory, the two mailbox buffers and the MSI-X table. -/
def State.storesWf (s : State) : Bool :=
  s.mem.wf && cellsWf s.queues.memory && cellsWf s.host.mboxReq && cellsWf s.host.mboxData && cellsWf s.host.msixTable

/-- An unmasked attention bit holds MGT_ALERT_N low (R564). -/
def State.AlertInv (s : State) : Prop := s.attentionUnmasked = true → s.mgt.alertLow = true

/-- A pending park is in force when no step runs or the chip is halted (R568). -/
def State.ParkInv (s : State) : Prop := s.host.park = true → (s.stepRunning = false ∨ s.isHalted = true) → s.host.parked = true

/-- No flagged bank waits when no step runs, the chip is not halted and no group is open (R474). -/
def State.FlagInv (s : State) : Prop := s.stepRunning = false → s.isHalted = false → s.matrix.groups = [] → s.mem.flagged = []

/-! ### Safe runs -/

/-- A step is safe: it answers a next state. -/
def safeStep (s : State) : Prop := ∃ t, step s = .next t

/-- n steps from a state answer next states alone. -/
def safeRun : Nat → State → Prop
  | 0, _ => True
  | n + 1, s => ∃ t, step s = .next t ∧ safeRun n t

end Sys2Proof.Machine
end

