-- ==== Sys2Proof/Certificates/Slice0/Obligations.lean ====
section
/-! DEFINITION. The statements for the provers: what each command row does when it is ready (the whole next state, so that its frame is part of it), and the rules of the whole chip. -/
open Sys2Proof Sys2Proof.Machine

/-- SYS: SYS.NOP, SYS.INFO, SYS.QUEUE_CREATE of both kinds, SYS.QUEUE_DELETE at once and waiting for the queue's other packets (R43), SYS.QUEUE_FLUSH of both kinds (R42), SYS.DEADLINES (R53). Each clause gives the whole state that the command leaves, so that nothing else changes. -/
def Obligations.SysCommandsComplete : Prop := ∀ (s : State) (id : Nat) (c : Ctx),
  (Ready s sysNopInfo id c → Ends (.sysNop id) s id resOK (s.begun id)) ∧
  (Ready s sysInfoInfo id c → Ends (.sysInfo id) s id (resIndex s.E) (s.begun id)) ∧
  (Ready s sysQueueCreateInfo id c → c.f 32 1 = 0 → Ends (.sysQueueCreate id) s id resOK
    { s.begun id with queues := { (s.begun id).queues with subs := s.queues.subs ++ [
        { num := c.f 33 1, logSize := c.f 34 1, offset := c.f 36 4, tail := 0, tailWrap := false, head := 0, headWrap := false, lag := 0, stalled := false, deleting := none }] } }) ∧
  (Ready s sysQueueCreateInfo id c → c.f 32 1 = 1 → Ends (.sysQueueCreate id) s id resOK
    { s.begun id with queues := { (s.begun id).queues with resps := s.queues.resps ++ [
        { num := c.f 33 1, logSize := c.f 34 1, offset := c.f 36 4, irq := decide (c.f 35 1 = 1), coalCount := c.f 40 2, coalTime := c.f 42 2, replies := [], reserved := 0, sinceSignal := 0 }] } }) ∧
  (Ready s sysQueueDeleteInfo id c → c.f 32 1 = 1 → Ends (.sysQueueDelete id) s id resOK
    { s.begun id with queues := { (s.begun id).queues with resps := s.queues.resps.filter (fun x => x.num != c.f 33 1) } }) ∧
  (Ready s sysQueueDeleteInfo id c → c.f 32 1 = 0 → (∀ d ∈ (s.begun id).queues.cmds, d.src = .queue (c.f 33 1) → d.id = c.id) → Ends (.sysQueueDelete id) s id resOK
    { s.begun id with queues := { (s.begun id).queues with subs := s.queues.subs.filter (fun x => x.num != c.f 33 1) } }) ∧
  (Ready s sysQueueDeleteInfo id c → c.f 32 1 = 0 → (∃ d ∈ (s.begun id).queues.cmds, d.src = .queue (c.f 33 1) ∧ d.id ≠ c.id) → Runs (.sysQueueDelete id) s
    ((s.begun id).updSub (c.f 33 1) (fun x => { x with deleting := some c.id }))) ∧
  (Ready s sysQueueFlushInfo id c → c.f 32 1 = 1 → Ends (.sysQueueFlush id) s id resOK
    ((s.begun id).updResp (c.f 33 1) (fun x => { x with replies := [], sinceSignal := 0 }))) ∧
  (∀ x, Ready s sysQueueFlushInfo id c → c.f 32 1 = 0 → s.sub? (c.f 33 1) = some x → Ends (.sysQueueFlush id) s id (resIndex ((s.begun id).skipPackets x.units x).1)
    ((s.begun id).updSub (c.f 33 1) (fun _ => ((s.begun id).skipPackets x.units x).2))) ∧
  (Ready s sysDeadlinesInfo id c → Ends (.sysDeadlines id) s id resOK
    { s.begun id with plans := { s.plans with deadlines := (List.range 12).map (fun i => c.f (32 + 4 * i) 4), barrierDeadline := c.f 80 4 } })

/-- PLAN and STEP: PLAN.LOAD of a good image (R64), PLAN.UNLOAD (R67), STEP.RUN which waits for its step (R65) or is refused on a parked chip (R568), PLAN.BARRIER of both kinds (R63) and PLAN.AGREE (R61) as plan entries, and directly submitted, where they end with BAD_PARAM. -/
def Obligations.PlanCommandsComplete : Prop := ∀ (s : State) (id : Nat) (c : Ctx),
  (∀ img sc, Ready s planLoadInfo id c → img = (s.read (c.f 32 8) (c.f 40 4)).data → (s.read (c.f 32 8) (c.f 40 4)).good = true → headerOk img s.E = true →
    (s.begun id).scanImage img = .inr sc → s.storeUsed (c.f 44 1) + img.length ≤ 32 * 2 ^ 20 → s.planRunning (c.f 44 1) = false →
    Ends (.planLoad id) s id (((s.begun id).noteRead 0 (c.f 32 8) (c.f 40 4)).installPlan (c.f 44 1) img sc).2
      (((s.begun id).noteRead 0 (c.f 32 8) (c.f 40 4)).installPlan (c.f 44 1) img sc).1) ∧
  (Ready s planUnloadInfo id c → s.planRunning (c.f 32 1) = false → Ends (.planUnload id) s id resOK
    { s.begun id with
      plans := { s.plans with store := s.plans.store.filter (fun p => p.id != c.f 32 1) }
      num := { s.num with sets := s.num.sets.filter (fun x => x.plan != c.f 32 1), histories := s.num.histories.filter (fun h => h.plan != c.f 32 1) } }) ∧
  (Ready s planUnloadInfo id c → s.planRunning (c.f 32 1) = true → Ends (.planUnload id) s id (resStatus stBusy) (s.begun id)) ∧
  (Ready s stepRunInfo id c → (∃ p ∈ s.plans.store, p.id = c.f 32 1) → s.jobReady = true → s.host.parked = false → Runs (.stepRun id) s (s.begun id)) ∧
  (Ready s stepRunInfo id c → (∃ p ∈ s.plans.store, p.id = c.f 32 1) → s.jobReady = true → s.host.parked = true → Ends (.stepRun id) s id (resOf stBusy 0x19 0) (s.begun id)) ∧
  (Ready s planBarrierInfo id c → s.barrierHeld id = false → c.inPlan = true → c.f 32 1 = 1 →
    Runs (.planBarrier id) s { s.begun id with plans := { s.plans with barrier := some { kind := 1, cmd := some c.id, own := false, ups := [], sentUp := false, mask := 0, pace := s.halt.ownTag, slowRank := s.rank, passed := false } } }) ∧
  (Ready s planBarrierInfo id c → s.barrierHeld id = false → c.inPlan = true → c.f 32 1 = 0 →
    Runs (.planBarrier id) s
      (((((s.begun id).sendPremerges).1.sendBatches (fun _ => true)).atBarrier 0 c.id 0).awaitScatter ⟨c.id, [], [], ((s.begun id).sendPremerges).2, false, none⟩)) ∧
  (∀ k, s.startable id 0xF020 = some k → s.barrierHeld id = false → (s.ctxOf k).inPlan = false → planBarrierInfo.staticCheck k.pkt = none → Ends (.planBarrier id) s id (badParam 0 0) s) ∧
  (Ready s planAgreeInfo id c → s.barrierHeld id = false → c.inPlan = true →
    Runs (.planAgree id) s { s.begun id with plans := { s.plans with barrier := some { kind := 3, cmd := some c.id, own := false, ups := [], sentUp := false, mask := s.condBits &&& BitVec.ofNat 64 (c.f 32 8), pace := s.halt.ownTag, slowRank := s.rank, passed := false } } }) ∧
  (∀ k, s.startable id 0xF021 = some k → s.barrierHeld id = false → (s.ctxOf k).inPlan = false → planAgreeInfo.staticCheck k.pkt = none → Ends (.planAgree id) s id (badParam 0 0) s)

/-- The settings of the GRAPH family: GRAPH.SHARD_SET of a shard whose descriptor and first and last offsets are right, replacing the one of its ID (R75), GRAPH.SHARD_CLEAR, GRAPH.JOB (R582), GRAPH.ALIAS_CONFIG (R103), GRAPH.ALIAS_REBUILD (R102), GRAPH.ALIAS_STATUS of a shard with no rebuild, a finished one, a failed one, and a running one, whose pass and nodes left are free values (R78), GRAPH.FEATURE_SET and GRAPH.FEATURE_CLEAR. -/
def Obligations.GraphSettingsComplete : Prop := ∀ (s : State) (id : Nat) (c : Ctx),
  (∀ x, Ready s graphShardSetInfo id c → x = shardOf (s.read (c.f 32 8) 64).data → (s.read (c.f 32 8) 64).good = true →
    (s.readAll [(c.f 32 8, 64), (x.offsets, 8), (x.offsets + 8 * x.nodes, 8)]).good = true →
    leNat (s.read x.offsets 8).data = 0 → leNat (s.read (x.offsets + 8 * x.nodes) 8).data = x.edges →
    Ends (.graphShardSet id) s id resOK (let s1 := (s.begun id).noteReads 1 [(c.f 32 8, 64), (x.offsets, 8), (x.offsets + 8 * x.nodes, 8)]
      { s1 with graph := { s1.graph with shards := s1.graph.shards.filter (fun y => y.id != x.id) ++ [x] } })) ∧
  (Ready s graphShardClearInfo id c → Ends (.graphShardClear id) s id resOK { s.begun id with graph := { s.graph with shards := s.graph.shards.filter (fun y => y.id != c.f 32 1) } }) ∧
  (Ready s graphJobInfo id c → Ends (.graphJob id) s id resOK
    { s.begun id with graph := { s.graph with job := some (c.f 32 4, c.f 36 4), ranks := none }, coll := { s.coll with dims := [c.f 32 4] } }) ∧
  (Ready s graphAliasConfigInfo id c → Ends (.graphAliasConfig id) s id resOK { s.begun id with graph := { s.graph with aliasFloor := c.f 32 1 } }) ∧
  (Ready s graphAliasRebuildInfo id c → Ends (.graphAliasRebuild id) s id resOK
    ((s.begun id).updShard (c.f 32 1) (fun x => { x with stale := true, rebuild := .running 1 x.nodes }))) ∧
  (∀ x, Ready s graphAliasStatusInfo id c → s.shard? (c.f 32 1) = some x → x.rebuild = .idle → Ends (.graphAliasStatus id) s id resOK (s.begun id)) ∧
  (∀ x, Ready s graphAliasStatusInfo id c → s.shard? (c.f 32 1) = some x → x.rebuild = .waiting → Ends (.graphAliasStatus id) s id (resOf stOK 2 0) (s.begun id)) ∧
  (∀ x n, Ready s graphAliasStatusInfo id c → s.shard? (c.f 32 1) = some x → x.rebuild = .failed n →
    Ends (.graphAliasStatus id) s id { resIndex n with detail := detailOf 3 0 } (s.begun id)) ∧
  (∀ x p n, Ready s graphAliasStatusInfo id c → s.shard? (c.f 32 1) = some x → x.rebuild = .running p n →
    ∃ pass left, 1 ≤ pass ∧ pass ≤ 2 ∧ left ≤ n ∧ (pass = 1 → left = n) ∧
      Ends (.graphAliasStatus id) s id { resIndex left with detail := detailOf 1 pass } { s.begun id with free := s.free + 1 }) ∧
  (∀ t, Ready s graphFeatureSetInfo id c → (s.read (c.f 32 8) 64).good = true → t = ftableOf (s.read (c.f 32 8) 64).data →
    Ends (.graphFeatureSet id) s id resOK (let s1 := (s.begun id).noteRead 1 (c.f 32 8) 64
      { s1 with graph := { s1.graph with ftables := s1.graph.ftables.filter (fun y => y.id != t.id) ++ [t] } })) ∧
  (Ready s graphFeatureClearInfo id c → Ends (.graphFeatureClear id) s id resOK { s.begun id with graph := { s.graph with ftables := s.graph.ftables.filter (fun y => y.id != c.f 32 1) } })

/-- The data commands of the GRAPH family when their inputs can be read and no item fails. GRAPH.SAMPLE begins its hop, serving this chip's parents and asking the other owners (R85, R93), or waits for a stale alias table (R106); GRAPH.GATHER asks for its portions and writes once all are there (R112, R114); GRAPH.AGGREGATE and GRAPH.AGGREGATE_BWD write every parent's rows (R120, R124); GRAPH.SCATTER leaves its memory-side adds, its atomics, its contributions to embedding tables, or its adds in scratch in an order that is free (R126). -/
def Obligations.GraphDataCommandsComplete : Prop := ∀ (s b : State) (id : Nat) (c : Ctx), b = s.begun id →
  (∀ x, Ready s graphSampleInfo id c → s.shard? (c.f 32 1) = some x → (c.inPlan = true ∨ waitsForAlias (hopSpec c.pkt) x = false) →
    ((hopSpec c.pkt).hop = 1 ∨ (s.read (hopFrontier c.pkt) 64).good = true) → Runs (.graphSample id) s (b.beginHop c.id c.pkt x)) ∧
  (∀ x r, Ready s graphSampleInfo id c → s.shard? (c.f 32 1) = some x → (c.inPlan = true ∨ waitsForAlias (hopSpec c.pkt) x = false) → (hopSpec c.pkt).hop ≠ 1 → readStatus (s.read (hopFrontier c.pkt) 64) = some r →
    Ends (.graphSample id) s id r ((b.noteRead 1 (hopFrontier c.pkt) 64).writePoisonedLog s.step32 c.pkt)) ∧
  (∀ x, Ready s graphSampleInfo id c → s.shard? (c.f 32 1) = some x → c.inPlan = false → waitsForAlias (hopSpec c.pkt) x = true → x.rebuildFailed = false → Runs (.graphSample id) s b) ∧
  (∀ x, Ready s graphSampleInfo id c → s.shard? (c.f 32 1) = some x → c.inPlan = false → waitsForAlias (hopSpec c.pkt) x = true → x.rebuildFailed = true →
    Ends (.graphSample id) s id (resStatus stUncorrected) b) ∧
  (∀ t served a, Ready s graphGatherInfo id c → s.ftable? (c.f 32 1) = some t → (gaSource c.pkt = 1 ∨ (s.read (gaList c.pkt) 64).good = true) →
    served = (((b.gaItems c.pkt).zipIdx).flatMap (fun (vs, i) => listPortion s.rank i vs.2 ++ rowPortions s.rank i vs.1)).map (b.servePortion t (decide (gaMode c.pkt ≠ 0))) →
    a = ((b.noteReads 1 (b.gaListReads c.pkt ++ served.flatMap (·.2.1))).countNonfinite (served.foldl (fun n r => n + r.2.2) 0)).askPortions (c.f 32 1) (decide (gaMode c.pkt ≠ 0)) (served.map (·.1)) →
    Runs (.graphGather id) s (({ a.1 with graph := { a.1.graph with gathers := a.1.graph.gathers ++ [
      { cmd := c.id, items := (b.gaItems c.pkt).length, children := (b.gaItems c.pkt).map (·.1.length),
        poisoned := (decide (gaSource c.pkt = 0) && (b.pathLog (gaList c.pkt)).poisoned) || !(b.readAll (b.gaListReads c.pkt)).poisoned.isEmpty, portions := a.2 }] } } : State).finishGather c.id)) ∧
  (∀ t r, Ready s graphGatherInfo id c → s.ftable? (c.f 32 1) = some t → gaSource c.pkt ≠ 1 → readStatus (s.read (gaList c.pkt) 64) = some r →
    Ends (.graphGather id) s id r ((b.noteReads 1 [(gaList c.pkt, 64)]).poisonRanges 1 [(gaOut c.pkt, gaOutSize c.pkt)])) ∧
  (∀ per w, Ready s graphAggregateInfo id c → s.agHeadStatus c.pkt = none → s.agPoisoned c.pkt = false → per = ((b.agGroupsOf c.pkt).zipIdx).map (fun (g, i) => b.agForward c.pkt i g) →
    (∀ x ∈ per, x.1 = none) → w = ((b.noteReads 1 (b.agGroupReads c.pkt ++ per.flatMap (·.2.2.1))).countNonfinite (per.foldl (fun n x => n + x.2.2.2) 0)).storeAll 1 (per.flatMap (·.2.1)) →
    writeStatus w.2 = none → Ends (.graphAggregate id) s id resOK w.1) ∧
  (∀ per w, Ready s graphAggregateBwdInfo id c → s.agHeadStatus c.pkt = none → s.agPoisoned c.pkt = false → per = ((b.agGroupsOf c.pkt).zipIdx).map (fun (g, i) => b.agBackward c.pkt i g) →
    (∀ x ∈ per, x.1 = none) → w = ((b.noteReads 1 (b.agGroupReads c.pkt ++ per.flatMap (·.2.2.1))).countNonfinite (per.foldl (fun n x => n + x.2.2.2) 0)).storeAll 1 (per.flatMap (·.2.1)) →
    writeStatus w.2 = none → Ends (.graphAggregateBwd id) s id resOK w.1) ∧
  (∀ s1 fail, Ready s graphScatterInfo id c → (scIndex c.pkt = 2 ∨ (s.read (scList c.pkt) 64).uncorr = []) → fail = (b.scRowsOf c.pkt).2.foldl lowerFail none →
    s1 = (b.noteReads 1 (b.scListReads c.pkt ++ (List.range (b.scEntries c.pkt)).map (scSrcRange c.pkt))).issued c →
    (c.f 32 1 = 1 → Runs (.graphScatter id) s (s1.awaitScatter ⟨c.id, [], (b.scRowsOf c.pkt).1.flatMap (entryAtoms c.pkt), [], b.scPoisoned c.pkt, fail⟩)) ∧
    (∀ k, c.f 32 1 = 0 → k = (scContributions s1.embed.policy.detMerge (scTy c.pkt) (b.scRowsOf c.pkt).1).run (0, 0) → inScratch (scDest c.pkt) = false →
      Runs (.graphScatter id) s ((s1.countAdds k.2).awaitScatter ⟨c.id, k.1.flatMap (sectorAdds c.pkt), [], [], b.scPoisoned c.pkt, fail⟩)) ∧
    (∀ k s2 r, c.f 32 1 = 0 → k = (scContributions s1.embed.policy.detMerge (scTy c.pkt) (b.scRowsOf c.pkt).1).run (0, 0) → inScratch (scDest c.pkt) = true → s2 = s1.countAdds k.2 →
      r = (arrivalOrder s2.free k.1).foldl (State.scratchAdd c.pkt) ({ s2 with free := s2.free + 1 }, []) →
      Runs (.graphScatter id) s (r.1.awaitScatter ⟨c.id, [], [], [], b.scPoisoned c.pkt, r.2.foldl lowerFail fail⟩)) ∧
    (∀ t k, c.f 32 1 = 2 → s1.etable? (scTable c.pkt) = some t → s1.embed.policy.detMerge = true →
      k = Contributed.scatter ⟨s1, [], []⟩ t (s1.originOf c) ((b.scRowsOf c.pkt).1.map (fun e => ⟨e.1, e.2.1, e.2.2⟩)) →
      Runs (.graphScatter id) s (k.state.awaitScatter ⟨c.id, [], [], k.acks, b.scPoisoned c.pkt, k.fails.foldl lowerFail fail⟩)) ∧
    (∀ t xs k, c.f 32 1 = 2 → s1.etable? (scTable c.pkt) = some t → s1.embed.policy.detMerge = false → xs = (scContributions false (scTy c.pkt) (b.scRowsOf c.pkt).1).run (0, 0) →
      k = Contributed.scatter ⟨s1.countAdds xs.2, [], []⟩ t (s1.originOf c) xs.1 →
      Runs (.graphScatter id) s (k.state.awaitScatter ⟨c.id, [], [], k.acks, b.scPoisoned c.pkt, k.fails.foldl lowerFail fail⟩)))

/-- The events of graph sampling and row serving. A hop whose parents are all served writes its log and ends (R90, R98). Open batches to an owner leave as messages (R94). A request of the owner's own step is served and answered, one of its next step is held, any other is answered STEP_MISMATCH (R96); a weighted request on a stale shard is held (R106). An answer serves the parent that its TAG names, and further requests follow (R97). A finished alias rebuild becomes current at once when no step runs (R104), and waits for the boundary otherwise; a failed one leaves the shard stale (R102). -/
def Obligations.GraphEventsComplete : Prop := ∀ (s : State),
  (∀ id c h, s.runningCtx id = some c → s.hop? id = some h → h.parents.all HopParent.done = true → Ends (.hopComplete id) s id h.result
    (let s1 := s.writeLog c.pkt h h.result.failed
     { s1 with graph := { s1.graph with hops := s1.graph.hops.filter (fun k => k.cmd != id) } })) ∧
  (∀ owner, Runs (.batchSendTimer owner) s ((s.out.batches.filter (fun b => b.owner == owner)).foldl (fun s b => s.send b.message)
    { s with out := { s.out with batches := s.out.batches.filter (fun b => !(b.owner == owner)) } })) ∧
  (∀ src r, s.isHalted = false → r.step = (s.step32 + 1) % 2 ^ 32 → Runs (.expansionRequest src r) s { s with graph := { s.graph with held := s.graph.held ++ [.expansion src r] } }) ∧
  (∀ src r, s.isHalted = false → r.step ≠ (s.step32 + 1) % 2 ^ 32 → r.step ≠ s.step32 → Runs (.expansionRequest src r) s (s.send (.expansionAnswer src ⟨r.tag, stStepMismatch, 0, false, []⟩))) ∧
  (∀ src r x, s.isHalted = false → r.step = s.step32 → s.shard? r.shard = some x → (r.kind ≠ 1 ∨ r.staleOk = true ∨ x.stale = false) →
    Runs (.expansionRequest src r) s (((s.noteReads 1 (s.answerExpansion r).2.1).countFaults r.shard (s.answerExpansion r).2.2).send (.expansionAnswer src (s.answerExpansion r).1))) ∧
  (∀ src r x, s.isHalted = false → r.step = s.step32 → s.shard? r.shard = some x → r.kind = 1 → r.staleOk = false → x.stale = true → x.rebuildFailed = false →
    Runs (.expansionRequest src r) s { s with graph := { s.graph with held := s.graph.held ++ [.expansion src r] } }) ∧
  (∀ src r h p c, s.isHalted = false → s.parentOf src r.tag = some (h, p) → s.runningCtx h.cmd = some c → Runs (.expansionResponse src r) s
    (let s1 := (s.noteReads 1 (s.answered (hopSpec c.pkt) p r).2).updParent h.cmd p.pos (fun _ => (s.answered (hopSpec c.pkt) p r).1)
     ({ s1 with graph := { s1.graph with hops := mapWhere (fun k => k.cmd == h.cmd) (fun k => { k with stale := k.stale || r.stale }) s1.graph.hops } } : State).askAndFlush)) ∧
  (∀ src r, s.isHalted = false → r.step = (s.step32 + 1) % 2 ^ 32 → Runs (.rowRequest src [r]) s { s with graph := { s.graph with held := s.graph.held ++ [.rows src [r]] } }) ∧
  (∀ src r, s.isHalted = false → r.step ≠ (s.step32 + 1) % 2 ^ 32 → r.step ≠ s.step32 → Runs (.rowRequest src [r]) s (s.send (.rowAnswer src ⟨r.tag, 1, stStepMismatch, 0, []⟩))) ∧
  (∀ src r, s.isHalted = false → r.step = s.step32 → Runs (.rowRequest src [r]) s
    (((s.noteReads 1 (s.answerRows [r]).2.1).countNonfinite (s.answerRows [r]).2.2).send (.rowAnswer src (s.answerRows [r]).1))) ∧
  (∀ src r g c t, s.isHalted = false → s.graph.gathers = [g] → g.portions.any (Portion.awaits src r.tag) = true → s.cmd? g.cmd = some c → opcodeOf c.pkt = 0x2110 → s.ftable? (gaTable c.pkt) = some t →
    Runs (.rowResponse src r) s (({ s with graph := { s.graph with gathers := [{ g with portions := mapWhere (Portion.awaits src r.tag) (answeredPortion (decide (gaMode c.pkt ≠ 0)) t.width r) g.portions }] } } : State).finishGather g.cmd)) ∧
  (∀ shard x pass left w, s.shard? shard = some x → x.rebuild = .running pass left →
    (∀ r ∈ x.rebuildReads, (s.read r.1 r.2).uncorr = []) →
    w = (((s.noteReads 5 x.rebuildReads).countFaults shard ((s.shardWeights x).filter weightFault).length).store 5 x.shadow (s.aliasBytes x x.nodes)).1 →
    (w.stepRunning = true → Runs (.aliasRebuildFinish shard) s (w.updShard shard (fun y => { y with rebuild := .waiting }))) ∧
    (w.stepRunning = false → Runs (.aliasRebuildFinish shard) s ((w.updShard shard (fun y => { y with rebuild := .waiting })).swapAlias shard))) ∧
  (∀ shard x pass left, s.shard? shard = some x → x.rebuild = .running pass left →
    (∃ r ∈ x.rebuildReads, (s.read r.1 r.2).uncorr ≠ []) →
    Runs (.aliasRebuildFinish shard) s (s.draw.2.failAlias shard ((Config.freeWord s.draw.1 0).toNat % (x.nodes + 1)) x)) ∧
  (∀ shard left x pass n, s.shard? shard = some x → x.rebuild = .running pass n → (∃ r ∈ x.rebuildReads, (s.read r.1 r.2).uncorr ≠ []) → Runs (.aliasRebuildFail shard left) s
    (((((((s.store 5 x.shadow (s.aliasBytes x (x.nodes - min left x.nodes))).1).noteReads 5 x.rebuildReads).updShard shard (fun y => { y with rebuild := .failed (min left x.nodes) })).decision 10 shard [min left x.nodes] 2 3).resumeSamples shard).retakeExpansions))

/-- Adds and atomics on their way to memory. An add that a scatter waits for is made by the port of its sector, masked elements keeping their value, the sector entering the port's add buffer (R415, R416); an atomic is made at its slice (R430); the scatter's work left shrinks by it and its command ends with the last one (R128). A sector leaves the add buffer (R416). -/
def Obligations.MemorySideAddsComplete : Prop := ∀ (s : State),
  (∀ id r x s1 n, s.scatters.find? (fun x => x.cmd == id) = some x → r ∈ x.adds → s.mem.pinnedLine r.addr = true → (s.read r.addr 32).good = true → s1 = ({ s with mem := s.mem.release r.addr } : State).noteRead 0 r.addr 32 →
    n = (sectorAdd r (s.read r.addr 32).data).run (0, 0) → Runs (.memorySideAdd id r) s (((s1.countAdds n.2).store 2 r.addr n.1).1.scatterDone id r.addr (fun y => { y with adds := y.adds.erase r }) none)) ∧
  (∀ id r x s1 n, s.scatters.find? (fun x => x.cmd == id) = some x → r ∈ x.adds → s.mem.pinnedLine r.addr = false → (s.read r.addr 32).good = true → s1 = ({ s with mem := s.mem.release r.addr } : State).noteRead 0 r.addr 32 →
    n = (sectorAdd r (s.read r.addr 32).data).run (0, 0) → Runs (.memorySideAdd id r) s
    ((((({ s1 with mem := s1.mem.release r.addr } : State).countAdds n.2).store 5 r.addr n.1).1.holdSector r.addr).scatterDone id r.addr (fun y => { y with adds := y.adds.erase r }) none)) ∧
  (∀ id r x, s.scatters.find? (fun x => x.cmd == id) = some x → r ∈ x.atomics → (s.read r.addr (tyBytes r.ty)).good = true → r.ty ≠ .fp32 → Runs (.sliceAtomic id r) s
    ((((s.noteRead 0 r.addr (tyBytes r.ty)).store 0 r.addr (toLE (tyBytes r.ty) (atomValue r.op r.ty (leNat (s.read r.addr (tyBytes r.ty)).data) r.operand r.compare))).1).scatterDone id r.addr
      (fun y => { y with atomics := y.atomics.erase r }) none)) ∧
  (∀ port sector, Runs (.addBufferEvict port sector) s (s.updMemPort port (fun m => { m with addBuffer := m.addBuffer.filter (· != sector) })))

/-- MATRIX and SPARSE commands on accumulation groups. An opening command with a free slot and room for its stacks opens an empty group (R144, R146); ACC_CLOSE forms, converts and writes the result and frees the slot (R149), or poisons the output of a poisoned group (R153); ACC_DISCARD frees it (R150); ACC_STATUS answers its state (R154). A product whose ridges are on adds its passes to its group (R138, R148), and closes it too under ACC_CLOSE; where domains are off it waits for them (R17). Clauses for MATRIX.MATMUL hold for SPARSE.MATMUL too (R255). -/
def Obligations.AccumulationCommandsComplete : Prop := ∀ (s b : State) (id : Nat) (c : Ctx), b = s.begun id →
  (∀ i info, ((i = .matrixAccOpen id ∧ info = matrixAccOpenInfo) ∨ (i = .sparseAccOpen id ∧ info = sparseAccOpenInfo)) → Ready s info id c → s.groupWait id = false →
    b.group? c.branch (c.f 32 1) = none → b.wakingOn c (fun p => opensGroup p && !freesGroup p) = false → b.stackLacks (b.newGroup c) c.ridges = false →
    (flagAccClose c.pkt = false → Ends i s id resOK { b with matrix := { s.matrix with groups := s.matrix.groups ++ [b.newGroup c] } }) ∧
    (flagAccClose c.pkt = true → Ends i s id ((b.openGroup c).closeGroup c (b.newGroup c)).2 ((b.openGroup c).closeGroup c (b.newGroup c)).1)) ∧
  (∀ g, Ready s (groupOnly 0x3002) id c → s.groupWait id = false → b.groupFor c = some g → g.poisoned = true →
    Ends (.matrixAccClose id) s id ⟨stPoisoned, 0, detailOf (bnat g.anyRegister) 0, 0, 0, 0⟩ ((b.freeGroup g).poisonGroupOut g)) ∧
  (∀ g r w, Ready s (groupOnly 0x3002) id c → s.groupWait id = false → b.groupFor c = some g → g.poisoned = false → r = g.results.run 0 →
    w = ((b.freeGroup g).countNonfinite r.2).writeGroup c g r.1 → w.2 = none → Ends (.matrixAccClose id) s id g.closeResult (w.1.countLongSum g)) ∧
  (∀ g, Ready s (groupOnly 0x3003) id c → s.groupWait id = false → b.groupFor c = some g → Ends (.matrixAccDiscard id) s id resOK
    { b with matrix := { s.matrix with groups := s.matrix.groups.filter (fun h => !(h.slot == g.slot && h.set == g.set)) } }) ∧
  (Ready s (groupOnly 0x3004) id c → s.group? c.branch (c.f 32 1) = none → Ends (.matrixAccStatus id) s id (resOf stOK 0 (assocGet s.matrix.longSums (c.f 32 1) 0).toNat) b) ∧
  (∀ g, Ready s (groupOnly 0x3004) id c → s.group? c.branch (c.f 32 1) = some g → Ends (.matrixAccStatus id) s id
    { resOf stOK (if g.poisoned then 2 else 1) (assocGet s.matrix.longSums (c.f 32 1) 0).toNat with index := BitVec.ofNat 32 (min (g.passes.foldl max 0) 0xFFFFFFFF) } b) ∧
  (∀ i info, ((i = .matrixMatmul id ∧ info = matrixMatmulInfo) ∨ (i = .sparseMatmul id ∧ info = sparseMatmulInfo)) → Ready s info id c → s.groupWait id = false →
    (∀ g, mOpens c.pkt = false → b.groupFor c = some g → mM c.pkt = g.m → mN c.pkt = g.n → b.dormant g c.ridges ≠ [] → Runs i s (b.wakeFor c.id (b.dormant g c.ridges))) ∧
    (∀ g b1 x, ((mOpens c.pkt = false ∧ b.groupFor c = some g ∧ mM c.pkt = g.m ∧ mN c.pkt = g.n ∧ b1 = b) ∨
        (mOpens c.pkt = true ∧ b.openFails c = none ∧ g = b.newGroup c ∧ b1 = b.openGroup c)) →
      b.dormant g c.ridges = [] → x = b1.productInput c.pkt → (b1.readAll x.reads).good = true → x.poisoned = false → x.failure = none →
      ∀ a s2, a = (g.accumulate x.shape (mK c.pkt) x.as x.bs).run 0 → s2 = ((b1.noteReads 0 x.reads).countNonfinite a.2).updGroup g (fun _ => a.1) →
        (flagAccClose c.pkt = false → Ends i s id resOK s2) ∧
        (flagAccClose c.pkt = true → Ends i s id (s2.closeGroup c a.1).2 (s2.closeGroup c a.1).1)))

/-- The curd-form commands when their inputs can be read: SPARSE.SKIM writes the curd tensor that the skimmer forms (R264), SPARSE.EXPAND the whole form with zeros in the absent positions (R272), SPARSE.CHECK answers the count of non-zeros and whether the tensor is two-way, and writes nothing (R272). -/
def Obligations.CurdCommandsComplete : Prop := ∀ (s b : State) (id : Nat) (c : Ctx), b = s.begun id →
  (∀ w, Ready s sparseSkimInfo id c → (s.readAll (skTensor c.pkt).reads).good = true →
    w = (b.noteReads 0 (skTensor c.pkt).reads).runSkim c (skJob c.pkt) (b.tensorF32 (skTensor c.pkt)) (b.skimOverlaps c.pkt) → w.2 = none → Ends (.sparseSkim id) s id resOK w.1) ∧
  (∀ d w, Ready s sparseExpandInfo id c → d = s.curdAt (c.f 32 8) → s.curdReadStatus (c.f 32 8) = none →
    w = (b.noteReads 0 ((c.f 32 8, 64) :: d.reads)).storeAll 0 (((expandRows (c.f 40 1) d (b.curdValues d)).zipIdx).map (fun (bs, r) => (c.f 48 8 + r * c.f 56 4, bs))) →
    writeStatus w.2 = none → Ends (.sparseExpand id) s id resOK w.1) ∧
  (∀ d ts, Ready s sparseCheckInfo id c → d = s.curdAt (c.f 32 8) → ts = s.curdIndex d → s.curdReadStatus (c.f 32 8) = none →
    Ends (.sparseCheck id) s id { resIndex (ts.foldl (fun n t => n + t.counts.foldl (· + ·) 0) 0) with detail := detailOf 0 (bnat (allTwoWay d.cap ts)) } (b.noteReads 0 ((c.f 32 8, 64) :: d.reads)))

/-- The settings of the number formats: CFG.WIDE takes WIDE_STATE at once and WIDE_REDUCE at once or, while a step runs, at the boundary (R190); CFG.SCALE_POOL (R191); CFG.RATIO_SET with STALL_N 0 for 64 (R200); CFG.NUM_READ writes the records of its table and answers their count, clearing the counter sets when asked (R193); VEC.RNG_SEED (R219). -/
def Obligations.NumericSettingsComplete : Prop := ∀ (s b : State) (id : Nat) (c : Ctx), b = s.begun id →
  (Ready s cfgWideInfo id c → s.stepRunning = false → Ends (.cfgWide id) s id resOK
    { b with num := { s.num with wideState := bitAt (c.f 32 1) 0, wideReduce := bitAt (c.f 32 1) 1, pendingReduce := none } }) ∧
  (Ready s cfgWideInfo id c → s.stepRunning = true → Ends (.cfgWide id) s id resOK
    { b with num := { s.num with wideState := bitAt (c.f 32 1) 0, pendingReduce := some (bitAt (c.f 32 1) 1) } }) ∧
  (Ready s cfgScalePoolInfo id c → Ends (.cfgScalePool id) s id resOK { b with num := { s.num with poolAddr := c.f 32 8, poolSize := c.f 40 8 } }) ∧
  (∀ r : RatioCfg, Ready s cfgRatioSetInfo id c → r = { low := BitVec.ofNat 32 (c.f 32 4), high := BitVec.ofNat 32 (c.f 36 4), stallN := if c.f 40 2 = 0 then 64 else c.f 40 2, enable := bitAt (c.f 42 1) 0, global := bitAt (c.f 42 1) 1, tagMask := c.f 48 8, maskInBox := c.mailboxOffset (c.f 48 8) } →
    (s.stepRunning = false → Ends (.cfgRatioSet id) s id resOK { b with num := { s.num with ratio := r, pendingRatio := none } }) ∧
    (s.stepRunning = true → Ends (.cfgRatioSet id) s id resOK { b with num := { s.num with pendingRatio := some r } })) ∧
  (∀ w, Ready s cfgNumReadInfo id c → w = (if bitAt (c.f 33 1) 0 then { b with num := { s.num with sets := s.num.sets.map (fun x => { x with flush := 0, nonfinite := 0, miss := 0 }) } } else b).storeAt c 0 (c.f 40 8)
      (s.numRecords (c.f 32 1)).flatten → writeStatus w.2 = none → Ends (.cfgNumRead id) s id (resIndex (s.numRecords (c.f 32 1)).length) w.1) ∧
  (Ready s vecRngSeedInfo id c → s.stepRunning = false → Ends (.vecRngSeed id) s id resOK { b with vec := { s.vec with seed := BitVec.ofNat 64 (c.f 40 8), pendingSeed := none } }) ∧
  (Ready s vecRngSeedInfo id c → s.stepRunning = true → Ends (.vecRngSeed id) s id resOK { b with vec := { s.vec with pendingSeed := some (BitVec.ofNat 64 (c.f 40 8)) } })

/-- The VEC commands with readable operands: what each reads and the values that it writes. VEC.MAP applies its chain (R205), VEC.REDUCE reduces rows or columns (R206), VEC.NORM, VEC.NORM_BWD, VEC.SOFTMAX and VEC.LOSS as R207 and R208, an unreadable label as INDEX_RANGE, VEC.DROPOUT as R222, VEC.INIT and VEC.GUMBEL as R223, VEC.RANDOM_BITS the stream itself (R218). -/
def Obligations.VectorCommandsComplete : Prop := ∀ (s b : State) (id : Nat) (c : Ctx), b = s.begun id →
  (Ready s vecMapInfo id c → Commits (.vecMap id) s id c
    ((vXTensor c.pkt).reads ++ (if chainUsesY c.pkt then (vOperand c.pkt (vYFmt c.pkt) (vY c.pkt)).reads else []) ++ (if chainUsesZ c.pkt then (vOperand c.pkt (vYFmt c.pkt) (vZ c.pkt)).reads else []))
    (vecOutOf b c ((mapElems (vRows c.pkt) (vCols c.pkt) (fun i j => runChain (bitAt (vOpt c.pkt) 0) (vParamA c.pkt) (vParamB c.pkt)
      (rowAt (if chainUsesY c.pkt then b.tensorF32 (vOperand c.pkt (vYFmt c.pkt) (vY c.pkt)) else []) i j)
      (rowAt (if chainUsesZ c.pkt then b.tensorF32 (vOperand c.pkt (vYFmt c.pkt) (vZ c.pkt)) else []) i j) (chainCodes c.pkt) (rowAt (b.tensorF32 (vXTensor c.pkt)) i j))).run 0))) ∧
  (∀ r, Ready s vecReduceInfo id c → r = ((if vSub c.pkt = 5 then (List.range (vCols c.pkt)).map (column (b.tensorF32 (vXTensor c.pkt))) else b.tensorF32 (vXTensor c.pkt)).mapM (reduceRow (vSub c.pkt))).run 0 →
    Commits (.vecReduce id) s id c (vXTensor c.pkt).reads ⟨none, [(vOut c.pkt, f32Bytes r.1)], r.2, .zero, []⟩) ∧
  (∀ r o, Ready s vecNormInfo id c → r = ((b.tensorF32 (vXTensor c.pkt)).mapM (normRow s.narrowReduce (vSub c.pkt == 1) (vParamA c.pkt) (b.packedRow (vY c.pkt) (vCols c.pkt))
      (if vZ c.pkt = 0 then none else some (b.packedRow (vZ c.pkt) (vCols c.pkt))))).run 0 → o = vecOutOf b c (r.1.map (·.1), r.2) →
    Commits (.vecNorm id) s id c ((vXTensor c.pkt).reads ++ [(vY c.pkt, 4 * vCols c.pkt)] ++ (if vZ c.pkt = 0 then [] else [(vZ c.pkt, 4 * vCols c.pkt)]))
      { o with writes := o.writes ++ [(vSave c.pkt, r.1.flatMap (fun t => f32Bytes [t.2.1, t.2.2]))] }) ∧
  (Ready s vecNormBwdInfo id c → Commits (.vecNormBwd id) s id c
    ((vXTensor c.pkt).reads ++ (vOperand c.pkt (vYFmt c.pkt) (vZ c.pkt)).reads ++ [(vSave c.pkt, 8 * vRows c.pkt)] ++ (if vSub c.pkt = 1 then [] else [(vY c.pkt, 4 * vCols c.pkt)]))
    (vecOutOf b c ((((b.tensorF32 (vXTensor c.pkt)).zipIdx).mapM (fun (xs, i) => normBwdRow s.narrowReduce (vSub c.pkt)
      ((b.packedRow (vSave c.pkt) (2 * vRows c.pkt)).getD (2 * i) 0) ((b.packedRow (vSave c.pkt) (2 * vRows c.pkt)).getD (2 * i + 1) 0)
      (if vSub c.pkt = 1 then [] else b.packedRow (vY c.pkt) (vCols c.pkt)) xs ((b.tensorF32 (vOperand c.pkt (vYFmt c.pkt) (vZ c.pkt))).getD i []))).run 0))) ∧
  (∀ masked y, Ready s vecSoftmaxInfo id c → vSub c.pkt = 0 → masked = decide (vY c.pkt ≠ 0) → y = vOperand c.pkt 0 (vY c.pkt) → Commits (.vecSoftmax id) s id c ((vXTensor c.pkt).reads ++ (if masked then y.reads else []))
    (vecOutOf b c ((((b.tensorF32 (vXTensor c.pkt)).zipIdx).mapM (fun ((row, i) : List F32 × Nat) => do
      let zs ← if masked then (row.zipIdx).mapM (fun (v, j) => do
        let z ← addF v (rowAt (b.tensorF32 y) i j)
        pure (maybeBf16 s.narrowReduce z)) else pure row
      softRow s.narrowReduce zs)).run 0))) ∧
  (Ready s vecSoftmaxInfo id c → vSub c.pkt = 1 → Commits (.vecSoftmax id) s id c ((vXTensor c.pkt).reads ++ (vOperand c.pkt (vYFmt c.pkt) (vZ c.pkt)).reads)
    (vecOutOf b c ((((b.tensorF32 (vXTensor c.pkt)).zipIdx).mapM (fun (row, i) => softBwdRow s.narrowReduce row ((b.tensorF32 (vOperand c.pkt (vYFmt c.pkt) (vZ c.pkt))).getD i []))).run 0))) ∧
  (∀ labels r, Ready s vecLossInfo id c → vSub c.pkt = 0 → labels = (b.tensorRows (labelTensor c.pkt)).map leNat →
    r = (((b.tensorF32 (vXTensor c.pkt)).zip labels).mapM (fun (row, l) => crossRow s.narrowReduce (vParamA c.pkt) (if l = 0xFFFFFFFF then none else some l) row)).run 0 →
    (labels.any (fun l => decide (l ≠ 0xFFFFFFFF) && decide (vCols c.pkt ≤ l)) = false →
      Commits (.vecLoss id) s id c ((vXTensor c.pkt).reads ++ (labelTensor c.pkt).reads)
        ⟨none, (vOut c.pkt, f32Bytes (r.1.map (·.1))) :: ({ vOutTensor c.pkt with addr := vSave c.pkt } : Tensor).writes (vecConverted b c (r.1.map (·.2))), r.2, (vecConverted b c (r.1.map (·.2))).count, []⟩) ∧
    (labels.any (fun l => decide (l ≠ 0xFFFFFFFF) && decide (vCols c.pkt ≤ l)) = true → (s.readAll ((vXTensor c.pkt).reads ++ (labelTensor c.pkt).reads)).good = true →
      Ends (.vecLoss id) s id (resOf stIndexRange 0x07 0) ((b.noteReads 0 ((vXTensor c.pkt).reads ++ (labelTensor c.pkt).reads)).poisonRanges 0
        ((vOut c.pkt, 4 * vRows c.pkt) :: ({ vOutTensor c.pkt with addr := vSave c.pkt } : Tensor).ranges)))) ∧
  (∀ r, Ready s vecLossInfo id c → vSub c.pkt = 1 →
    r = (((b.tensorF32 (vXTensor c.pkt)).zipIdx).mapM (fun (row, i) => squareRow s.narrowReduce (vParamA c.pkt) row ((b.tensorF32 (vOperand c.pkt (vYFmt c.pkt) (vY c.pkt))).getD i []))).run 0 →
    Commits (.vecLoss id) s id c ((vXTensor c.pkt).reads ++ (vOperand c.pkt (vYFmt c.pkt) (vY c.pkt)).reads)
      ⟨none, (vOut c.pkt, f32Bytes (r.1.map (·.1))) :: ({ vOutTensor c.pkt with addr := vSave c.pkt } : Tensor).writes (vecConverted b c (r.1.map (·.2))), r.2, (vecConverted b c (r.1.map (·.2))).count, []⟩) ∧
  (∀ q, Ready s vecDropoutInfo id c → q = f32ToRat (vParamA c.pkt) → Commits (.vecDropout id) s id c (vXTensor c.pkt).reads
    (vecOutOf b c ((mapElems (vRows c.pkt) (vCols c.pkt) (fun i j =>
      if ownBits s c.pkt (vShare c.pkt) (vIndex c.pkt i j) < (q * ((2 ^ (32 / vShare c.pkt) : Nat) : Rat)).floor.toNat then pure 0 else mulF (rowAt (b.tensorF32 (vXTensor c.pkt)) i j) (f32OfRat (1 / (1 - q))))).run 0))) ∧
  (Ready s vecInitInfo id c → Commits (.vecInit id) s id c [] (vecOutOf b c ((mapElems (vRows c.pkt) (vCols c.pkt) (fun i j => initValue s c.pkt (vIndex c.pkt i j))).run 0))) ∧
  (Ready s vecRandomBitsInfo id c → Commits (.vecRandomBits id) s id c [] ⟨none, (vTensor 0 (vRows c.pkt) (vCols c.pkt) (vOut c.pkt) .row 0).writes
    ⟨(List.range (vRows c.pkt)).map (fun i => (List.range (vCols c.pkt)).flatMap (fun j => toLE 4 (elementWord s.vec.seed.toNat (vStream c.pkt) (vShare c.pkt) (vIndex c.pkt i j)))), [], .zero, []⟩, 0, .zero, []⟩) ∧
  (∀ r, Ready s vecGumbelInfo id c → r = (mapElems (vRows c.pkt) (vCols c.pkt) (fun i j => gumbelScore (rowAt (b.tensorF32 (vXTensor c.pkt)) i j) (ownBits s c.pkt 1 (vIndex c.pkt i j)))).run 0 →
    Commits (.vecGumbel id) s id c (vXTensor c.pkt).reads ⟨none,
      (vTensor 0 (vRows c.pkt) (vK c.pkt) (vOut c.pkt) .row 0).writes ⟨r.1.map (fun row => ((sortBy gumbelBefore row.zipIdx).take (vK c.pkt)).flatMap (fun e => toLE 4 e.2)), [], .zero, []⟩
        ++ (if vSave c.pkt = 0 then [] else (vOperand c.pkt 0 (vSave c.pkt)).writes ⟨r.1.map f32Bytes, [], .zero, []⟩), r.2, .zero, []⟩)

/-- The FUNC commands: FUNC.APPLY and FUNC.DERIV evaluate the pair that the packet names on every element (R210, R237); FUNC.LOAD_PAIR installs an image that is right and extends measurement slot 6 with it (R211, R212, R536); FUNC.CLEAR_PAIR frees its ID (R212); FUNC.READ_PAIR writes the 8,256 bytes of the pair (R213). -/
def Obligations.FunctionCommandsComplete : Prop := ∀ (s b : State) (id : Nat) (c : Ctx), b = s.begun id →
  (∀ f, Ready s funcApplyInfo id c → s.pairWait id (c.f 39 1) = false → s.pairNamed id 39 = c.f 39 1 → s.pair? (c.f 39 1) = some f → Commits (.funcApply id) s id c (vXTensor c.pkt).reads
    (vecOutOf b c (((b.tensorF32 (vXTensor c.pkt)).mapM (fun (row : List F32) => row.mapM (f.eval false))).run 0))) ∧
  (∀ f, Ready s funcDerivInfo id c → s.pairWait id (c.f 39 1) = false → s.pairNamed id 39 = c.f 39 1 → s.pair? (c.f 39 1) = some f →
    Commits (.funcDeriv id) s id c ((vXTensor c.pkt).reads ++ (vOperand c.pkt (vYFmt c.pkt) (vY c.pkt)).reads)
      (vecOutOf b c ((((b.tensorF32 (vXTensor c.pkt)).zipIdx).mapM (fun ((row, i) : List F32 × Nat) => (row.zipIdx).mapM (fun (v, j) => do
        let d ← f.eval true v
        mulF (rowAt (b.tensorF32 (vOperand c.pkt (vYFmt c.pkt) (vY c.pkt))) i j) d))).run 0))) ∧
  (∀ img s1, Ready s funcLoadPairInfo id c → s.pairWait id (c.f 32 1) = false → s.pairInUse (c.f 32 1) = false → s.pairNamed id 32 = c.f 32 1 → img = (s.read (c.f 40 8) 8256).data →
    (s.read (c.f 40 8) 8256).good = true → pairImageOk img = true → s1 = b.noteRead 0 (c.f 40 8) 8256 →
    Ends (.funcLoadPair id) s id resOK (({ s1 with vec := { s1.vec with pairs := assocSet s1.vec.pairs (c.f 32 1) img } } : State).extendSlot 6 img)) ∧
  (Ready s funcClearPairInfo id c → s.pairWait id (c.f 32 1) = false → s.pairInUse (c.f 32 1) = false → s.pairNamed id 32 = c.f 32 1 →
    Ends (.funcClearPair id) s id resOK { b with vec := { s.vec with pairs := s.vec.pairs.filter (fun e => e.1 != c.f 32 1) } }) ∧
  (∀ e w, Ready s funcReadPairInfo id c → s.pairWait id (c.f 32 1) = false → s.pairNamed id 32 = c.f 32 1 → s.vec.pairs.find? (fun e => e.1 == c.f 32 1) = some e →
    w = b.storeAt c 0 (c.f 40 8) e.2 → writeStatus w.2 = none → Ends (.funcReadPair id) s id resOK w.1) ∧
  (∀ w, Ready s funcReadPairInfo id c → s.pairWait id (c.f 32 1) = false → s.pairNamed id 32 = c.f 32 1 → s.vec.pairs.find? (fun e => e.1 == c.f 32 1) = none →
    w = b.storeAt c 0 (c.f 40 8) (imageOfPair (builtinPair (c.f 32 1))) → writeStatus w.2 = none → Ends (.funcReadPair id) s id resOK w.1)

/-- The EMBED commands. EMBED.TABLE_SET installs a table whose counter is the chip's (R277, R325); EMBED.TABLE_CLEAR removes it with everything kept for it (R277); EMBED.POLICY waits for the next boundary (R302); EMBED.LOOKUP takes what this chip can serve and asks for the rest (R281, R282); EMBED.LOOKUP_BWD sends the gradients of a lookup's log (R288); EMBED.APPLY updates the touched rows, or only frees their accumulators for a frozen record (R294). -/
def Obligations.EmbeddingCommandsComplete : Prop := ∀ (s b : State) (id : Nat) (c : Ctx), b = s.begun id →
  (∀ s1, Ready s embedTableSetInfo id c → (s.read (c.f 32 8) 64).good = true → s1 = b.noteRead 2 (c.f 32 8) 64 → Ends (.embedTableSet id) s id resOK
    { s1 with embed := { s1.embed with tables := s1.embed.tables ++ [etableOf (s.read (c.f 32 8) 64).data s1.plans.stepNo] } }) ∧
  (∀ e s1, Ready s embedTableClearInfo id c → e = s.embed → s1 = ({ b with embed := { ({ e with
        tables := e.tables.filter (fun x => x.id != c.f 32 1), accums := e.accums.filter (fun x => x.table != c.f 32 1), replicas := e.replicas.filter (fun x => x.table != c.f 32 1),
        reloc := e.reloc.filter (fun x => x.table != c.f 32 1), pendingReloc := e.pendingReloc.filter (fun x => x.table != c.f 32 1), forwards := e.forwards.filter (fun x => x.table != c.f 32 1),
        guests := e.guests.filter (fun x => x.table != c.f 32 1), lookupLogs := e.lookupLogs.filter (fun x => x.table != c.f 32 1) } : Embed) with
        serveLogs := e.serveLogs.filter (fun x => x.table != c.f 32 1), subs := e.subs.filter (fun x => x.1 != c.f 32 1), asked := e.asked.filter (fun x => x.1 != c.f 32 1),
        refused := e.refused.filter (fun x => x.1 != c.f 32 1), migrated := e.migrated.filter (fun x => x.1 != c.f 32 1), migrating := e.migrating.filter (fun x => x.1 != c.f 32 1),
        notices := e.notices.filter (fun x => x.table != c.f 32 1), top := e.top.filter (fun x => x.table != c.f 32 1) } } : State) →
    Ends (.embedTableClear id) s id resOK { s1 with mem := s1.mem.unpin s1.mergeEntries }) ∧
  (Ready s embedPolicyInfo id c → Ends (.embedPolicy id) s id resOK { b with embed := { s.embed with pendingPolicy := some (embedPolicyOf c.pkt) } }) ∧
  (∀ t qs served fin counts s1 s2, Ready s embedLookupInfo id c → s.etable? (lkTable c.pkt) = some t →
    qs = chargePortions t (lkPool c.pkt) (b.embed.policy.serveLogSize - b.logUsed) (((b.lkBagList c.pkt).zipIdx).flatMap (fun (x, i) => b.bagPortions t (lkPool c.pkt) (lkId c.pkt) i x)) →
    served = qs.map (b.serveLookup t (lkPool c.pkt)) → fin = served.map (·.1) → counts = (b.lkBagList c.pkt).map (fun x => x.entries.length + x.fails.length) →
    s1 = (b.noteReads 1 (b.lkListReads c.pkt ++ served.flatMap (·.2.1))).countNonfinite (served.foldl (fun n r => n + r.2.2) 0) →
    s2 = (({ s1 with embed := { s1.embed with
        lookupLogs := s1.embed.lookupLogs ++ [⟨t.id, lkId c.pkt, lkPool c.pkt, lkBags c.pkt, counts, fin, false⟩]
        serveLogs := s1.embed.serveLogs ++ b.ownServeLogs t (lkPool c.pkt) fin } } : State).trackRows t.id ((fin.filter (fun q => q.fromOwn && !q.fail.isSome)).flatMap (·.keys)) b.rank).askLookups t (lkPool c.pkt) fin →
    Runs (.embedLookup id) s (({ s2 with graph := { s2.graph with gathers := s2.graph.gathers ++
      [⟨c.id, (b.lkBagList c.pkt).length, counts, !(b.readAll (b.lkListReads c.pkt)).poisoned.isEmpty, fin⟩] } } : State).finishLookup c.id)) ∧
  (∀ l t r s1 k, Ready s embedLookupBwdInfo id c → s.bwdLog c.pkt = some l → s.etable? (c.f 32 1) = some t → r = (c.f 40 8, 4 * t.width * bwdRows l) → s1 = (b.noteReads 1 [r]).issued c →
    k = (((if l.pool = 0 then l.portions else sortBy Portion.sentBefore l.portions).zipIdx).foldl (fun (k : Contributed) (x : Portion × Nat) =>
      match b.failOf [(c.f 40 8 + 4 * t.width * (if l.pool = 0 then x.2 else x.1.item), 4 * t.width)] with
      | some f => { k with fails := k.fails ++ [(x.1.item, f)] }
      | none => k.portion t l.pool (nth l.counts x.1.item 1) (s1.originOf c) x.1 (b.f32sAt (c.f 40 8 + 4 * t.width * (if l.pool = 0 then x.2 else x.1.item), 4 * t.width))) ⟨s1, [], []⟩) →
    Runs (.embedLookupBwd id) s (k.state.awaitScatter ⟨c.id, [], [], k.acks, !(b.read r.1 r.2).poisoned.isEmpty, k.fails.foldl lowerFail none⟩)) ∧
  (∀ t h b1, Ready s embedApplyInfo id c → s.etable? (c.f 32 1) = some t → b1 = b.noteHyper c t.layerTag → b1.updateChecks c t.layerTag (some t.rule) t.counter = .inr h →
    (h.frozen = true → Ends (.embedApply id) s id resOK (b1.freeAccums t.id)) ∧
    (∀ us rs r, h.frozen = false → us = (b1.touched t).run 0 → rs = us.1.flatMap (fun u => u.reads t) → (b1.readAll rs).good = true →
      r = ((((b1.noteReads 2 rs).countNonfinite us.2).freeAccums t.id).applyRows c t h us.1 true) → r.2 = none → Ends (.embedApply id) s id resOK r.1))

/-- The UPDATE commands: UPDATE.SHARD_SET installs the shard of a descriptor with the chip's step number as its counter (R320, R325), UPDATE.SHARD_CLEAR removes one, UPDATE.HYPER_TABLE names the table or none (R310), UPDATE.STEP_SET sets every step counter of the chip (R325), UPDATE.RUN updates every sector of the shard and answers the count of elements updated, or does nothing for a frozen record (R321). -/
def Obligations.UpdateCommandsComplete : Prop := ∀ (s b : State) (id : Nat) (c : Ctx), b = s.begun id →
  (∀ s1 t, Ready s updateShardSetInfo id c → (s.read (c.f 32 8) 64).good = true → s1 = b.noteRead 2 (c.f 32 8) 64 → t = dshardOf (s.read (c.f 32 8) 64).data s1.plans.stepNo → Ends (.updateShardSet id) s id resOK
    { s1 with update := { s1.update with shards := s1.update.shards.filter (fun x => x.tag != t.tag) ++ [t] } }) ∧
  (Ready s updateShardClearInfo id c → Ends (.updateShardClear id) s id resOK { b with update := { s.update with shards := s.update.shards.filter (fun x => x.tag != c.f 32 2) } }) ∧
  (Ready s updateHyperTableInfo id c → Ends (.updateHyperTable id) s id resOK { b with update := { s.update with hyper := if c.f 40 8 = 0 then none else some (c.f 40 8) } }) ∧
  (∀ v : W64, Ready s updateStepSetInfo id c → v = BitVec.ofNat 64 (c.f 40 8) → Ends (.updateStepSet id) s id resOK
    { b with
      plans := { s.plans with stepNo := v }
      update := { s.update with shards := s.update.shards.map (fun x => { x with counter := v }) }
      embed := { s.embed with tables := s.embed.tables.map (fun x => { x with counter := v }) } }) ∧
  (∀ x h b1, Ready s updateRunInfo id c → s.dshard? (c.f 32 2) = some x → b1 = b.noteHyper c x.tag → b1.updateChecks c x.tag none x.counter = .inr h →
    (h.frozen = true → Ends (.updateRun id) s id resOK b1) ∧
    (∀ ks r, h.frozen = false → (b1.readAll (b1.denseReads x 0 x.elements)).good = true → (b1.readAll (b1.denseReads x 0 x.elements).tail).poisoned = [] → ks = List.range (b1.denseSectors x) →
      r = ((b1.noteReads 2 (b1.denseReads x 0 x.elements)).takesOff ⟨c.id, x.tag, b1.oldSectors x ks⟩).denseWrite c h x ks true → Ends (.updateRun id) s id (resIndex r.2) r.1))

/-- The messages of embedding tables between chips. A portion of the owner's own step is served and answered, one of its next step held, any other answered STEP_MISMATCH (R96, R283); an answer reaches the portion that waits for it (R284); a contribution enters the churn of its owner, which acknowledges it (R290); an acknowledgement shrinks what its scatter awaits (R128). A subscription is taken with a first copy, a refusal waits 64 steps (R299); a copy makes or renews a replica (R301); a migrated row enters a home or guest slot and is acknowledged, or is declined for want of one, and its old owner keeps a forwarding entry (R304); a relocation notice waits for the boundary (R304). -/
def Obligations.EmbeddingEventsComplete : Prop := ∀ (s : State),
  (∀ src r, s.isHalted = false → r.step = (s.step32 + 1) % 2 ^ 32 → Runs (.lookupRequest src [r]) s { s with graph := { s.graph with held := s.graph.held ++ [.lookup src [r]] } }) ∧
  (∀ src r, s.isHalted = false → r.step ≠ (s.step32 + 1) % 2 ^ 32 → r.step ≠ s.step32 → Runs (.lookupRequest src [r]) s (s.send (.lookupAnswer src (lookupFail s [r] ⟨stStepMismatch, 0⟩)))) ∧
  (∀ src r t a, s.isHalted = false → r.step = s.step32 → s.etable? r.table = some t → s.judge t r.key r.tenure = .serve a → ∀ x s1, x = s.answerLookup src t [r] r.part [r.tenure] [a] → s1 = (s.noteReads 1 [(a, t.weightBytes)]).countNonfinite x.2.2 →
    (x.2.1 = none → Runs (.lookupRequest src [r]) s (s1.send (.lookupAnswer src x.1))) ∧
    (∀ l, x.2.1 = some l → Runs (.lookupRequest src [r]) s ((({ s1 with embed := { s1.embed with serveLogs := s1.embed.serveLogs ++ [l] } } : State).trackRows t.id l.keys src).send (.lookupAnswer src x.1)))) ∧
  (∀ src r t o ten f, s.isHalted = false → r.step = s.step32 → s.etable? r.table = some t → s.judge t r.key r.tenure = .forward o ten → f = { r with tenure := ten, last := true, via := some (r.via.getD s.rank) } →
    Runs (.lookupRequest src [r]) s (({ s with embed := { s.embed with serveLogs := s.embed.serveLogs ++ [⟨src, r.table, r.tag, r.pool, [r.key], [r.weight], [], [r.tenure], some (o, ten)⟩] } } : State).send (.forwardedLookup o src [f]))) ∧
  (∀ src r t f, s.isHalted = false → r.step = s.step32 → s.etable? r.table = some t → s.judge t r.key r.tenure = .fail f → Runs (.lookupRequest src [r]) s (s.send (.lookupAnswer src (lookupFail s [r] f)))) ∧
  (∀ src r g c t x, s.isHalted = false → s.graph.gathers = [g] → g.portions.any (Portion.awaitsLookup src r) = true → s.cmd? g.cmd = some c → opcodeOf c.pkt = 0x6010 → s.etable? (lkTable c.pkt) = some t →
    x = answerFirst src r (answeredLookup t (lkPool c.pkt) r) g.portions →
    Runs (.lookupResponse src r) s ((({ s with graph := { s.graph with gathers := [{ g with portions := x.1 }] } } : State).countNonfinite x.2).finishLookup g.cmd)) ∧
  (∀ src (c : Contribution) t a, s.isHalted = false → c.kind ≠ 1 → s.etable? c.table = some t → s.judge t c.key c.tenure = .serve a →
    Runs (.contributionReceive src c) s ((s.churnAdd t c.key ⟨src, c.origin, c.seq, c.grad⟩).1.send (.contributionAnswer src (contribTag c) (s.churnAdd t c.key ⟨src, c.origin, c.seq, c.grad⟩).2))) ∧
  (∀ src (c : Contribution) t l s1 x k, s.isHalted = false → c.kind = 1 → s.etable? c.table = some t → s.useServeLog src c.table c.key = some (l, s1) → c.tenure ∈ l.tenures → l.moved = none →
    x = (bagGrads l.pool l.weights l.winners l.keys.length c.grad).run 0 → k = (s1.countNonfinite x.2).churnRows t src c.origin c.seq (l.keys.zip x.1) →
    Runs (.contributionReceive src c) s (k.1.send (.contributionAnswer src (contribTag c) k.2))) ∧
  (∀ src tag x, s.isHalted = false → s.scatters = [x] → (src, tag) ∈ x.acks → Runs (.contributionAck src tag stOK) s (({ s with scatters := [{ x with acks := x.acks.erase (src, tag) }] } : State).finishScatter x.cmd)) ∧
  (∀ src table key w s1, s.isHalted = false → s.ownedWeights table key = some w → s.forwardOf table key = none → (∀ m ∈ s.embed.migrating, (m.1, m.2.1) ≠ (table, key)) →
    (s.embed.subs.map (fun x => (x.1, x.2.1))).dedup.length < 4096 → s.embed.subs.length < 1048576 → (table, key, src) ∉ s.embed.subs → s1 = { s with embed := { s.embed with subs := s.embed.subs ++ [(table, key, src)] } } →
    (s.refreshOpen = false → Runs (.subscriptionRequest src table key) s s1) ∧
    (s.refreshOpen = true → Runs (.subscriptionRequest src table key) s (s1.send (.refresh [src] table key w.1 w.2)))) ∧
  (∀ src table key, s.isHalted = false → s.ownedWeights table key = none → Runs (.subscriptionRequest src table key) s
    (({ s with health := { s.health with counts := { s.health.counts with subsRefused := satAdd32 s.health.counts.subsRefused 1 } } } : State).send (.subscriptionRefused src table key))) ∧
  (∀ src table key owner, s.isHalted = false → (table, key, owner) ∈ s.embed.asked → Runs (.subscriptionRefused src table key) s
    (({ s with embed := { s.embed with
        asked := s.embed.asked.filter (fun a => !(a.1 == table && a.2.1 == key))
        refused := s.embed.refused.filter (fun (r : Nat × Nat × W64) => !(r.1 == table && r.2.1 == key)) ++ [(table, key, s.plans.stepNo + 64)] } } : State).rowDecision 8 table key [s.embed.countOf table key / 16] 2)) ∧
  (∀ src table key, s.isHalted = false → Runs (.unsubscribe src table key) s { s with embed := { s.embed with subs := s.embed.subs.filter (· != (table, key, src)) } }) ∧
  (∀ src table key tenure weights r, s.isHalted = false → r ∈ s.embed.replicas → r.table = table → r.key = key → s.embed.policy.oneStale = false → Runs (.replicaRefresh src table key tenure weights) s
    { s with embed := { s.embed with replicas := mapWhere (fun r => r.table == table && r.key == key) (fun r => { r with weights := weights, tenure := tenure }) s.embed.replicas } }) ∧
  (∀ src table key tenure weights r, s.isHalted = false → r ∈ s.embed.replicas → r.table = table → r.key = key → s.embed.policy.oneStale = true → Runs (.replicaRefresh src table key tenure weights) s
    { s with embed := { s.embed with replicas := mapWhere (fun r => r.table == table && r.key == key) (fun r => { r with nextWeights := some weights }) s.embed.replicas } }) ∧
  (∀ m t a ten, s.isHalted = false → s.etable? m.table = some t → t.homeRank s.jobN m.key = s.rank → a = t.base + t.homeSlot s.jobN m.key * t.stride → ten = nextTenure m.tenure → Runs (.migrationCopy m) s
    ((({ s with embed := { s.embed with
        forwards := s.embed.forwards.filter (fun f => !(f.table == m.table && f.key == m.key))
        notices := s.embed.notices ++ [⟨m.table, m.key, s.rank, ten⟩]
        migrated := s.embed.migrated ++ [(m.table, m.key, s.plans.stepNo)] } } : State).store 2 a (withTenure t m.record ten)).1.send (.migrationAnswer m.src m.table m.key true))) ∧
  (∀ m t, s.isHalted = false → s.etable? m.table = some t → t.homeRank s.jobN m.key ≠ s.rank → s.freeGuest t = none → Runs (.migrationCopy m) s (s.send (.migrationAnswer m.src m.table m.key false))) ∧
  (∀ src table key t a, s.isHalted = false → (table, key, src) ∈ s.embed.migrating → s.etable? table = some t → s.rowAddr t key = some a → Runs (.migrationAck src table key true) s
    (({ s with embed := { s.embed with
        migrating := s.embed.migrating.filter (· != (table, key, src))
        forwards := s.embed.forwards ++ [⟨table, key, src, nextTenure (s.heldTenure t a), BitVec.ofNat 32 (s.step32 + 2)⟩]
        guests := s.embed.guests.filter (fun g => !(g.table == table && g.key == key)) } } : State).refreshDue)) ∧
  (∀ src table key t a, s.isHalted = false → (table, key, src) ∈ s.embed.migrating → s.etable? table = some t → s.rowAddr t key = some a → Runs (.migrationAck src table key false) s
    ((({ s with embed := { s.embed with migrating := s.embed.migrating.filter (· != (table, key, src)) } } : State).rowDecision 9 table key [src, nextTenure (s.heldTenure t a)] 2).refreshDue)) ∧
  (∀ r, s.isHalted = false → Runs (.relocationNotice r) s { s with embed := { s.embed with pendingReloc := s.embed.pendingReloc ++ [r] } })

/-- The link settings: CFG.LINK_PORTS keeps unchanged ports and trains the changed ones (R334), CFG.LINK_ROUTE and CFG.LINK_POLICY apply at once, or at the boundary while a step runs (R353, R363), CFG.LINK_RANKS takes the rank table (R335), CFG.LINK_RETRAIN asks a port to train (R339). -/
def Obligations.LinkSettingsComplete : Prop := ∀ (s b : State) (id : Nat) (c : Ctx), b = s.begun id →
  (Ready s cfgLinkPortsInfo id c → Ends (.cfgLinkPorts id) s id resOK (b.setPorts (portEntries c.pkt) 1)) ∧
  (∀ s1 es, Ready s cfgLinkRouteInfo id c → (s.read (c.f 40 8) (4 * c.f 36 4)).good = true → s1 = b.noteRead 4 (c.f 40 8) (4 * c.f 36 4) →
    es = ((s.routeWords (c.f 40 8) (c.f 36 4)).zipIdx).map (fun (w, i) => (c.f 32 2 + i, w)) →
    (s1.stepRunning = false → Ends (.cfgLinkRoute id) s id resOK { s1 with link := { s1.link with routes := s1.link.routes.filter (fun r => !(decide (c.f 32 2 ≤ r.1) && decide (r.1 < c.f 32 2 + c.f 36 4))) ++ es } }) ∧
    (s1.stepRunning = true → Ends (.cfgLinkRoute id) s id resOK { s1 with link := { s1.link with pendingRoutes := s1.link.pendingRoutes.filter (fun r => !(decide (c.f 32 2 ≤ r.1) && decide (r.1 < c.f 32 2 + c.f 36 4))) ++ es } })) ∧
  (∀ s1, Ready s cfgLinkRanksInfo id c → (s.read (c.f 40 8) (2 * s.jobN)).good = true → s1 = b.noteRead 4 (c.f 40 8) (2 * s.jobN) →
    Ends (.cfgLinkRanks id) s id resOK { s1 with graph := { s1.graph with ranks := some (s.chipIds (c.f 40 8) s.jobN) } }) ∧
  (Ready s cfgLinkPolicyInfo id c → s.stepRunning = false → Ends (.cfgLinkPolicy id) s id resOK { b with link := { s.link with policy := linkPolicyOf c.pkt } }) ∧
  (Ready s cfgLinkPolicyInfo id c → s.stepRunning = true → Ends (.cfgLinkPolicy id) s id resOK { b with link := { s.link with pendingPolicy := some (linkPolicyOf c.pkt) } }) ∧
  (Ready s cfgLinkRetrainInfo id c → Ends (.cfgLinkRetrain id) s id resOK (b.askTraining (c.f 32 1) (decide (c.f 33 1 = 1)) 1))

/-- Presence, training and authentication of ports. A change of a group's presence trains its ports or brings them down (R336, R341); a present port that was asked to train, and one whose retry is due, begins an attempt (R337, R339); an attempt past its deadline, or with no lane fit at both ends, fails, the third for good (R338, R339); a complete one sends its handshake frames and takes the largest aligned block of lanes fit at both ends, with full credit, and is UP or in AUTH (R338, R352, R357); a nonce is answered with a proof once the port has sent its own, and a proof is verified (R357); an authentication that fails leaves a port of AUTH 2 AUTH_FAILED and one of AUTH 1 UP without it (R358). -/
def Obligations.LinkTrainingComplete : Prop := ∀ (s : State),
  (∀ g present, Runs (.cablePresenceChange g present) s (s.setPresence g present)) ∧
  (∀ p x, s.port? p = some x → x.state = .training → x.attempts = 0 → s.portPresent x = true →
    Runs (.trainingAttempt p) s (s.updPort p (fun y => { y with attempts := y.attempts + 1, trying := true }))) ∧
  (∀ p x, s.port? p = some x → x.state = .training → x.trying = false → 1 ≤ x.attempts → x.attempts < 3 → s.portPresent x = true →
    Runs (.trainingRetryTimer p) s (s.updPort p (fun y => { y with attempts := y.attempts + 1, trying := true }))) ∧
  (∀ p x, s.port? p = some x → x.trying = true → Runs (.trainingDeadline p) s
    ((s.updPort x.num (fun y => { y with trying := false, state := if 3 ≤ y.attempts then .failed else .training })).linkDecision x.num x.num 5 2 3)) ∧
  (∀ p r x, s.port? p = some x → x.trying = true → alignedBlock x.configured (widthLanes r.peerWidth) (TrainResult.bothFit r x.num) = [] → Runs (.trainingComplete p r) s
    (((s.sendHandshake x).updPort x.num (fun y => { y with trying := false, state := if 3 ≤ y.attempts then .failed else .training })).linkDecision x.num x.num 6 2 3)) ∧
  (∀ p r x lanes s1, s.port? p = some x → x.trying = true → lanes = alignedBlock x.configured (widthLanes r.peerWidth) (TrainResult.bothFit r x.num) → lanes ≠ [] →
    s1 = (let s0 := ((s.sendHandshake x).updPort p (fun y => { y.reset with
        lanes := lanes, half := y.cfgHalf || y.retryHalf || r.peerHalf, peer := BitVec.ofNat 16 r.peerId, peerWidth := r.peerWidth, peerNum := r.peerPort, reversed := r.reversed, attempts := y.attempts,
        retryHalf := y.retryHalf, cause := y.cause, credits := creditShares.map (· * lanes.length) })).linkDecision p p 1 0 x.cause
      { s0 with link := { s0.link with lanes := mapWhere (fun l => x.configured.contains l.num) (fun l => { l with
        removed := !(TrainResult.bothFit r x.num l.num), pendingRemove := false, pendingRejoin := false, inverted := r.inverted.getD (l.num - x.num) false }) s0.link.lanes } }) →
    (x.authMode = 0 → Runs (.trainingComplete p r) s (s1.updPort p (fun y => { y with state := .up, authenticated := false, joined := !s1.stepRunning }))) ∧
    (x.authMode ≠ 0 → Runs (.trainingComplete p r) s (s1.updPort p (fun y => { y with state := .auth })))) ∧
  (∀ p x, s.port? p = some x → x.state = .auth → x.authMode = 2 → Runs (.authTimeout p) s
    ((s.updPort x.num (fun y => { y with state := .authFailed })).linkDecision x.num x.num 7 2 3)) ∧
  (∀ p x, s.port? p = some x → x.state = .auth → x.authMode ≠ 2 → Runs (.authTimeout p) s
    (s.updPort x.num (fun y => { y with state := .up, authenticated := false, joined := !s.stepRunning }))) ∧
  (∀ p x n, s.port? p = some x → x.state = .auth → s.sec.keyReady = true → x.nonce = [] → Runs (.authMessageReceive p (.nonce n)) s (s.updPort p (fun y => { y with peerNonce := n }))) ∧
  (∀ p x n, s.port? p = some x → x.state = .auth → s.sec.keyReady = true → x.nonce ≠ [] → Runs (.authMessageReceive p (.nonce n)) s
    ((({ s with free := s.free + 1 }.updPort p (fun y => { y with peerNonce := n, provedSelf := true })).send (.auth p (.proof
      (Config.mldsaSign s.free s.fuses.idSeed (linkStatement s.chipId.toNat x.peer.toNat x.nonce n x.num x.lanes)) (Config.mldsaPublic s.fuses.idSeed) (s.certOf 1) (s.certOf 2) (s.certOf 3)))).authDone p)) ∧
  (∀ p x n, s.port? p = some x → x.state = .auth → s.sec.keyReady = false → Runs (.authMessageReceive p (.nonce n)) s (s.authFails x)) ∧
  (∀ p x sig key cert inter root, s.port? p = some x → x.state = .auth → s.peerOk x sig key cert inter root = true → Runs (.authMessageReceive p (.proof sig key cert inter root)) s
    ((s.updPort p (fun y => { y with verifiedPeer := true })).authDone p)) ∧
  (∀ p x sig key cert inter root, s.port? p = some x → x.state = .auth → s.peerOk x sig key cert inter root = false → Runs (.authMessageReceive p (.proof sig key cert inter root)) s (s.authFails x))

/-- Cells, replay and lanes. An uncorrectable cell is asked for again (R347); a good one is taken in its place, a corrected one counted, one ahead of its turn waits for it (R332, R347), and cells after a lost one are discarded until it comes (R347); a control slot with its marker acts on its port (R342); the oldest cell past its time is replayed (R348); a lane that loses lock leaves its port (R359), a marginal one at once or at the boundary (R360), and one that is fit and clean rejoins at the boundary (R361); at the named frame the port takes its new width (R359) and traffic resumes with a replay. -/
def Obligations.LinkCellsComplete : Prop := ∀ (s : State),
  (∀ l q w p, s.laneOwner l = some p → l ∈ p.lanes → (p.state = .up ∨ p.state = .auth) → (decodeWord w).1 = .uncorrectable → Runs (.cellReceive l q w) s (s.nakCell p.num l (BitVec.ofNat 32 q))) ∧
  (∀ l q w p, s.laneOwner l = some p → l ∈ p.lanes → (p.state = .up ∨ p.state = .auth) → (decodeWord w).1 = .clean → p.nak = none → Runs (.cellReceive l q w) s (s.placeCell p.num ⟨BitVec.ofNat 32 q, l, w⟩)) ∧
  (∀ l q w p x, s.laneOwner l = some p → l ∈ p.lanes → (p.state = .up ∨ p.state = .auth) → (decodeWord w).1 = .clean → p.nak = none → s.port? p.num = some x →
    BitVec.ofNat 32 q ≠ x.expectSeq → seqCovered (BitVec.ofNat 32 q) (x.expectSeq - 1) = false → (∀ d ∈ x.skew, d.seq ≠ BitVec.ofNat 32 q) →
    Runs (.cellReceive l q w) s (s.updPort p.num (fun y => { y with skew := y.skew ++ [⟨BitVec.ofNat 32 q, l, w⟩] }))) ∧
  (∀ l q w p i e, s.laneOwner l = some p → l ∈ p.lanes → (p.state = .up ∨ p.state = .auth) → (decodeWord w).1 = .corrected i e → p.nak = none →
    Runs (.cellReceive l q w) s ((s.updLane l (fun x => { x with corr := satAdd32 x.corr 1 })).placeCell p.num ⟨BitVec.ofNat 32 q, l, w.set i (w.getD i 0 ^^^ e)⟩)) ∧
  (∀ l q w p m, s.laneOwner l = some p → l ∈ p.lanes → (p.state = .up ∨ p.state = .auth) → (decodeWord w).1 = .clean → p.nak = some m →
    (m ≠ BitVec.ofNat 32 q → seqCovered m (BitVec.ofNat 32 q) = true → Runs (.cellReceive l q w) s s) ∧
    (m = BitVec.ofNat 32 q → Runs (.cellReceive l q w) s ((s.updPort p.num (fun x => { x with discarding := false, nak := none })).placeCell p.num ⟨BitVec.ofNat 32 q, l, w⟩))) ∧
  (∀ l c p, s.laneOwner l = some p → (p.state = .up ∨ p.state = .auth) → c.marker = 0x48585653 → Runs (.controlSlotReceive l c) s (s.takeSlot p l c)) ∧
  (∀ p x k rest, s.port? p = some x → x.replayBuf = k :: rest → x.paused = false → (x.state = .up ∨ x.state = .auth) → Runs (.replayTimer p) s (s.replay p k.seq)) ∧
  (∀ l s1 p, s1 = s.updLane l (fun x => { x with lockLoss := if x.lockLoss = 0xFF then x.lockLoss else x.lockLoss + 1 }) → s1.laneOwner l = some p → (p.state = .up ∨ p.state = .auth) → l ∈ p.lanes →
    Runs (.laneLossOfLock l) s (s1.removeLane p l 3)) ∧
  (∀ p x w, s.port? p = some x → x.narrowTo = some w → x.paused = true →
    Runs (.widthSwitch p) s (s.updPort p (fun y => { y with lanes := w, narrowTo := none, removing := none, switchIn := 0, narrowAck := false, deal := 0, paused := true }))) ∧
  (∀ p x, s.port? p = some x → x.paused = true → x.narrowTo = none →
    Runs (.restripeDone p) s ((if x.replayBuf = [] then s.updPort p (fun y => { y with paused := false }) else (s.updPort p (fun y => { y with paused := false })).replay p (x.ackSeq + 1)).drain p)) ∧
  (∀ (l cells corr unc : Nat) p, s.laneOwner l = some p → l ∈ p.lanes → p.state = .up → s.link.policy.pinWidth = false →
      (f32ToRat s.link.policy.marginal * (cells : Rat) < (corr : Rat) ∨ s.link.policy.uncorrLimit < unc) →
    (s.stepRunning = true → Runs (.laneMarginal l cells corr unc) s (s.updLane l (fun x => { x with pendingRemove := true }))) ∧
    (s.stepRunning = false → Runs (.laneMarginal l cells corr unc) s (s.removeLane p l 0))) ∧
  (∀ l fixed cells corr p x, s.laneOwner l = some p → s.lane? l = some x → x.removed = true → p.state = .up → s.link.policy.pinWidth = false → fixed ≤ 100 → corr * 1000000 < cells →
    Runs (.laneRejoin ⟨l, fixed, 0, cells, corr⟩) s (s.updLane l (fun y => { y with pendingRejoin := true })))

/-- Packets. A packet for this chip lies in its port's buffer no longer than it takes, and its part is kept for reassembly (R346, R352), unless its records are taken by rows of their own (VC 0, 5, 6); one for another chip goes on with one hop more to the egress port that routing names and holds its cells until it leaves, or is discarded for want of hops or of a path (R354, R356). A packet blocked for too long takes the escape channel (R354); a whole batch is handed on and leaves the reassembly area (R346). -/
def Obligations.LinkPacketsComplete : Prop := ∀ (s : State),
  (∀ q p x s1, s.port? q = some x → x.carries p.vc = true → vcOpen s.isHalted p.vc = true → s1 = (s.updPort q (fun y => { y with whole := y.whole.erase p })).holdCells q (Packet.buffer p) (packetCells p) →
    (p.dest = s.chipId.toNat → fixedVc p.vc = true → Runs (.packetReceive q p) s (s1.freeCells q (Packet.buffer p) (packetCells p))) ∧
    (p.dest = s.chipId.toNat → fixedVc p.vc = false → Runs (.packetReceive q p) s ((s1.freeCells q (Packet.buffer p) (packetCells p)).keepPart p)) ∧
    (p.dest ≠ s.chipId.toNat → s.link.policy.hopLimit ≤ p.hops → Runs (.packetReceive q p) s ((s1.freeCells q (Packet.buffer p) (packetCells p)).discardPacket false)) ∧
    (p.dest ≠ s.chipId.toNat → p.hops < s.link.policy.hopLimit → s1.egressOf p = none → Runs (.packetReceive q p) s ((s1.freeCells q (Packet.buffer p) (packetCells p)).discardPacket true)) ∧
    (∀ e, p.dest ≠ s.chipId.toNat → p.hops < s.link.policy.hopLimit → s1.egressOf p = some e →
      Runs (.packetReceive q p) s (s1.enqueue e ⟨{ p with hops := p.hops + 1 }, Packet.credit p, some (q, Packet.buffer p), none⟩))) ∧
  (∀ q vc x w e, s.port? q = some x → x.blocked vc = some w → fixedVc vc = false → s.egressOf { w.pkt with escape := true } = some e → Runs (.escapeWait q vc) s
    ((({ s with link := { s.link with escapes := assocSet s.link.escapes q (satAdd32 (assocGet s.link.escapes q 0) 1) } } : State).updPort q (fun y => { y with egress := y.egress.erase w })).enqueue e
      { w with pkt := { w.pkt with escape := true }, buffer := Packet.credit { w.pkt with escape := true } })) ∧
  (∀ src vc tag r, s.link.reasm.find? (fun r => r.src == src && r.vc == vc && r.tag == tag && r.whole) = some r → Runs (.batchReassembled src vc tag) s { s with link := { s.link with
    reasm := s.link.reasm.filter (fun r => !(r.src == src && r.vc == vc && r.tag == tag)), delivered := s.link.delivered ++ [⟨src, vc, r.proto, r.inline, r.poisoned || !(s.batchRead r).good, (s.batchRead r).data⟩] } })

/-- COLL.CONFIG takes the grid, the merge mode, the chunk and the staging area (R366), and each collective takes the next number of its reduce queue and waits for its turn (R376, R378): the queue is its branch, 0 for a step-level or a direct command. -/
def Obligations.CollectiveCommandsComplete : Prop := ∀ (s b : State) (id : Nat) (c : Ctx), b = s.begun id →
  (Ready s collConfigInfo id c → Ends (.collConfig id) s id resOK { b with coll := { s.coll with dims := ((List.range 4).map (fun i => c.f (36 + 4 * i) 4)).take (c.f 32 1), det := bitAt (c.f 33 1) 0, chunkKiB := c.f 34 2, stage := c.f 56 8, stageSize := c.f 64 8 } }) ∧
  (∀ i op, ((i = .collReduceScatter id ∧ op = 0x8010) ∨ (i = .collAllGather id ∧ op = 0x8011) ∨ (i = .collAllReduce id ∧ op = 0x8012) ∨ (i = .collAllToAll id ∧ op = 0x8013)) → Ready s (collInfo op) id c → s.collBehind id = false →
    Runs i s { b with coll := { s.coll with nextId := assocSet s.coll.nextId (c.branch.getD 0) (assocGet s.coll.nextId (c.branch.getD 0) 0 + 1), jobs := s.coll.jobs ++ [
      { cmd := c.id, outs := b.collOuts c.pkt, queue := c.branch.getD 0, collId := assocGet s.coll.nextId (c.branch.getD 0) 0, started := false, accs := [], got := [], poisoned := false, fail := none }] } })

/-- The events of collectives and of pace. A collective whose turn has come reads IN, sends its first pieces and takes those that came early (R241, R378); a piece of this step is taken by its collective or held in reassembly for it, as far as there is room (R346, R376), one of another step ends it, or the step of its plan entry, and raises the wave (R50, R326, R376); a collective that has sent and received everything writes OUT and ends, and counts the time waited (R378, R385). The pace tag is formed anew and a higher level is kept for the step (R382). -/
def Obligations.CollectiveEventsComplete : Prop := ∀ (s : State),
  (∀ id j c j1 s1, s.coll? id = some j → s.runningCtx id = some c → j.started = false → s.queueFree j = true →
    j1 = { j with started := true, poisoned := !(s.readAll (s.collReads c.pkt)).good || (isCurd c.pkt && (s.curdIn c.pkt).poisoned), fail := if (s.readAll (s.collReads c.pkt)).uncorr.isEmpty then none else some ⟨stUncorrected, 0⟩ } →
    s1 = (s.noteReads 3 (s.collReads c.pkt)).doWork (s.collEnv c.pkt) (s.collBegin (s.collEnv c.pkt) j1) → (∀ x ∈ s1.coll.early, x.piece.queue = j.queue → x.piece.collId ≠ j.collId) →
    Runs (.collEntryTransferStart id) s s1) ∧
  (∀ p j, s.isHalted = false → p.step = s.step32 → s.coll.jobs.find? (fun j => j.queue == p.queue && j.collId == p.collId) = some j → j.started = true → Runs (.collPieceReceive p) s (s.takePiece j p)) ∧
  (∀ p, s.isHalted = false → p.step = s.step32 → (∀ j ∈ s.coll.jobs, j.queue = p.queue → j.collId = p.collId → j.started = false) →
    (∀ place, (s.reasmRoom p.data).2 = some place → Runs (.collPieceReceive p) s (let s1 := (s.reasmRoom p.data).1; { s1 with coll := { s1.coll with early := s1.coll.early ++ [⟨p, place⟩] } })) ∧
    ((s.reasmRoom p.data).2 = none → Runs (.collPieceReceive p) s (s.reasmRoom p.data).1)) ∧
  (∀ p j, s.isHalted = false → p.step ≠ s.step32 → s.coll.jobs.find? (fun j => j.queue == p.queue && j.collId == p.collId) = some j →
    ((s.cmd? j.cmd).bind Cmd.entry? = none → Runs (.collPieceReceive p) s ((s.endCmd j.cmd (resStatus stStepMismatch)).raiseWave 0x04 stStepMismatch)) ∧
    (∀ e, (s.cmd? j.cmd).bind Cmd.entry? = some e → Runs (.collPieceReceive p) s (s.failStep (resStatus stStepMismatch) (some e) 0x04))) ∧
  (∀ id waited j c w, s.coll? id = some j → s.runningCtx id = some c → s.collSent j = true → (s.collEnv c.pkt).allHere j = true → j.fail = none → j.poisoned = false →
    w = (({ s with coll := { s.coll with jobs := s.coll.jobs.filter (fun k => k.cmd != id) } } : State).addWait 4 waited).writeColl c (s.collEnv c.pkt) j → writeStatus w.2 = none →
    Ends (.collComplete id waited) s id resOK w.1) ∧
  (∀ id waited j c, s.coll? id = some j → s.runningCtx id = some c → s.collSent j = true → (s.collEnv c.pkt).allHere j = true → j.fail = none → j.poisoned = true →
    Ends (.collComplete id waited) s id (resStatus stPoisoned) ((({ s with coll := { s.coll with jobs := s.coll.jobs.filter (fun k => k.cmd != id) } } : State).addWait 4 waited).poisonColl c.pkt)) ∧
  (∀ i, Runs (.paceTagTick i) s { s with halt := { s.halt with ownTag := paceTag s.E i, topTag := if s.stepRunning && decide (paceLevel s.halt.topTag < paceLevel (paceTag s.E i)) then paceTag s.E i else s.halt.topTag } })

/-- The fault wave. A chip that detects a fault halts as its origin: HST_HALT names it, HOPS 0 and SELF, and a halt cell with HOPS 1 leaves on every rank port (R388); so for a host's request (R391), a core fault (R386), a rail fault, a lost reference clock and a missing heartbeat. A cell from a rank halts the chip and goes on to every other rank port with one hop more; from another peer it is dropped and counted (R388). A halted chip takes no second wave. -/
def Obligations.FaultWaveSpreads : Prop := ∀ (s : State),
  (∀ i cause, ((i = .coreFault ∧ cause = 0x0B) ∨ (i = .railFault ∧ cause = 0x12) ∨ (i = .refclkLoss ∧ cause = 0x14) ∨ (i = .stewardHeartbeatTimeout ∧ cause = 0x11) ∨
      (i = .hstHaltReq 1 ∧ cause = 0x09 ∧ s.host.d3hot = false)) →
    (s.halt.halted = true → Runs i s s) ∧
    (∀ h, s.halt.halted = false → h = { s.halt with halted := true, hops := 0, cause := cause, origin := s.chipId, status := 0, port := 0, self := true, step := s.plans.stepNo.setWidth 32 } →
      Runs i s (s.rankPorts.foldl (fun t p => t.send (.halt p ⟨s.chipId.toNat, 1, s.chipId.toNat, cause, 0, s.plans.stepNo.setWidth 32⟩)) (((s.haltChip h).telem 4 65 0 0 (haltBody h)).console (.halt cause))))) ∧
  (∀ port c, port ∉ s.rankPorts → Runs (.haltCellReceive port c) s { s with halt := { s.halt with dropped := satAdd32 s.halt.dropped 1 } }) ∧
  (∀ port c, port ∈ s.rankPorts → s.halt.halted = true → Runs (.haltCellReceive port c) s s) ∧
  (∀ port c h, port ∈ s.rankPorts → s.halt.halted = false →
    h = { s.halt with halted := true, hops := BitVec.ofNat 7 c.hops, cause := c.cause, origin := BitVec.ofNat 16 c.origin, status := c.status, port := BitVec.ofNat 6 port, self := false, step := c.step } →
    Runs (.haltCellReceive port c) s ((s.rankPorts.filter (· != port)).foldl (fun t p => t.send (.halt p { c with src := t.chipId.toNat, hops := (c.hops + 1) % 128 }))
      (((s.haltChip h).telem 4 65 0 0 (haltBody h)).console (.halt c.cause))))

/-- The MEM settings and reports. MEM.INFO writes the build record (R418); MEM.SHARE's weights wait for the step boundary (R406); MEM.POLICY sets its limits and logs each port whose refresh rate changes (R417); MEM.REMAP_READ writes the port's table (R417); MEM.RETRAIN begins a retrain (R417); MEM.CACHE_SPLIT writes back, invalidates and divides anew (R433); MEM.CACHE_FLUSH cleans every dirty line and reports how many (R433); MEM.STACK_AREA (R585). -/
def Obligations.MemSettingsComplete : Prop := ∀ (s b : State) (id : Nat) (c : Ctx), b = s.begun id →
  (∀ w, Ready s memInfoInfo id c → w = b.storeAt c 4 (c.f 40 8) b.buildRecord → Ends (.memInfo id) s id ((writeStatus w.2).getD resOK) w.1) ∧
  (Ready s memShareInfo id c → Ends (.memShare id) s id resOK { b with gddr := { s.gddr with pendingWeights := some ((List.range 6).map (fun i => c.f (32 + i) 1)) } }) ∧
  (∀ t g, Ready s memPolicyInfo id c → t = (if c.f 33 1 = 0 then 8 else c.f 33 1) →
    g = { s.gddr with minRefresh := c.f 32 1, threshold := t, pinRemap := bitAt (c.f 34 1) 0, scrubPeriod := c.f 36 4 } →
    Ends (.memPolicy id) s id resOK (s.presentPorts.foldl (fun u p => u.refreshLogged ((s.memPort? p).elim 0 s.refreshOf) p 1) { b with gddr := g })) ∧
  (∀ m w, Ready s memRemapReadInfo id c → s.memPort? (c.f 32 1) = some m → w = b.storeAt c 4 (c.f 40 8) m.remapBytes → Ends (.memRemapRead id) s id ((writeStatus w.2).getD resOK) w.1) ∧
  (∀ m, Ready s memRetrainInfo id c → s.memPort? (c.f 32 1) = some m →
    (m.retraining = false → Ends (.memRetrain id) s id resOK
      ((b.updMemPort (c.f 32 1) (fun m => { m with retraining := true, retrainPending := false })).decision 2 (c.f 32 1) [marginWord m.trainedMargin, marginWord m.measuredMargin] 0 1)) ∧
    (m.retraining = true → Ends (.memRetrain id) s id resOK b)) ∧
  (Ready s memCacheSplitInfo id c → Ends (.memCacheSplit id) s id resOK { b with mem := s.mem.split (c.f 32 1) }) ∧
  (Ready s memCacheFlushInfo id c → Ends (.memCacheFlush id) s id (resIndex (s.mem.lines.filter (·.dirty)).length) { b with mem := s.mem.flush }) ∧
  (Ready s memStackAreaInfo id c → Ends (.memStackArea id) s id resOK { b with mem := { s.mem with stack := c.f 32 1 } })

/-- MEM.COPY copies the words before the first uncorrectable one, poisoned data with its poison, and ends with UNCORRECTED where it met one (R434); MEM.FILL repeats the pattern of the packet (R434). MEM.ATOMIC reads, computes and writes at its slice, or adds at its port, and writes the old value to RESULT when that is not 0 (R429, R435). -/
def Obligations.MemDataComplete : Prop := ∀ (s b : State) (id : Nat) (c : Ctx), b = s.begun id →
  (∀ r k, Ready s memCopyInfo id c → r = s.readAt c (c.f 40 8) (c.f 56 8) → r.uncorr = [] → k = (b.noteReadAt c 4 (c.f 40 8) (c.f 56 8)).storeAt c 4 (c.f 48 8) (r.data.take (c.f 56 8)) →
    Ends (.memCopy id) s id resOK k.1) ∧
  (∀ r w ws k, Ready s memCopyInfo id c → r = s.readAt c (c.f 40 8) (c.f 56 8) → r.uncorr = w :: ws →
    k = (b.noteReadAt c 4 (c.f 40 8) (min (c.f 56 8) (w - c.f 40 8 + 32))).storeAt c 4 (c.f 48 8) (r.data.take (w - c.f 40 8)) →
    Ends (.memCopy id) s id (resStatus stUncorrected) k.1) ∧
  (Ready s memFillInfo id c → Ends (.memFill id) s id resOK (b.storeAt c 4 (c.f 40 8) ((List.replicate (c.f 48 8 / 32) (padTo 32 ((c.pkt.drop 64).take 32))).flatten)).1) ∧
  (∀ a n v new r u (fresh : Bool), Ready s memAtomicInfo id c → a = c.f 40 8 → n = tyBytes (atTy c.pkt) → v = c.f 48 8 % 256 ^ n → r = s.read a n → r.good = true → atOp c.pkt ≠ .add →
    new = atomValue (atOp c.pkt) (atTy c.pkt) (leNat r.data) v (c.f 56 8 % 256 ^ n) →
    (fresh = true ↔ atTy c.pkt = .fp32 ∧ (atOp c.pkt = .min ∨ atOp c.pkt = .max) ∧ f32Finite (BitVec.ofNat 32 new) = false ∧ f32Finite (BitVec.ofNat 32 (leNat r.data)) = true ∧ f32Finite (BitVec.ofNat 32 v) = true) →
    u = ((if fresh then (b.noteRead 0 a n).countNonfinite 1 else b.noteRead 0 a n).store 0 a (toLE n new)).1 →
    (c.f 64 8 = 0 → Ends (.memAtomic id) s id resOK u) ∧
    (∀ k, c.f 64 8 ≠ 0 → k = u.storeAt c 4 (c.f 64 8) (toLE n (leNat r.data)) → Ends (.memAtomic id) s id ((writeStatus k.2).getD resOK) k.1)) ∧
  (∀ a n q k, Ready s memAtomicInfo id c → a = c.f 40 8 → n = tyBytes (atTy c.pkt) → atOp c.pkt = .add → q = b.memoryAdd (oneAdd a (addTy (atTy c.pkt)) (c.f 48 8 % 256 ^ n)) → q.2 = none →
    (c.f 64 8 = 0 → Ends (.memAtomic id) s id resOK q.1) ∧
    (c.f 64 8 ≠ 0 → k = q.1.storeAt c 4 (c.f 64 8) (toLE n (leNat (s.read a n).data)) → Ends (.memAtomic id) s id ((writeStatus k.2).getD resOK) k.1))

/-- The events of the memory system. A timing sample above half the trained margin is kept alone, one below it retrains the port at the boundary, or at once, logged, below a quarter or with no step (R401); a retrain ends with the new margin, or is logged as failed and raises the wave (R401). A reading enters its port's record, is logged where the refresh rate changes, and raises the wave at two readings of 110 °C (R407, R408). A chosen row is remapped to the nearest free spare, or REMAP_FULL is set (R411, R412). Entries go to flash in their order (R413). Patrols repair what they read (R414, R473); copies of quarantined banks end (R474); held writes leave with the check bursts of their lines (R398, R404). -/
def Obligations.MemEventsComplete : Prop := ∀ (s : State),
  (∀ p q m u, s.memPort? p = some m → m.retraining = false → u = s.updMemPort p (fun m => { m with measuredMargin := q }) →
    (m.trainedMargin / 2 ≤ q → Runs (.memTimingSample p q) s u) ∧
    (q < m.trainedMargin / 2 → (q < m.trainedMargin / 4 ∨ s.stepRunning = false) → Runs (.memTimingSample p q) s
      ((u.updMemPort p (fun m => { m with retraining := true, retrainPending := false })).decision 2 p [marginWord m.trainedMargin, marginWord q] 0 0)) ∧
    (q < m.trainedMargin / 2 → m.trainedMargin / 4 ≤ q → s.stepRunning = true → Runs (.memTimingSample p q) s (u.updMemPort p (fun m => { m with retrainPending := true })))) ∧
  (∀ p q m, s.memPort? p = some m → m.retraining = true →
    Runs (.memPortRetrainDone p true q) s ((s.updMemPort p (fun m => { m with retraining := false, measuredMargin := q, trainedMargin := q })).memEvent p (fun g => { g with evRetrain := true })) ∧
    Runs (.memPortRetrainDone p false q) s (((s.updMemPort p (fun m => { m with retraining := false, measuredMargin := q })).decision 2 p [marginWord m.trainedMargin, marginWord q] 2 3).raiseWave 0x0F 0)) ∧
  (∀ p t m n u, s.memPort? p = some m → m.sensorFault = false → m.implausible = 0 → plausibleTemp (-40) 140 m.lastTemp (some t) = true → n = m.take (some t) →
    u = (s.updMemPort p (fun _ => n)).refreshLogged (s.refreshOf m) p 0 →
    ((t < 105 ∨ m.lastTemp.getD 0 < 105) → Runs (.memTempRead p (some t)) s u) ∧
    (∀ x, m.lastTemp = some x → 110 ≤ x → 110 ≤ t → Runs (.memTempRead p (some t)) s ((u.decision 1 p [s.refreshOf m, u.refreshOf n, ratWord t] 0 0).raiseWave 0x0E 0))) ∧
  (∀ p m, s.memPort? p = some m → m.sensorFault = false → m.implausible = 2 →
    Runs (.memTempRead p none) s (((s.updMemPort p (fun _ => { m with implausible := 3, plausible := 0, sensorFault := true })).memEvent p (fun g => { g with evSensor := true })).refreshLogged (s.refreshOf m) p 3)) ∧
  (∀ p m ch row rest u, s.memPort? p = some m → m.remapQueue = (ch, row) :: rest → s.gddr.pinRemap = false → s.rowInUse m ch row = true → u = s.updMemPort p (fun m => { m with remapQueue := rest }) →
    (∀ sp, (m.remaps.length < 4096 ∨ m.origin ch row ≠ row) → m.nearestSpare ch s.physRows row = some sp → Runs (.rowRemap p) s (u.remapTo p ch row sp m)) ∧
    ((4096 ≤ m.remaps.length ∧ m.origin ch row = row ∨ m.nearestSpare ch s.physRows row = none) →
      Runs (.rowRemap p) s (((u.updMemPort p (fun m => { m with remapFull := true })).memEvent p (fun g => { g with evRemapFull := true })).decision 3 p [row, 0, assocGet m.counts (ch, row) 0] 2 0))) ∧
  (∀ p m x rest, s.memPort? p = some m → m.remapQueue = x :: rest → s.gddr.pinRemap = true → Runs (.rowRemap p) s (s.updMemPort p (fun m => { m with remapQueue := rest }))) ∧
  (∀ e rest, s.flash.remapWaiting = e :: rest → Runs .remapFlashWrite s { s with flash := { (s.flash.writeRemap e) with remapWaiting := rest } }) ∧
  (∀ p ch row m u, s.memPort? p = some m → m.retraining = false → ch < 4 → s.rowInUse m ch row = true → s.rowErrs p ch row = [] → u = s.useBursts (s.rowLines m ch row) →
    Runs (.gddrScrub p ch row) s (if ch = 3 ∧ row = s.lastScrubbed m then u.updMemPort p (fun m => { m with counts := [] }) else u)) ∧
  (∀ p ch row m wa u, s.memPort? p = some m → m.retraining = false → ch < 4 → s.rowInUse m ch row = true → s.rowErrs p ch row = [wa] → (ch ≠ 3 ∨ row ≠ s.lastScrubbed m) → u = s.useBursts (s.rowLines m ch row) →
    (∀ x y, (s.mem.readWord wa (cellRead s.mem.cells wa 32)).1 = .corrected x y → Runs (.gddrScrub p ch row) s (({ u with mem := u.mem.repair wa } : State).noteCorrected wa)) ∧
    ((s.mem.readWord wa (cellRead s.mem.cells wa 32)).1 = .uncorrectable → Runs (.gddrScrub p ch row) s (u.noteUncorr wa))) ∧
  (∀ r w wa, r ∈ s.enabled → w + 1 < scratchWords → wa = scratchBase + s.logical r * 0x2000000 + 32 * w →
    ((s.mem.readWord wa (cellRead s.mem.cells wa 32)).1 = .clean → Runs (.scratchPatrol r w) s s) ∧
    (∀ x y, (s.mem.readWord wa (cellRead s.mem.cells wa 32)).1 = .corrected x y → Runs (.scratchPatrol r w) s (({ s with mem := s.mem.repair wa } : State).noteCorrected wa)) ∧
    ((s.mem.readWord wa (cellRead s.mem.cells wa 32)).1 = .uncorrectable → Runs (.scratchPatrol r w) s (({ s with mem := s.mem.putWords wa poisonWord } : State).noteUncorr wa))) ∧
  (∀ sl w, sl < 8 → 32 * w < s.mem.direct * 2 ^ 20 → Runs (.cachePatrol sl w) s (s.patrolWord (directAddr sl w))) ∧
  Runs .quarantineCopyDone s { s with mem := { s.mem with copying := [] } } ∧
  (∀ ch, Runs (.memWriteBatchSend ch) s
    (({ s with mem := { s.mem with held := s.mem.held.filter (fun a => decide (s.channelOf a ≠ ch)) } } : State).useBursts (linesOfSectors (s.mem.held.filter (fun a => decide (s.channelOf a = ch))))))

/-- POWER.CAP sets the cap and the current limit, 0 leaving each as it is (R454, R456); POWER.CLOCK sets the range and the pins (R458, R463); POWER.HINT adds a hint (R464). -/
def Obligations.PowerCommandsComplete : Prop := ∀ (s b : State) (id : Nat) (c : Ctx), b = s.begun id →
  (Ready s powerCapInfo id c → Ends (.powerCap id) s id resOK { b with power := { s.power with cap := if c.f 32 2 = 0 then s.power.cap else c.f 32 2, icc := if c.f 34 2 = 0 then s.power.icc else c.f 34 2 } }) ∧
  (Ready s powerClockInfo id c → Ends (.powerClock id) s id resOK { b with power := { s.power with fMin := c.f 32 1, fMax := c.f 33 1, pin := bitAt (c.f 34 1) 0, pinGuard := bitAt (c.f 34 1) 1 } }) ∧
  (Ready s powerHintInfo id c → Ends (.powerHint id) s id resOK { b with power := { s.power with hints := s.power.hints ++ [⟨c.f 32 1, c.f 33 1, c.f 36 2, c.f 36 2 + c.f 38 2⟩] } })

/-- The events of power and clock. The estimator forms the unbubbled estimate from what the islands counted, a gated ridge counting nothing (R384), under the open hints, and the share of bubbles that keeps it under the cap (R455); a good current reading moves the gain by at most 2 percent and a bad one counts towards the fallback, which the third begins (R451, R452); the governor lowers the clock at once and raises it through the rail (R458, R459); a settled rail makes the raise, or waits until no stretch has been in force for 1 µs (R459, R462, R468). A droop stretches its ridge and counts once (R461); the guard grows or shrinks by 5 mV, within 0 to 25 (R463). -/
def Obligations.PowerEventsComplete : Prop := ∀ (s : State) (p : Power), p = s.power →
  (∀ listed cs hs u b, cs = s.counted listed → hs = openHints p.hints → u = s.unbubbled cs hs → b = bubbleShare p.limit (u.1 + p.overAmps - p.effectiveCap) u.2 → Runs (.estimatorTick listed) s
    { s with power := { p with pEst := s.dynamic cs hs 1 (fun _ => true) + s.leakage, estWindow := ((s.dynamic cs hs 1 (fun _ => true) + s.leakage) :: p.estWindow).take 50, pUnb := u.1, ridgeDyn := u.2, lastCounts := cs, overAmps := 0, bubble := b, hints := ageHints p.hints, cause := (if p.cause = 0 ∧ 0 < b ∧ p.limit = false then (if p.boardBinds then 3 else 1) else p.cause), evCapUnmet := p.evCapUnmet || decide (b = 9 / 10 ∧ p.freq ≤ 48 ∧ (p.effectiveCap : Rat) < u.1 - b * u.2) } }) ∧
  (∀ amps volts w dis, p.ampsBad amps true = false → p.calFallback = false → Runs (.calibrationTick amps volts w true dis) s
    { s with power := { p with lastReadings := (amps :: p.lastReadings).take 3, calBad := 0, calGood := min (p.calGood + 1) 100, lastAmps := some amps, lastEst := p.pEst, measured := amps * volts, overAmps := (if (p.icc : Rat) < amps then (amps - p.icc) * volts else 0), gain := (if dis then p.gain else nextGain p.gain (amps * volts) w) } }) ∧
  (∀ amps volts w dis, p.calFallback = false → p.calBad < 2 → Runs (.calibrationTick amps volts w false dis) s
    { s with power := { p with lastReadings := (amps :: p.lastReadings).take 3, calBad := p.calBad + 1, calGood := 0 } }) ∧
  (∀ amps volts w dis, p.calFallback = false → p.calBad = 2 → Runs (.calibrationTick amps volts w false dis) s
    (({ s with power := { p with lastReadings := (amps :: p.lastReadings).take 3, calBad := 3, calGood := 0, calFallback := true, gain := max p.gain (110 / 100), evCal := true } } : State).decision 7 0 (((amps :: p.lastReadings).take 3).map ampWord) 0 0)) ∧
  (∀ cc t s1, p.hints = [] → cc = p.capCode p.pUnb p.ridgeDyn → t = p.targetCode cc → s1 = { s with power := { p with target := t, raiseTo := none, railReported := false, cause := p.clockCause cc } } →
    (t = p.freq → Runs .governorTick s { s1 with power := { s1.power with rail := s1.power.setPoint p.freq } }) ∧
    (∀ s2, t < p.freq → s2 = s1.clockTo (max t (p.freq - 8)) → Runs .governorTick s { s2 with power := { s2.power with rail := s2.power.setPoint (max t (p.freq - 8)) } }) ∧
    (p.freq < t → Runs .governorTick s { s1 with power := { s1.power with raiseTo := some (min t (p.freq + 2)), rail := s1.power.setPoint (min t (p.freq + 2)) } })) ∧
  (∀ k, p.raiseTo = some k →
    (p.droop = true → Runs .railSettled s { s with power := { p with railReported := true } }) ∧
    (p.droop = false → Runs .railSettled s (({ s with power := { p with raiseTo := none, railReported := false } } : State).clockTo k)) ∧
    (s.stretching = false → p.railReported = true → Runs .droopCleared s (({ s with power := { p with droop := false, raiseTo := none, railReported := false } } : State).clockTo k))) ∧
  (p.raiseTo = none → Runs .railSettled s s) ∧
  (s.stretching = false → p.railReported = false → Runs .droopCleared s { s with power := { p with droop := false } }) ∧
  (s.stretching = true → Runs .droopCleared s s) ∧
  (∀ r x, s.ridge? r = some x →
    (x.stretching = false → x.enabled = true → Runs (.droopDetect r) s
      (({ s with power := { p with droop := true } } : State).updRidge r (fun y => { y with stretching := true, droops := satAdd32 y.droops 1 }))) ∧
    ((x.stretching = true ∨ x.enabled = false) → Runs (.droopDetect r) s s)) ∧
  (∀ r, Runs (.droopStretchEnd r) s (s.updRidge r (fun x => { x with stretching := false }))) ∧
  (∀ long share n, p.pinGuard = false → ((long = false ∧ 1 / 100 < share ∧ n = min 25 (p.guard + 5)) ∨ (long = true ∧ share ≤ 1 / 1000 ∧ n = p.guard - 5)) → n ≠ p.guard → Runs (.guardWindow long share) s
    (({ s with power := { p with guard := n, evGuard := true, rail := ({ p with guard := n, evGuard := true } : Power).setPoint p.freq } } : State).decision 6 0 [p.guard, n, ratClamp (share * 10000) 0 10000] 0 0)) ∧
  (∀ long share, p.pinGuard = true → Runs (.guardWindow long share) s s)

/-- Temperature, trips and the matrix domains. A junction reading sets T_j, throttles at 100 °C and limits at 105 °C, each until 3 or 2 degrees below (R465, R466). A trip is recorded and raises the wave with CAUSE 0x0A; then THERM_TRIP_N falls, the domains lose power with what they held, and PWR_TRIP keeps the sensor and its temperature (R467). A domain that switched on lets the waiting commands start when none is switching (R17); an idle one switches off (R448). -/
def Obligations.ThermalEventsComplete : Prop := ∀ (s : State) (p : Power), p = s.power →
  (∀ rs xs h th li, xs = (p.sensors.zipIdx).map (fun x => x.1.take (rs.getD x.2 none)) → h = hottestOf xs →
    (th = true ↔ (100 ≤ h.1 ∨ p.throttle = true ∧ 97 ≤ h.1)) → (li = true ↔ (105 ≤ h.1 ∨ p.limit = true ∧ 103 ≤ h.1)) → Runs (.junctionSensorRead rs) s
    { s with power := { p with sensors := xs, tj := h.1, hottest := h.2, throttle := th, limit := li, thermalCode := (if th then max 48 (p.thermalCode - 4) else min 132 (p.thermalCode + 2)), bubble := (if li then 9 / 10 else p.bubble), evSensor := p.evSensor || (p.sensors.zip xs).any (fun x => !x.1.faulted && x.2.faulted), evThrottle := p.evThrottle || (th && !p.throttle), evLimit := p.evLimit || (li && !p.limit) } }) ∧
  (∀ n t, s.trip.pending = none → s.trip.pinLow = false → Runs (.thermalTrip n t) s (({ s with trip := { s.trip with pending := some (n, t) } } : State).raiseWave 0x0A 0)) ∧
  (∀ n t, s.trip.pending = some (n, t) → Runs .tripPowerOff s
    { s with trip := { s.trip with tripped := true, sensor := BitVec.ofNat 8 n, temp := t, pending := none, pinLow := true }, ridges := s.ridges.map (fun r => { r with matrixOn := false, waking := false }), link := { s.link with ports := s.link.ports.map (fun q => if q.state = .none then q else { q.reset with state := .down }) }, mem := s.mem.powerLost }) ∧
  (s.trip.pending = none → Runs .tripPowerOff s s) ∧
  (∀ r s1, s1 = s.updRidge r (fun x => if x.waking then { x with matrixOn := true, waking := false } else x) →
    ((∃ x ∈ s1.ridges, x.waking = true) → Runs (.domainOnDone r) s s1) ∧
    ((∀ x ∈ s1.ridges, x.waking = false) → Runs (.domainOnDone r) s { s1 with queues := { s1.queues with cmds := mapWhere (fun c => c.stage == .waking) (fun c => { c with stage := .taken }) s1.queues.cmds } })) ∧
  (∀ r, (∀ q ∈ s.plans.store, q.usesMatrix (s.logical r) = false) → s.matrix.groups = [] → (∀ c ∈ s.queues.cmds, c.stage.live = true → usesTree c.pkt = false) →
    Runs (.matrixDomainIdleOff r) s (s.updRidge r (fun x => if x.waking then x else { x with matrixOn := false }))) ∧
  (∀ r q, q ∈ s.plans.store → q.usesMatrix (s.logical r) = true → Runs (.matrixDomainIdleOff r) s s)

/-- HEALTH and TELEM. HEALTH.POLICY sets its limits (R476); HEALTH.TEST starts its test, an intrusive one with its ridges in register mode (R160, R478), one of the tree array once their ridge-matrix domains are on (R17); HEALTH.CLEAR_HALT of a halted chip discards what R491 names and clears HALTED, and does nothing otherwise; HEALTH.RETIRE records a pending retirement once, and with CANCEL takes it back (R480); TELEM.RING installs or removes the ring (R481); TELEM.COUNTERS writes the table of R485 and clears it when asked. -/
def Obligations.HealthCommandsComplete : Prop := ∀ (s b : State) (id : Nat) (c : Ctx), b = s.begun id →
  (Ready s healthPolicyInfo id c → Ends (.healthPolicy id) s id resOK { b with health := { s.health with scratchPeriod := c.f 32 2, cachePeriod := c.f 34 2, quarLimit := c.f 36 1, testShare := c.f 37 1, pinQuar := bitAt (c.f 38 1) 0, pinRetire := bitAt (c.f 38 1) 1 } }) ∧
  (∀ off, Ready s healthTestInfo id c → testsTree (c.f 32 1) = true → off = s.switchedOff ((s.testRidges c.pkt).map s.physical) → off ≠ [] → Runs (.healthTest id) s (b.wakeFor c.id off)) ∧
  (Ready s healthTestInfo id c → intrusive (c.f 32 1) = true → (testsTree (c.f 32 1) = false ∨ s.switchedOff ((s.testRidges c.pkt).map s.physical) = []) → Runs (.healthTest id) s
    ((s.testRidges c.pkt).foldl (fun t r => t.updRidge (t.physical r) (fun x => { x with registerMode := true })) { b with health := { s.health with testing := s.health.testing ++ [(c.id, c.f 32 1, s.testRidges c.pkt)] } })) ∧
  (Ready s healthTestInfo id c → intrusive (c.f 32 1) = false → Runs (.healthTest id) s { b with health := { s.health with testing := s.health.testing ++ [(c.id, c.f 32 1, [])] } }) ∧
  (∀ us, Ready s (healthClearHaltInfo us) id c → s.isHalted = true → Ends (.healthClearHalt id us) s id resOK { b.discardTransient with halt := { s.halt with halted := false } }) ∧
  (∀ us, Ready s (healthClearHaltInfo us) id c → s.isHalted = false → Ends (.healthClearHalt id us) s id resOK b) ∧
  (∀ ph (pending : Bool), ph = s.physical (c.f 32 1) → pending = s.flash.retire.ridgesPending.getLsbD ph → Ready s healthRetireInfo id c →
    (bitAt (c.f 33 1) 0 = false → pending = false → Ends (.healthRetire id) s id resOK (b.retirePending ph 0 1)) ∧
    (bitAt (c.f 33 1) 0 = false → pending = true → Ends (.healthRetire id) s id resOK b) ∧
    (bitAt (c.f 33 1) 0 = true → pending = false → Ends (.healthRetire id) s id resOK b) ∧
    (bitAt (c.f 33 1) 0 = true → pending = true → Ends (.healthRetire id) s id resOK
      (({ b with flash := { s.flash with retire := { s.flash.retire with seq := s.flash.retire.seq + 1, ridgesPending := s.flash.retire.ridgesPending &&& ~~~(1 <<< ph : W64) } } } : State).decision 12 ph [0] 0 1))) ∧
  (Ready s telemRingInfo id c → Ends (.telemRing id) s id resOK
    { b with health := { s.health with ring := (if c.f 40 8 = 0 then none else some (c.f 40 8, c.f 32 1, c.f 34 2, BitVec.ofNat 64 (c.f 48 8))), head := 0, headLag := 0, tail := 0 } }) ∧
  (∀ w, Ready s telemCountersInfo id c → w = b.storeAt c 4 (c.f 40 8) b.counterTable →
    Ends (.telemCounters id) s id ((writeStatus w.2).getD resOK) (if bitAt (c.f 33 1) 0 then w.1.clearCounters else w.1))

/-- The events of health and of images in flash. A test that passes ends its command with OK (R478, R479); a test that fails ends its command, records the failing units, and then has its consequences and, where there is one, the wave (R479). An image write ends with the slot holding the image and, with ACTIVATE, a trial descriptor (R533); a cairn sector is erased and the waiting records are written (R518); HST_TELEM_TAIL takes what the host writes (R481). -/
def Obligations.HealthEventsComplete : Prop := ∀ (s : State),
  (∀ id t code rs fs s1, s.health.testing.find? (fun t => t.1 == id) = some (t, code, rs) → (s.runningCtx id).isSome = true →
    s1 = ((({ s with health := { s.health with testing := s.health.testing.filter (fun t => t.1 != id), testFail := s.health.testFail || !fs.isEmpty } } : State)).endCmd id (testResult fs)).telem 5 66 0 0 (testBody code fs) →
    (fs = [] → Runs (.selfTestDone id fs) s s1) ∧
    (∀ f, fs = [f] → (s1.testFailure code f).2 = none → Runs (.selfTestDone id fs) s (s1.testFailure code f).1) ∧
    (∀ f cause, fs = [f] → (s1.testFailure code f).2 = some cause → Runs (.selfTestDone id fs) s ((s1.testFailure code f).1.raiseWave cause 0))) ∧
  (∀ img u, s.sec.image = .writing img false → u = s.setOtherSlot img → Runs (.imageWriteDone true) s { u with sec := { u.sec with image := .done img.length } }) ∧
  (∀ img u, s.sec.image = .writing img true → u = s.setOtherSlot img →
    Runs (.imageWriteDone true) s { u with flash := { u.flash with desc := ⟨u.flash.desc.seq + 1, !s.boot.slot, true⟩ }, sec := { u.sec with image := .done img.length } }) ∧
  (∀ img act, s.sec.image = .writing img act → ∃ (bs : List Byte) (n : Nat), bs.length = img.length ∧ n ≤ img.length ∧
    Runs (.imageWriteDone false) s { (({ s with free := s.free + 1 } : State).setOtherSlot bs) with sec := { s.sec with image := .failed n } }) ∧
  (∀ f, f = { s.flash with nextErased := true, cairnWaiting := [], cairn := s.flash.cairn.drop (s.flash.cairn.length - 31) } →
    Runs .flashSectorEraseDone s { s with flash := s.flash.cairnWaiting.foldl Flash.addCairn f }) ∧
  (∀ v, s.host.d3hot = false → Runs (.hstTelemTail v) s { s with health := { s.health with tail := v } })

/-- CTX. CTX.SIZE writes the image length (R493). CTX.SAVE writes the image to device memory, or sends the first 64 MiB of it to the gateway and waits (R494, R497); CTX.RESTORE restores an image in device memory, or asks the gateway for it (R497, R499). On a chip that is not halted an acknowledgement lets the next data go, the last one completes the save, an ERROR ends it; data joins the image, the last of it lets the restore happen (R497, R499). -/
def Obligations.CtxCommandsComplete : Prop := ∀ (s b : State) (id : Nat) (c : Ctx), b = s.begun id →
  (∀ w, Ready s ctxSizeInfo id c → w = b.storeAt c 4 (c.f 40 8) (toLE 8 b.imageLength) → Ends (.ctxSize id) s id ((writeStatus w.2).getD resOK) w.1) ∧
  (∀ w, Ready s ctxSaveInfo id c → (s.readAll s.imageReads).uncorr = [] → c.f 32 1 = 0 → w = (b.noteReads 4 s.imageReads).storeAt c 4 (c.f 40 8) b.image →
    Ends (.ctxSave id) s id ((writeStatus w.2).getD (savedResult b.image)) w.1) ∧
  (∀ u x, Ready s ctxSaveInfo id c → (s.readAll s.imageReads).uncorr = [] → c.f 32 1 ≠ 0 → u = b.noteReads 4 s.imageReads → x = ⟨c.id, true, c.f 34 2, c.f 36 4, b.image, 0⟩ →
    Runs (.ctxSave id) s (({ u with streams := u.streams ++ [x] } : State).sendImage x 0 (min b.image.length gatewayWindow))) ∧
  (∀ r k, Ready s ctxRestoreInfo id c → c.f 32 1 = 0 → r = s.readAt c (c.f 40 8) (c.f 48 8) → r.uncorr = [] → k = (b.noteReadAt c 4 (c.f 40 8) (c.f 48 8)).restoreImage r.data (c.f 48 8) →
    Ends (.ctxRestore id) s id k.2 k.1) ∧
  (Ready s ctxRestoreInfo id c → c.f 32 1 ≠ 0 → Runs (.ctxRestore id) s
    (({ b with streams := s.streams ++ [⟨c.id, false, c.f 34 2, c.f 36 4, [], gatewayWindow⟩] } : State).send (.gatewayRead (c.f 34 2) (c.f 36 4) 0 64))) ∧
  (∀ chip tag off x, s.isHalted = false → s.stream? true chip tag = some x →
    Ends (.gatewayAck chip tag off true) s x.cmd (resStatus stNoResource) { s with streams := s.streams.filter (fun y => y.cmd != x.cmd) } ∧
    (x.image.length ≤ max x.acked (32 * off) → Ends (.gatewayAck chip tag off false) s x.cmd (savedResult x.image) { s with streams := s.streams.filter (fun y => y.cmd != x.cmd) }) ∧
    (∀ a, a = max x.acked (32 * off) → a < x.image.length → Runs (.gatewayAck chip tag off false) s
      (({ s with streams := mapWhere (fun y => y.cmd == x.cmd) (fun y => { y with acked := a }) s.streams } : State).sendImage x (min x.image.length (x.acked + gatewayWindow)) (min x.image.length (a + gatewayWindow))))) ∧
  (∀ chip tag off last data x, s.isHalted = false → s.stream? false chip tag = some x →
    Ends (.gatewayReadData chip tag off last true data) s x.cmd (resStatus stNoResource) { s with streams := s.streams.filter (fun y => y.cmd != x.cmd) } ∧
    (∀ k, 32 * off = x.image.length → last = true → k = (s.dropStream x).restoreImage (x.image ++ data) (x.image ++ data).length → Ends (.gatewayReadData chip tag off last false data) s x.cmd k.2 k.1) ∧
    (32 * off = x.image.length → last = false → (x.image ++ data).length < x.acked → Runs (.gatewayReadData chip tag off last false data) s
      { s with streams := mapWhere (fun y => y.cmd == x.cmd) (fun y => { y with image := x.image ++ data, acked := x.acked }) s.streams }))

/-- The boot codes of CFG (R525). CFG.STAEZ_READ writes the copy that it names, or the image in force; CFG.STAEZ_WRITE writes a good image over the older copy, and ends with BAD_PARAM, reason 0x38, on a bad one; CFG.CAIRN_READ writes the records of the newest starts and reports how many; CFG.BOOT_CLEAR writes a CLEAR record and a retirement record. -/
def Obligations.BootSettingsComplete : Prop := ∀ (s b : State) (id : Nat) (c : Ctx), b = s.begun id →
  (∀ x w, Ready s cfgStaezReadInfo id c → ((c.f 32 1 = 0 ∧ x = s.flash.staez0) ∨ (c.f 32 1 = 1 ∧ x = s.flash.staez1) ∨ (c.f 32 1 = 2 ∧ x = s.boot.staez)) → w = b.storeAt c 4 (c.f 40 8) (padTo 512 x) →
    Ends (.cfgStaezRead id) s id ((writeStatus w.2).getD resOK) w.1) ∧
  (∀ r, Ready s cfgStaezWriteInfo id c → r = s.readAt c (c.f 40 8) 512 → r.good = true →
    (staezFields false r.data = true → Ends (.cfgStaezWrite id) s id resOK ((b.noteReadAt c 4 (c.f 40 8) 512).writeStaez r.data)) ∧
    (staezFields false r.data = false → Ends (.cfgStaezWrite id) s id (badParam 0x38 40) (b.noteReadAt c 4 (c.f 40 8) 512))) ∧
  (∀ rs w, Ready s cfgCairnReadInfo id c → rs = recentRecords s.flash.records (c.f 32 1) → w = b.storeAt c 4 (c.f 40 8) (rs.flatMap CairnRec.bytes) →
    Ends (.cfgCairnRead id) s id ((writeStatus w.2).getD (resIndex rs.length)) w.1) ∧
  (Ready s cfgBootClearInfo id c → Ends (.cfgBootClear id) s id resOK (b.bootClear (c.f 32 2) (c.f 34 1)))

/-- SEC. Certificates are written as records with their length reported (R529, R541). A quote holds the body of R537 and its signature under the identity seed, and ends with AUTH_FAIL once the key is erased (R540). SEC.EXTEND extends slot 7 (R536). SEC.IMAGE_WRITE begins to write a valid image to the other slot, and refuses any other with AUTH_FAIL (R533); its status is reported, the bytes written so far being a free value held to the length (R541). SEC.FUSE_COMMIT blows the bits up to the image's SVN, each logged (R534); SEC.CUSTOMER_KEY fuses the digest of the record and keeps the record (R535). A challenge is kept and written, its 32 bytes free values (R539); an unlock consumes it, and an accepted token sets the level, extends slot 4 and erases the identity key (R539, R540), through JTAG as well. A command whose input cannot be read ends with the status of the read and has no other effect. -/
def Obligations.SecCommandsComplete : Prop := ∀ (s b : State) (id : Nat) (c : Ctx), b = s.begun id →
  (∀ w, Ready s secCertReadInfo id c → w = b.storeAt c 4 (c.f 40 8) s.certBytes → Ends (.secCertRead id) s id ((writeStatus w.2).getD (resIndex s.certBytes.length)) w.1) ∧
  (Ready s secQuoteInfo id c → s.sec.keyReady = false → Ends (.secQuote id) s id (resStatus stAuthFail) b) ∧
  (∀ body w, Ready s secQuoteInfo id c → s.sec.keyReady = true → body = s.quoteBody (c.f 32 1) ((c.pkt.drop 64).take 32) →
    w = ({ b with free := s.free + 1 } : State).storeAt c 4 (c.f 40 8) (body ++ padTo 2420 (Config.mldsaSign s.free s.fuses.idSeed body) ++ zeros 28) →
    Ends (.secQuote id) s id ((writeStatus w.2).getD resOK) w.1) ∧
  (Ready s secExtendInfo id c → Ends (.secExtend id) s id resOK { b with sec := { s.sec with slots := s.sec.slots.set 7 (sha3 (s.sec.slots.getD 7 (zeros 32) ++ sha3 ((c.pkt.drop 64).take 32))) } }) ∧
  (∀ x, (Ready s secImageWriteInfo id c → readStatus (s.readAt c (c.f 40 8) (c.f 48 4)) = some x → Ends (.secImageWrite id) s id x (b.noteReadAt c 4 (c.f 40 8) (c.f 48 4))) ∧
    (Ready s secCustomerKeyInfo id c → readStatus (s.readAt c (c.f 40 8) 1312) = some x → Ends (.secCustomerKey id) s id x (b.noteReadAt c 4 (c.f 40 8) 1312)) ∧
    (Ready s secDebugUnlockInfo id c → readStatus (s.readAt c (c.f 40 8) 2496) = some x → Ends (.secDebugUnlock id) s id x (b.noteReadAt c 4 (c.f 40 8) 2496))) ∧
  (∀ r u, Ready s secImageWriteInfo id c → r = s.readAt c (c.f 40 8) (c.f 48 4) → r.good = true → u = b.noteReadAt c 4 (c.f 40 8) (c.f 48 4) →
    (s.imageValid r.data = true → Ends (.secImageWrite id) s id resOK { u with sec := { u.sec with image := .writing r.data (bitAt (c.f 32 1) 0) } }) ∧
    (s.imageValid r.data = false → Ends (.secImageWrite id) s id (resStatus stAuthFail) u)) ∧
  (Ready s secImageStatusInfo id c → (s.sec.image = .idle → Ends (.secImageStatus id) s id resOK b) ∧
    (∀ n, s.sec.image = .done n → Ends (.secImageStatus id) s id { resIndex n with detail := detailOf 2 0 } b) ∧
    (∀ n, s.sec.image = .failed n → Ends (.secImageStatus id) s id { resIndex n with detail := detailOf 3 0 } b) ∧
    (∀ img act, s.sec.image = .writing img act →
      Ends (.secImageStatus id) s id { resIndex (min img.length (Config.freeWord s.free 0).toNat) with detail := detailOf 1 0 } { b with free := s.free + 1 })) ∧
  (Ready s secFuseCommitInfo id c → (s.boot.imageSvn ≤ s.fuses.svn → Ends (.secFuseCommit id) s id resOK b) ∧
    (∀ u, s.fuses.svn < s.boot.imageSvn → u = (List.range (s.boot.imageSvn - s.fuses.svn)).foldl (fun (t : State) i => t.decision 0 (t.fuses.svn + i) [] 0 1) b →
      Ends (.secFuseCommit id) s id resOK { u with fuses := { u.fuses with svn := s.boot.imageSvn } })) ∧
  (∀ r u, Ready s secCustomerKeyInfo id c → r = s.readAt c (c.f 40 8) 1312 → r.good = true → u = b.noteReadAt c 4 (c.f 40 8) 1312 → Ends (.secCustomerKey id) s id resOK
    { u with flash := { u.flash with certs := u.flash.certs.filter (fun k => k.1 != 5) ++ [(5, r.data)] }, fuses := { u.fuses with custKeyHash := sha3 r.data, custRequired := bitAt (c.f 32 1) 0 } }) ∧
  (∀ n w, Ready s secDebugChallengeInfo id c → n = (List.range 32).map (Config.nonceByte s.free) →
    w = ({ b with sec := { s.sec with challenge := some n }, free := s.free + 1 } : State).storeAt c 4 (c.f 40 8) n → Ends (.secDebugChallenge id) s id ((writeStatus w.2).getD resOK) w.1) ∧
  (∀ r u, Ready s secDebugUnlockInfo id c → r = s.readAt c (c.f 40 8) 2496 → r.good = true → u = b.noteReadAt c 4 (c.f 40 8) 2496 →
    (u.tokenOk r.data = false → Ends (.secDebugUnlock id) s id (resStatus stAuthFail) { u with sec := { u.sec with challenge := none } }) ∧
    (∀ v, u.tokenOk r.data = true → v = ({ u with sec := { u.sec with challenge := none } } : State).extendSlot 4 r.data →
      Ends (.secDebugUnlock id) s id resOK { v with sec := { v.sec with level := field r.data 4 1, keyReady := false } })) ∧
  (∀ t, (s.tokenOk t = false → Runs (.jtagDebugUnlock t) s { s with sec := { s.sec with challenge := none } }) ∧
    (∀ v, s.tokenOk t = true → v = ({ s with sec := { s.sec with challenge := none } } : State).extendSlot 4 t → Runs (.jtagDebugUnlock t) s { v with sec := { v.sec with level := field t 4 1, keyReady := false } }))

/-- The life of a directly submitted command. A doorbell moves the tail, or is ignored with DB_NOQ, DB_RANGE or DB_BACK (R36). The queue whose turn it is gives its packet: the turn goes on, a reply slot is reserved, the head moves by the packet's units and the command is in flight (R40, R44); a deferred one starts once no step runs (R47). A command that ended has its reply written, unless QUIET suppresses an OK, and leaves (R29, R33). A pop gives the oldest reply and removes it, zeros when there is none, and zeros with POP_SIZE for any other size (R38). RQ_STALL sets and vector 63 signals (R40); the coalescing timer signals its queue (R41). A running command past its deadline ends with TIMEOUT and poisons what it writes (R49, R51), one that has nothing left to wait for but fails a check ends with that check's result (R46, R52); a step past its deadline ends with TIMEOUT (R52). -/
def Obligations.QueueEventsComplete : Prop := ∀ (s : State),
  (∀ q v x tail wrap, s.host.d3hot = false → q < 64 → tail = v.toNat % 2 ^ 16 → wrap = v.getLsbD 16 →
    (s.sub? q = none → Runs (.hstSqDoorbell q v) s { s with queues := { s.queues with err := { s.queues.err with dbNoq := true, lastQ := BitVec.ofNat 6 q } } }) ∧
    (s.sub? q = some x → x.units ≤ tail → Runs (.hstSqDoorbell q v) s { s with queues := { s.queues with err := { s.queues.err with dbRange := true, lastQ := BitVec.ofNat 6 q } } }) ∧
    (s.sub? q = some x → tail < x.units → x.units < (x.lap tail wrap + 2 * x.units - x.lap x.head x.headWrap) % (2 * x.units) →
      Runs (.hstSqDoorbell q v) s { s with queues := { s.queues with err := { s.queues.err with dbBack := true, lastQ := BitVec.ofNat 6 q } } }) ∧
    (s.sub? q = some x → tail < x.units → (x.lap tail wrap + 2 * x.units - x.lap x.head x.headWrap) % (2 * x.units) ≤ x.units →
      Runs (.hstSqDoorbell q v) s (s.updSub q (fun y => { y with tail := tail, tailWrap := wrap })))) ∧
  (∀ q x p base i s0 s1, s.nextTurn = some (base, i) → (turnOrder base).getD i 0 = q → s.sub? q = some x → s.takeable q = some p → (s.resp? (pktRespQueue p)).isSome = true →
    s0 = { s with queues := { s.queues with turnBase := base, turnPos := i + 1, lastServed := q } } → s0.takenStage (s0.ctxOf ⟨s.queues.nextId, .queue q, p, .taken, s0.replyQueue p⟩) = .taken →
    s1 = (s0.updSub q (fun y => { y with head := (x.moved (p.length / 32)).1, headWrap := (x.moved (p.length / 32)).2, lag := min (y.lag + p.length / 32) y.units })).updResp (s0.replyQueue p) (fun r => { r with reserved := r.reserved + 1 }) →
    Runs (.takePacket q) s { s1 with queues := { s1.queues with nextId := s.queues.nextId + 1, cmds := s1.queues.cmds ++ [⟨s.queues.nextId, .queue q, p, .taken, s0.replyQueue p⟩] } }) ∧
  (∀ id c, s.cmd? id = some c → c.stage = .deferred →
    (s.stepRunning = false → Runs (.deferredStart id) s (s.setStage id .taken)) ∧ (s.stepRunning = true → Runs (.deferredStart id) s s)) ∧
  (∀ id rt c q r u, s.cmd? id = some c → c.src = .queue q → c.stage = .ended r → u = s.updResp c.rq (fun x => { x with reserved := x.reserved - 1 }) →
    (flagQuiet c.pkt = true → r.status = stOK → Runs (.commandComplete id rt) s (u.dropCmd id).finishDeletes) ∧
    ((flagQuiet c.pkt = false ∨ r.status ≠ stOK) → Runs (.commandComplete id rt) s ((((u.pushReply c.rq (replyOf c r rt)).writeReplyAddress c.pkt (replyOf c r rt)).dropCmd id).finishDeletes))) ∧
  (∀ q off, s.host.d3hot = false → off % 32 = 0 →
    (∀ x r rs, s.resp? q = some x → x.replies = r :: rs → Runs (.popReply q off 32) s ((s.updResp q RespQueue.popped).answerHost r.bytes false)) ∧
    (∀ x, s.resp? q = some x → x.replies = [] → Runs (.popReply q off 32) s (s.answerHost (zeros 32) false))) ∧
  (∀ q off n, s.host.d3hot = false → (n ≠ 32 ∨ off % 32 ≠ 0) →
    Runs (.popReply q off n) s (({ s with queues := { s.queues with err := { s.queues.err with popSize := true, lastQ := BitVec.ofNat 6 q } } } : State).answerHost (zeros n) false)) ∧
  (∀ q, s.stalls q = true → ∃ u, (s.queues.err.any = true → u = s.signal 63) ∧ (s.queues.err.any = false → u = s) ∧
    Runs (.rqStall q) s { u with queues := { u.queues with err := { u.queues.err with rqStall := true, lastQ := BitVec.ofNat 6 q } } }) ∧
  (∀ q x, s.resp? q = some x → x.irq = true → q < 63 → x.replies ≠ [] → x.sinceSignal ≠ 0 → Runs (.responseCoalesceTimer q) s ((s.updResp q (fun y => { y with sinceSignal := 0 })).signal q)) ∧
  (∀ id c, s.cmd? id = some c → c.stage = .running → opcodeOf c.pkt < 0xF000 → familyOf (opcodeOf c.pkt) ≠ 8 →
    Ends (.commandDeadline id) s c.id (s.timeoutResult (s.ctxOf c)) ((s.poisonOuts (s.ctxOf c)).dropWork c.id)) ∧
  (∀ id c r, s.cmd? id = some c → c.stage = .taken → s.mayStart c = true → opcodeOf c.pkt < 0xF000 → ((opInfo? (opcodeOf c.pkt)).bind (fun i => i.check s (s.ctxOf c))).or (s.startFails (s.ctxOf c)) = some r →
    Ends (.commandDeadline id) s id r s) ∧
  (∀ st u, s.plans.step = some st → u = s.abandonEntries →
    Runs .stepDeadline s (({ u with plans := { u.plans with step := none, barrier := none }, out := { u.out with batches := [] } } : State).setStage st.cmd (.ended (st.result (resStatus stTimeout) none))).swapFinished) ∧
  (∀ c, s.plans.step = none → s.waitingRun = some c → Ends .stepDeadline s c.id (resStatus stTimeout) s)

/-- Steps and their entries. A step begins for the first STEP.RUN that waits once nothing is left to start before it (R65), and latches its hyperparameter records (R311). An entry whose waits are met is skipped on its condition, or enters execution (R57, R59); one that ended with OK or is noted completes and writes its condition bit (R58, R60), any other failure ends the step and raises the wave (R50). A flag that comes before the chip reaches its barrier is kept (R380). Barriers pass to the stages that wait for them (R19), and the step boundary ends STEP.RUN with the step's outcome (R63, R66). A barrier past its deadline is fatal (R21). -/
def Obligations.StepEventsComplete : Prop := ∀ (s : State),
  (∀ c, s.stepRunning = false → s.isHalted = false → (∀ k ∈ s.queues.cmds, s.startsFirst k = false) → s.waitingRun = some c →
    (∀ r, s.mayBegin c = .ends r → Ends .stepBegin s c.id r s) ∧ (s.mayBegin c = .waits → Runs .stepBegin s s) ∧
    (∀ p s1, s.mayBegin c = .goes p → s1 = ({ s with plans := { s.plans with step := some ⟨c.id, p, s.stepDeadlineOf p c.pkt, p.entries.map (fun _ => .waiting), 0, 0, 0, none, false, false, s.latchHyper⟩ }, coll := { s.coll with nextId := [] } } : State).sendNotices →
      Runs .stepBegin s (if s1.embed.policy.oneStale then s1.refreshAll else s1))) ∧
  (∀ i st, s.plans.step = some st → i < st.entries.length → st.entryState i = .waiting → st.waitsMet i = true → st.turn i = true → st.stageMet i = true →
    (st.skips? (st.entry i) = true → Runs (.planEntryStart i) s { s with plans := { s.plans with step := some { st with entries := st.entries.set i .done, skips := satAdd16 st.skips 1, cond := writeCond st.cond (st.entry i).set false } } }) ∧
    (st.skips? (st.entry i) = false → Runs (.planEntryStart i) s
      { s with queues := { s.queues with nextId := s.queues.nextId + 1, cmds := s.queues.cmds ++ [⟨s.queues.nextId, .plan i, (st.entry i).pkt, .taken, 0⟩] }, plans := { s.plans with step := some { st with entries := st.entries.set i (.running s.queues.nextId) } } })) ∧
  (∀ i st id c r, s.plans.step = some st → st.entryState i = .running id → s.cmd? id = some c → c.stage = .ended r →
    (r.failed = true → noteOf (st.entry i) r = none → Runs (.planEntryComplete i) s ((s.setStage st.cmd (.ended (st.result r (some i)))).raiseWave 0x01 r.status)) ∧
    ((r.failed = false ∨ noteOf (st.entry i) r ≠ none) → Runs (.planEntryComplete i) s
      { s.dropCmd id with plans := { s.plans with step := some (st.complete i (noteOf (st.entry i) r)) } })) ∧
  (∀ st b, s.plans.step = some st → s.plans.barrier = some b → b.passed = true → b.kind = 2 → Runs .stepBoundary s ((s.boundarySettings.stepSummary.afterStep).setStage st.cmd (.ended st.outcome))) ∧
  (∀ b st, s.plans.step = some st → s.plans.barrier = some b → b.passed = false →
    (b.cmd = none → Runs .barrierDeadline s (s.raiseWave 0x02 stTimeout)) ∧
    (b.cmd ≠ none → Runs .barrierDeadline s ((s.setStage st.cmd (.ended (st.result (resStatus stTimeout) (s.barrierEntry b)))).raiseWave 0x02 stTimeout))) ∧
  (∀ f w, s.isHalted = false → (∀ b, s.plans.barrier = some b → b.passed = true) → Runs (.barrierFlagReceive f w) s { s with plans := { s.plans with earlyFlags := s.plans.earlyFlags ++ [f] } }) ∧
  (∀ f w b b1, s.isHalted = false → s.plans.barrier = some b → b.passed = false → (s.takeFlag f).climb.plans.barrier = some b1 →
    (b1.passed = true → Runs (.barrierFlagReceive f w) s ((s.takeFlag f).climb.addWait (min b.kind 3) w)) ∧ (b1.passed = false → Runs (.barrierFlagReceive f w) s (s.takeFlag f).climb)) ∧
  (∀ b st id, s.plans.barrier = some b → b.passed = true → b.cmd = some id → s.plans.step = some st →
    (b.kind = 0 → Runs .scatterBarrierPass s (({ s with plans := { s.plans with step := some { st with scatterPassed := true }, barrier := none } } : State).endCmd id resOK).sortMerge) ∧
    (b.kind = 1 → Runs .updateBarrierPass s (({ s with plans := { s.plans with step := some { st with updatePassed := true }, barrier := none } } : State).endCmd id resOK).decideReplicas.chooseMigrations.refreshDue.sendSums))

/-- The inter-island queues. A word enters its queue (R442); a read of an empty queue gives nothing, a clean word is passed on, a corrected one is passed on corrected and counted, an uncorrectable data word of the producing unit is passed on as it is, and any other uncorrectable word has its packet discarded and raises the wave (R443, R445). A flush takes effect at the packet boundary (R444); a pointer crossing forms the flags anew (R442). -/
def Obligations.QueueWordsComplete : Prop := ∀ (s : State),
  (∀ n data sop eop, Runs (.iiqWrite n data sop eop) s (s.updIiq n (fun q => q.write ⟨queueSymbols data, sop, eop⟩))) ∧
  (∀ n q, s.mem.iiqs.find? (fun q => q.num == n) = some q →
    (q.empty = true → Runs (.iiqRead n) s (s.updIiq n (fun q => { q with lastRead := none, uncorrected := false }))) ∧
    (∀ w ws, q.empty = false → q.store = w :: ws →
      ((decodeWord w.symbols).1 = .clean → Runs (.iiqRead n) s (s.updIiq n (fun q => q.pop w false))) ∧
      (∀ x y, (decodeWord w.symbols).1 = .corrected x y → Runs (.iiqRead n) s
        (({ s with mem := { s.mem with queueCorr := satAdd32 s.mem.queueCorr 1 } } : State).updIiq n (fun q => q.pop { w with symbols := wordSymbols (decodeWord w.symbols).2 } false))) ∧
      (∀ u, (decodeWord w.symbols).1 = .uncorrectable → u = { s with mem := { s.mem with queueUncorr := satAdd16 s.mem.queueUncorr 1, lastIsland := BitVec.ofNat 8 q.island } } →
        (q.producerWords = true → w.sop = false → Runs (.iiqRead n) s (u.updIiq n (fun q => q.pop w true))) ∧
        ((q.producerWords = false ∨ w.sop = true) → Runs (.iiqRead n) s ((u.updIiq n (fun q => { q.dropPacket with lastRead := none, uncorrected := false })).raiseWave 0x0C 0))))) ∧
  (∀ n, Runs (.iiqFlush n) s (s.updIiq n (fun q => { q with flushing := true }.flushNow))) ∧
  (∀ n, Runs (.iiqPointerSync n false) s (s.updIiq n (fun q => { q with wptrAtReader := q.wptr }.flags))) ∧
  (∀ n, Runs (.iiqPointerSync n true) s (s.updIiq n (fun q => (Iiq.letIn q.heldBack.length { q with rptrAtWriter := q.rptr }.flags).flushNow)))

/-- What the host does in D0. A read of an aligned register of BAR0 gives its value and clears what a read clears (R7, R554); a write gives the register its fields; any other size or alignment sets BAR0_SIZE (R554). The queue memory and the memory window of BAR2 are read and written, an address that nothing holds giving ones and WIN_RANGE, an uncorrectable word ones with EP and WIN_UNCORR (R556, R557). HST_RESET resets with its key alone (R555). LOCATE and PARK (R555, R568). GO takes the mailbox packet, or sets MBOX_OVERRUN while BUSY or DONE is set, and a finished command sets DONE (R558). Configuration requests are retried until HOST has ended (R552). -/
def Obligations.HostEventsComplete : Prop := ∀ (s : State), s.host.d3hot = false →
  (∀ off, bar0SizeOk off 4 = true → inMailbox off = false → Runs (.rcRead off 4) s ((s.afterRead off).answerHost (toLE 4 (s.regValue off)) false)) ∧
  (∀ off n, bar0SizeOk off n = false → Runs (.rcRead off n) s (({ s with host := { s.host with bar0Size := true } } : State).answerHost (zeros n) false)) ∧
  (∀ off d, bar0SizeOk off d.length = true → inMailbox off = false → d.length = 4 → Runs (.registerWrite off d) s (s.writeReg off (BitVec.ofNat 32 (field d 0 4)))) ∧
  (∀ off d, bar0SizeOk off d.length = false → Runs (.registerWrite off d) s { s with host := { s.host with bar0Size := true } }) ∧
  (∀ off n, off < 0x800000 → Runs (.windowRead off n) s (s.answerHost (cellRead s.queues.memory off n) false)) ∧
  (∀ off d, off < 0x800000 → Runs (.windowWrite off d) s { s with queues := { s.queues with memory := cellWrite s.queues.memory off (d.take (0x800000 - off)) } }) ∧
  (∀ off n a, 0x10000000 ≤ off → off < 0x20000000 → a = s.host.windowHi.toNat * 2 ^ 32 + s.host.windowLo.toNat * 2 ^ 28 + (off - 0x10000000) →
    (∀ r, s.rangeReason a n = some r → Runs (.windowRead off n) s (({ s with host := { s.host with winRange := true } } : State).answerHost (List.replicate n 0xFF) false)) ∧
    (s.rangeReason a n = none → (s.read a n).uncorr = [] → Runs (.windowRead off n) s ((s.noteRead 4 a n).answerHost (s.read a n).data false)) ∧
    (s.rangeReason a n = none → (s.read a n).uncorr ≠ [] → Runs (.windowRead off n) s (((s.noteRead 4 a n).hostErr (fun h => { h with winUncorr := true })).answerHost (List.replicate n 0xFF) true))) ∧
  (∀ off d a, 0x10000000 ≤ off → off < 0x20000000 → a = s.host.windowHi.toNat * 2 ^ 32 + s.host.windowLo.toNat * 2 ^ 28 + (off - 0x10000000) →
    (∀ r, s.rangeReason a d.length = some r → Runs (.windowWrite off d) s { s with host := { s.host with winRange := true } }) ∧
    (s.rangeReason a d.length = none → d ≠ [] → Runs (.windowWrite off d) s ((wordParts a d).foldl (fun t w => t.windowPart w.1 w.2) s))) ∧
  Runs (.hstReset 0xB0070001) s (s.resetBy 2) ∧
  (∀ v : W32, v.getLsbD 0 = true → v.toNat / 2 ^ 16 ≠ 0xB007 → Runs (.hstReset v) s { s with host := { s.host with resetKey := true } }) ∧
  (∀ b, Runs (.serviceLocateWrite b) s { s with host := { s.host with locate := b } }) ∧
  Runs .parkCancel s { s with host := { s.host with park := false, parked := false } } ∧
  (∀ (v : W32) h, v.getLsbD 31 = true → h = { s.host with mboxLen := v.setWidth 10, mboxDone := s.host.mboxDone && !v.getLsbD 29 } →
    ((s.host.mboxBusy = true ∨ s.host.mboxDone = true) → Runs (.mailboxGo v) s { s with host := { h with mboxOverrun := true } }) ∧
    (s.host.mboxBusy = false → s.host.mboxDone = false → Runs (.mailboxGo v) s (({ s with host := h } : State).takeMailbox (v.toNat % 1024)))) ∧
  (∀ id rt c r u, s.cmd? id = some c → c.src = .mailbox → c.stage = .ended r → u = (s.dropCmd id).finishDeletes →
    Runs (.mailboxDone id rt) s { u with host := { u.host with mboxReply := some (replyOf c r rt), mboxBusy := false, mboxDone := true } }) ∧
  (∀ r : CfgReq, (4 ∉ s.boot.endedOk → Runs (.configRequest r) s { s with host := { s.host with resp := ⟨[], false, false, true⟩ } }) ∧
    (4 ∈ s.boot.endedOk → r.write = true → Runs (.configRequest r) s { s with host := { configWrite r.offset r.value s.host with resp := ⟨[], false, false, false⟩ } }) ∧
    (4 ∈ s.boot.endedOk → r.write = false → Runs (.configRequest r) s (({ s with free := s.free + 1 } : State).answerHost (toLE 4 (s.configWord r.offset)) false))) ∧
  (4 ∈ s.boot.endedOk → Runs .d3hotEntry s { s with host := { s.host with d3hot := true } })

/-- In D3hot every memory request of the host is completed with Unsupported Request, and does nothing else (R551); D0_RETURN leads back. -/
def Obligations.D3hotRefusesRequests : Prop := ∀ (s : State), s.host.d3hot = true →
  (∀ i, ((∃ q v, i = .hstSqDoorbell q v) ∨ (∃ q o n, i = .popReply q o n) ∨ (∃ o n, i = .rcRead o n) ∨ (∃ o d, i = .registerWrite o d) ∨ (∃ o n, i = .windowRead o n) ∨ (∃ o d, i = .windowWrite o d) ∨
      (∃ v, i = .hstReset v) ∨ (∃ b, i = .serviceLocateWrite b) ∨ i = .parkCancel ∨ (∃ v, i = .mailboxGo v) ∨ (∃ v, i = .hstHaltReq v) ∨ (∃ v, i = .hstTelemTail v)) →
    Runs i s { s with host := { s.host with resp := ⟨[], false, true, false⟩ } }) ∧
  Runs .d0Return s { s with host := { s.host with d3hot := false } }

/-- Reads over the management bus are acknowledged and answered (R562, R563): each clause gives the bytes. -/
def Obligations.ManagementReadsComplete : Prop := ∀ (s : State) (reads : List Byte → State), reads = (fun bs => { s with mgt := { s.mgt with answer := some bs, acked := true } }) →
  Runs .mgtId s (reads (toLE 2 0x0064 ++ [s.fuses.stepping, 0] ++ toLE 2 s.chipId.toNat ++ zeros 2 ++ s.shownDeviceId.take 8)) ∧
  Runs .mgtBoot s (reads (toLE 4 s.bootStatusWord ++ toLE 4 s.bootDetailWord)) ∧
  Runs .mgtTemp s (reads [ratByte s.power.tj, ratByte s.hottestMem, BitVec.ofNat 8 s.power.hottest, BitVec.ofNat 8 s.power.faulted]) ∧
  Runs .mgtPower s (reads (toLE 4 s.power.powerWord)) ∧
  (∀ v p, Runs (.mgtBoardCap false v p) s (reads (toLE 2 (s.power.boardCap.getD 0)))) ∧
  (∀ v p, Runs (.mgtLocate false v p) s (reads [BitVec.ofNat 8 (bnat s.host.locate)])) ∧
  (∀ v p, Runs (.mgtAttn false v p) s (reads [BitVec.ofNat 8 s.attention])) ∧
  (∀ v p, Runs (.mgtAttnMask false v p) s (reads [s.mgt.mask])) ∧
  Runs .mgtStaezStatus s (reads [BitVec.ofNat 8 s.mgt.stagingState, s.mgt.stagingReason, 0, 0]) ∧
  (∀ u, u = reads (s.newestEnd.take 32) → Runs .mgtCairnLast s { u with mgt := { u.mgt with cairnHi := s.newestEnd.drop 32 } }) ∧
  Runs .mgtCairnLastHi s (reads s.mgt.cairnHi)

/-- Writes over the management bus. With a bad PEC a write is neither acknowledged nor does it act (R561); else it is acknowledged and acts: the board cap within its limits (R454), the emergency stop, the reset, LOCATE, ATTENTION and PARK, the mask, the boot clear, the staging of an image and its commit (R562, R563). The finished write puts the image into flash (R563). MGT_ALERT_N is released when no unmasked attention bit is set (R564); a clock timeout ends the transaction (R561). -/
def Obligations.ManagementWritesComplete : Prop := ∀ (s a n : State), a = { s with mgt := { s.mgt with answer := none, acked := true } } → n = { s with mgt := { s.mgt with answer := none, acked := false } } →
  (∀ i, ((∃ v, i = .mgtBoardCap true v false) ∨ (∃ v, i = .mgtEstop v false) ∨ (∃ v, i = .mgtReset v false) ∨ (∃ v, i = .mgtLocate true v false) ∨ (∃ v, i = .mgtAttn true v false) ∨ (∃ v, i = .mgtAttnMask true v false) ∨
    (∃ d, i = .mgtBootClear d false) ∨ (∃ u d, i = .mgtStaezData u d false) ∨ (∃ v, i = .mgtStaezCommit v false)) → Runs i s n) ∧
  (∀ v : W16, (v = 0 → Runs (.mgtBoardCap true v true) s { a with power := { s.power with boardCap := none } }) ∧
    (450 ≤ v.toNat → v.toNat ≤ 1200 → Runs (.mgtBoardCap true v true) s { a with power := { s.power with boardCap := some v.toNat } }) ∧
    (v ≠ 0 → (v.toNat < 450 ∨ 1200 < v.toNat) → Runs (.mgtBoardCap true v true) s n)) ∧
  Runs (.mgtEstop 0x5A5A true) s (a.raiseWave 0x13 0) ∧
  Runs (.mgtReset 0xB007 true) s (a.resetBy 5) ∧
  (∀ v, v ≠ 0xB007 → Runs (.mgtReset v true) s { a with host := { s.host with resetKey := true } }) ∧
  (∀ v, Runs (.mgtLocate true v true) s { a with host := { s.host with locate := v.getLsbD 0 } }) ∧
  (∀ v : Byte, Runs (.mgtAttn true v true) s { a with host := { s.host with attention := s.host.attention && !v.getLsbD 0, park := s.host.park && !v.getLsbD 1, parked := s.host.parked && !v.getLsbD 1 } }) ∧
  (∀ v, Runs (.mgtAttnMask true v true) s { a with mgt := { a.mgt with mask := v } }) ∧
  (∀ d, d.length = 3 → field d 0 2 ≤ 1023 → field d 2 1 ≤ 7 → Runs (.mgtBootClear d true) s (a.bootClear (field d 0 2) (field d 2 1))) ∧
  (∀ u d, u.toNat < 32 → d.length = 16 → Runs (.mgtStaezData u d true) s { a with mgt := { a.mgt with staging := splice s.mgt.staging (16 * u.toNat) d } }) ∧
  (s.mgt.stagingWrite = none → staezFields false s.mgt.staging = true →
    Runs (.mgtStaezCommit 1 true) s { a with mgt := { a.mgt with stagingState := 1, stagingReason := 0, stagingWrite := some s.mgt.staging } }) ∧
  (s.mgt.stagingWrite = none → staezFields false s.mgt.staging = false → Runs (.mgtStaezCommit 1 true) s { a with mgt := { a.mgt with stagingState := 3, stagingReason := 0x38 } }) ∧
  (∀ img u, s.mgt.stagingWrite = some img → u = s.writeStaez img → Runs .mgtStaezWriteDone s { u with mgt := { u.mgt with stagingState := 2, stagingReason := 0, stagingWrite := none } }) ∧
  (s.attentionUnmasked = false → Runs .mgtAlertRelease s { s with mgt := { s.mgt with alertLow := false } }) ∧
  (s.attentionUnmasked = true → Runs .mgtAlertRelease s s) ∧
  Runs .smbusClockTimeout s n

/-- The service button and the LEDs. A filtered press is taken once, ignored when reset is asserted; a release within 5,000 ms toggles LOCATE unless the press was ignored or held (R567); a hold sets ATTENTION and PARK (R568). Press and release act while reset is asserted too. LED_SHIFT sends two bits a link group (R570). -/
def Obligations.ButtonAndLedsComplete : Prop := ∀ (s : State),
  (s.host.button = false → exec .buttonPress s = .next (s.settled { s with host := { s.host with button := true, buttonIgnored := s.boot.inReset, buttonHeld := false } })) ∧
  (s.host.button = true → exec .buttonPress s = .next (s.settled s)) ∧
  (∀ ms, s.host.button = false → exec (.buttonRelease ms) s = .next (s.settled s)) ∧
  (∀ ms, s.host.button = true → s.host.buttonIgnored = false → s.host.buttonHeld = false → ms ≤ 5000 →
    exec (.buttonRelease ms) s = .next (s.settled { s with host := { s.host with button := false, buttonIgnored := false, buttonHeld := false, locate := !s.host.locate } })) ∧
  (∀ ms, s.host.button = true → (s.host.buttonIgnored = true ∨ s.host.buttonHeld = true ∨ 5000 < ms) →
    exec (.buttonRelease ms) s = .next (s.settled { s with host := { s.host with button := false, buttonIgnored := false, buttonHeld := false } })) ∧
  (s.host.button = true → s.host.buttonIgnored = false → s.host.buttonHeld = false → Runs .buttonHold s { s with host := { s.host with attention := true, park := true, buttonHeld := true } }) ∧
  Runs .ledShift s (s.send (.ledWord s.ledWord))

/-- Resets and the start. A power-on reset and PCIE_PERST_N act at any time, the JTAG reset at a debug level above 0 (R566, R578). The release of reset writes what the cairn lacks and a BOOT record, and the start begins (R504, R505). A boot step begins on the path that its failures give, with its STEP_START, or puts the chip in safe state at three failures (R507, R512); its end writes STEP_END and the outcome registers, and a failure lets the policy reset come (R503, R506), but fewer than 52 fit ridges put the chip in safe state at once (R10, R502); a step that runs past its budget ends with TIMEOUT, and the watchdog resets the chip (R503). -/
def Obligations.StartEventsComplete : Prop := ∀ (s : State),
  exec .powerOnReset s = .next (s.settled (s.resetBy 0)) ∧
  exec .pcieReset s = .next (s.settled (s.resetBy 1)) ∧
  (s.sec.level = 0 → Runs .jtagChipReset s s) ∧ (s.sec.level ≠ 0 → Runs .jtagChipReset s (s.resetBy 6)) ∧
  (∀ seq (slot trial : Bool) u, s.boot.inReset = true → openStep s.flash.records = none → seq = nextBootSeq s.flash.records →
    slot = (if s.loadsOther s.flash.records then !s.flash.desc.active else s.flash.desc.active) → trial = (s.flash.desc.trial && (slot == s.flash.desc.active)) →
    u = s.cairn { (cairnRec 1 0 seq) with resetCause := s.boot.resetCause, slot := bnat slot, trial := trial } →
    Runs .resetRelease s { u with boot := { u.boot with inReset := false, bootSeq := seq, slot := slot, trial := trial, state := .booting, step := 0 } }) ∧
  (s.boot.inReset = false → Runs .resetRelease s s) ∧
  (∀ t count u, s.betweenSteps = true → s.nextStep ≠ 9 → count = failCount s.flash.records s.nextStep →
    (3 ≤ count → Runs (.bootStepStart t) s (s.enterSafe s.nextStep count (BitVec.ofNat 64 t))) ∧
    (count < 3 → s.stepPath s.nextStep count s.flash.records = 0 → u = s.cairn { (cairnRec 2 s.nextStep s.boot.bootSeq) with path := 0, elapsed := BitVec.ofNat 64 t } →
      Runs (.bootStepStart t) s { u with boot := { u.boot with step := s.nextStep, running := true, path := 0, fails := count } })) ∧
  (∀ r t, s.stepOpen = true → s.boot.step ≠ 7 → Runs (.bootStepEnd r t) s (s.writeEnd (s.endStep r) (BitVec.ofNat 64 t))) ∧
  (∀ r t, s.stepOpen = true → s.boot.step = 7 → (r.ok = false ∨ 52 ≤ (s.endStep r).state.boot.ridgeCount) → Runs (.bootStepEnd r t) s (s.writeEnd (s.endStep r) (BitVec.ofNat 64 t))) ∧
  (∀ r t u, s.stepOpen = true → s.boot.step = 7 → r.ok = true → (s.endStep r).state.boot.ridgeCount < 52 → u = (s.writeEnd (s.endStep r) (BitVec.ofNat 64 t)).enterSafe 7 (s.writeEnd (s.endStep r) (BitVec.ofNat 64 t)).boot.fails (BitVec.ofNat 64 t) →
    Runs (.bootStepEnd r t) s { u with boot := { u.boot with policyReset := false } }) ∧
  (∀ t, s.stepOpen = true → Runs (.bootStepTimeout t) s (s.writeEnd ⟨s, 3, 0x20, 0, 0⟩ (BitVec.ofNat 64 t))) ∧
  (s.boot.policyReset = true → Runs .bootPolicyReset s (s.resetBy 3)) ∧
  (s.stepOpen = true → Runs .bootWatchdog s (s.resetBy 4))

/-- A step runs the command at the front of the queue on the state that holds the queue's rest; on an empty queue the block idles, which is the model's choice. -/
def Obligations.StepRunsTheFront : Prop := (∀ (c : Instr) (rest : List Instr) (s : State), s.pending = c :: rest → step s = exec c { s with pending := rest }) ∧ (∀ s : State, s.pending = [] → step s = .next s)

/-- Every command answers a next state, for no command ends in a fault or a refusal, and none changes the queue of waiting commands. -/
def Obligations.CommandsAnswerAndKeepTheQueue : Prop := ∀ (c : Instr) (s : State), ∃ t, exec c s = .next t ∧ t.pending = s.pending

/-- While reset is asserted, a command other than a reset from outside and the level of the service button leaves the chip as it is, or ends the reset. -/
def Obligations.ResetHoldsTheChip : Prop := ∀ (c : Instr) (s t : State), s.boot.inReset = true → exec c s = .next t → c ≠ .powerOnReset → c ≠ .pcieReset → c ≠ .buttonPress → (∀ ms, c ≠ .buttonRelease ms) →
  t = s ∨ t.boot.inReset = false

/-- Every reset keeps the fuses and the serial flash, and every reset but a power-on keeps PWR_TRIP (R578): all else is at its reset value. Records that wait for flash, and the rest of an image being written, are lost. -/
def Obligations.ResetKeepsFusesAndFlash : Prop := ∀ (s t : State) (k : Nat), (∀ img act, s.sec.image ≠ .writing img act) →
  ((k = 0 ∧ exec .powerOnReset s = .next t) ∨ (k = 1 ∧ exec .pcieReset s = .next t ∧ ¬ (s.boot.inReset = true ∧ s.boot.resetCause = 0)) ∨ (k = 2 ∧ exec (.hstReset 0xB0070001) s = .next t ∧ s.boot.inReset = false ∧ s.host.d3hot = false) ∨
    (k = 5 ∧ exec (.mgtReset 0xB007 true) s = .next t ∧ s.boot.inReset = false) ∨ (k = 6 ∧ exec .jtagChipReset s = .next t ∧ s.boot.inReset = false ∧ s.sec.level ≠ 0)) →
  t.fuses = s.fuses ∧ t.flash = { s.flash with cairnWaiting := [], remapWaiting := [] } ∧ (k ≠ 0 → t.trip.tripped = s.trip.tripped ∧ t.trip.sensor = s.trip.sensor ∧ t.trip.temp = s.trip.temp) ∧
  (k = 0 → t.trip = State.reset.trip) ∧ t.boot = { State.reset.boot with inReset := true, resetCause := k } ∧ t.queues = State.reset.queues ∧ t.plans = State.reset.plans ∧ t.graph = State.reset.graph ∧ t.matrix = State.reset.matrix ∧
  t.num = State.reset.num ∧ t.vec = State.reset.vec ∧ t.embed = State.reset.embed ∧ t.update = State.reset.update ∧ t.link = State.reset.link ∧ t.coll = State.reset.coll ∧ t.halt = State.reset.halt ∧ t.gddr = State.reset.gddr ∧
  t.mem = State.reset.mem ∧ t.ridges = State.reset.ridges ∧ t.power = State.reset.power ∧ t.health = State.reset.health ∧ t.sec = State.reset.sec ∧ t.streams = [] ∧ t.scatters = []

/-- When nothing is due, what follows a command's effect is the signals of vector 63 for the summary bits that rose while enabled (R500) and the pull on MGT_ALERT_N (R564); nothing else changes. -/
def Obligations.CalmStepsAddNothing : Prop := ∀ (s u : State), (s.boot.inReset && u.boot.inReset) = false → u.calm →
  s.settle u = { u with pending := s.pending, host := { u.host with signals := u.host.signals ++ (State.risen s u).map (fun _ => 63) }, mgt := { u.mgt with alertLow := u.mgt.alertLow || u.attentionUnmasked } }

/-- After every command MGT_ALERT_N is low while an unmasked attention bit is set (R564). -/
def Obligations.AlertFollowsAttention : Prop := ∀ (s t : State), s.AlertInv → step s = .next t → t.AlertInv

/-- After every command a pending park is in force when no step runs or the chip is halted (R568). -/
def Obligations.ParkTakesEffect : Prop := ∀ (s t : State), s.ParkInv → step s = .next t → t.ParkInv

/-- After every command no flagged bank is left in service when no step runs, the chip is not halted and no group is open (R474). -/
def Obligations.FlaggedBanksAreServed : Prop := ∀ (s t : State), s.FlagInv → step s = .next t → t.FlagInv

/-- The invariants of attention, park and quarantine hold at reset, and the memory lists nothing. -/
def Obligations.InvariantsHoldAtReset : Prop := State.reset.AlertInv ∧ State.reset.ParkInv ∧ State.reset.FlagInv ∧ State.reset.mem.cells = [] ∧ State.reset.pending = []

/-- Vector 63 signals each change from 0 to 1 of an error summary bit whose enable bit is set (R500), whichever command brings it; t holds one signal more for each. -/
def Obligations.SummaryRisesSignal : Prop := ∀ (c : Instr) (s t : State), exec c s = .next t →
  ∃ before : List Nat, t.host.signals = before ++ ((List.range 11).filter (fun i => t.errSummary.testBit i && !s.errSummary.testBit i && t.errEnable.testBit i)).map (fun _ => 63)

/-- A command that fails a check ends with the first failing check's status and has no effect; a command whose turn has not come changes nothing (R46). -/
def Obligations.FailedCheckHasNoEffect : Prop := ∀ (i : Instr) (s : State) (id : Nat) (info : OpInfo), commandInfo i = some (id, info) →
  (s.startable id info.code = none → Runs i s s) ∧ (∀ k r, s.startable id info.code = some k → info.check s (s.ctxOf k) = some r → Ends i s id r s)

/-- Whole words written to memory are read back as they were written, clean, and no other byte changes (R421, R437). -/
def Obligations.WholeWordsReadBack : Prop := ∀ (m : Memory) (a : Nat) (bs : List Byte), a % 32 = 0 → bs.length % 32 = 0 →
  ((m.write a bs).1.read a bs.length).data = bs ∧ ((m.write a bs).1.read a bs.length).uncorr = [] ∧ ((m.write a bs).1.read a bs.length).corrected = [] ∧
  (∀ b, b < a ∨ a + bs.length ≤ b → cellGet (m.write a bs).1.cells b = cellGet m.cells b)

/-- Every row of the memory system keeps device memory in canonical form: addresses strictly rising, and no cell that holds what an unlisted address reads as. What follows every command (quarantine copies, records in the telemetry ring) keeps it too. -/
def Obligations.MemoryRowsKeepItsForm : Prop := ∀ (i : Instr) (s t : State),
  ((∃ id, i = .memInfo id) ∨ (∃ id, i = .memShare id) ∨ (∃ id, i = .memPolicy id) ∨ (∃ id, i = .memRemapRead id) ∨ (∃ id, i = .memRetrain id) ∨ (∃ id, i = .memCacheSplit id) ∨ (∃ id, i = .memCacheFlush id) ∨ (∃ id, i = .memStackArea id) ∨
    (∃ id, i = .memCopy id) ∨ (∃ id, i = .memFill id) ∨ (∃ id, i = .memAtomic id) ∨ (∃ p m, i = .memTimingSample p m) ∨ (∃ p ok m, i = .memPortRetrainDone p ok m) ∨ (∃ p r, i = .memTempRead p r) ∨ (∃ p, i = .rowRemap p) ∨
    i = .remapFlashWrite ∨ (∃ p c r, i = .gddrScrub p c r) ∨ (∃ r w, i = .scratchPatrol r w) ∨ (∃ l w, i = .cachePatrol l w) ∨ i = .quarantineCopyDone ∨ (∃ c, i = .memWriteBatchSend c) ∨ i = .tripPowerOff) →
  s.mem.wf = true → exec i s = .next t → t.mem.wf = true

/-- MEM.FILL on a calm chip leaves every byte outside its range as it was, and its range holds the pattern over and over (R434). -/
def Obligations.FillWritesItsRange : Prop := ∀ (s t : State) (id : Nat) (c : Ctx) (bs : List Byte), s.calm → s.boot.inReset = false → Ready s memFillInfo id c → c.mailboxOffset (c.f 40 8) = none →
  bs = (List.replicate (c.f 48 8 / 32) (padTo 32 ((c.pkt.drop 64).take 32))).flatten → exec (.memFill id) s = .next t →
  (t.read (c.f 40 8) (c.f 48 8)).data = bs ∧ (∀ b, b < c.f 40 8 ∨ c.f 40 8 + c.f 48 8 ≤ b → cellGet t.mem.cells b = cellGet s.mem.cells b)

/-- The decoder corrects any error confined to one symbol of a word: it names the symbol and the error, and gives the data as it was (R436, R437). -/
def Obligations.OneSymbolErrorsAreCorrected : Prop := ∀ (data : List Byte) (p : Nat) (e : Byte), data.length = 32 → p < 36 → e ≠ 0 →
  decodeWord (wordSymbols data) = (.clean, data) ∧ decodeWord ((wordSymbols data).set p ((wordSymbols data).getD p 0 ^^^ e)) = (.corrected p e, data)

/-- The pop window of a response queue (R38): an aligned 32-byte read gives the oldest reply and removes it; zeros when there is none; any other read gives zeros, removes nothing and sets POP_SIZE. -/
def Obligations.PopWindowGivesReplies : Prop := ∀ (s : State) (q off n : Nat), s.host.d3hot = false → q < 64 → 0x1000000 + 0x1000 * q ≤ off → off < 0x1001000 + 0x1000 * q → ∀ i, (i = .windowRead off n ∨ i = .popReply q off n) →
  (∀ x r rs, s.resp? q = some x → x.replies = r :: rs → n = 32 → off % 32 = 0 →
    Runs i s ((s.updResp q (fun y => { y with replies := y.replies.tail, sinceSignal := min y.sinceSignal (y.replies.length - 1) })).answerHost r.bytes false)) ∧
  (∀ x, s.resp? q = some x → x.replies = [] → n = 32 → off % 32 = 0 → Runs i s (s.answerHost (zeros 32) false)) ∧
  ((n ≠ 32 ∨ off % 32 ≠ 0) → Runs i s (({ s with queues := { s.queues with err := { s.queues.err with popSize := true, lastQ := BitVec.ofNat 6 q } } } : State).answerHost (zeros n) false))

/-- A packet that passes checks 1 and 2 and names a response queue that does not exist is not executed: as it is taken it ends with BAD_PARAM, and its reply is for response queue 0 (R37, R46). One that breaks a header field, or has an unassigned opcode, or a wrong PARAM_LENGTH ends with the result of that earlier check, and its reply is for queue 0 as well. -/
def Obligations.MissingResponseQueueEnds : Prop := ∀ (s s0 s1 : State) (q base i : Nat) (x : SubQueue) (p : List Byte), s.nextTurn = some (base, i) → (turnOrder base).getD i 0 = q → s.sub? q = some x → s.takeable q = some p →
  s.resp? (pktRespQueue p) = none → s0 = { s with queues := { s.queues with turnBase := base, turnPos := i + 1, lastServed := q } } →
  s1 = (s0.updSub q (fun y => { y with head := (x.moved (p.length / 32)).1, headWrap := (x.moved (p.length / 32)).2, lag := min (y.lag + p.length / 32) y.units })).updResp 0 (fun r => { r with reserved := r.reserved + 1 }) →
  s.replyQueue p = 0 ∧ ∀ r, (firstBreach (headerBreaches p) = some r ∨ (firstBreach (headerBreaches p) = none ∧ opInfo? (opcodeOf p) = none ∧ r = resStatus stBadOpcode) ∨
      (∃ k, firstBreach (headerBreaches p) = none ∧ opInfo? (opcodeOf p) = some k ∧ r = badParam 0 (if lengthOk k p then 12 else 8))) →
    Runs (.takePacket q) s { s1 with queues := { s1.queues with nextId := s.queues.nextId + 1, cmds := s1.queues.cmds ++ [⟨s.queues.nextId, .queue q, p, .ended (r.forCmd ⟨s.queues.nextId, .queue q, p, .taken, 0⟩), 0⟩], err := { s.queues.err with rqMissing := true, lastQ := BitVec.ofNat 6 (pktRespQueue p) } } }

/-- An entry with SKIP_EN whose turn has come and whose waits are met reads its condition bit: if it equals POLARITY the entry completes at once with OK and has no effect, and it counts as completed for every wait; otherwise it runs (R59). An entry with SET_EN that completes so writes 0 to its condition bit, as one that ended with OK (R58). -/
def Obligations.SkippedEntriesComplete : Prop := ∀ (s : State) (st : StepRun) (i bit : Nat) (pol : Bool), s.plans.step = some st → i < st.entries.length → st.entryState i = .waiting → st.waitsMet i = true → st.turn i = true → st.stageMet i = true →
  (st.entry i).skip = some (pol, bit) →
  (st.cond.getLsbD bit = pol → ∃ st2 : StepRun, Runs (.planEntryStart i) s { s with plans := { s.plans with step := some st2 } } ∧ st2 = { st with entries := st.entries.set i .done, skips := satAdd16 st.skips 1, cond := writeCond st.cond (st.entry i).set false } ∧ st2.entryState i = .done) ∧
  (st.cond.getLsbD bit ≠ pol → ∃ st2 : StepRun, st2 = { st with entries := st.entries.set i (.running s.queues.nextId) } ∧ st2.entryState i = .running s.queues.nextId ∧ Runs (.planEntryStart i) s
    { s with queues := { s.queues with nextId := s.queues.nextId + 1, cmds := s.queues.cmds ++ [⟨s.queues.nextId, .plan i, (st.entry i).pkt, .taken, 0⟩] }, plans := { s.plans with step := some st2 } })

/-- HEALTH.CLEAR_HALT: on a chip that is not halted it does nothing; on a halted one it ends with BUSY within 100 µs of the halt or when CAUSE is 0x0A; otherwise it clears HALTED and discards what R491 names, keeping all else. -/
def Obligations.ClearHaltFollowsItsRule : Prop := ∀ (s : State) (id us : Nat) (k : Cmd), s.startable id 0xB003 = some k → firstBreach (reservedBreaches (healthClearHaltInfo us) k.pkt) = none →
  (s.halt.halted = false → Ends (.healthClearHalt id us) s id resOK (s.begun id)) ∧
  (s.halt.halted = true → (us < 100 ∨ s.halt.cause = 0x0A) → Ends (.healthClearHalt id us) s id (resStatus stBusy) s) ∧
  (s.halt.halted = true → 100 ≤ us → s.halt.cause ≠ 0x0A → Ends (.healthClearHalt id us) s id resOK
    { s.begun id with
      halt := { s.halt with halted := false }
      plans := { s.plans with step := none, barrier := none, earlyFlags := [] }
      embed := { s.embed with accums := [], replicas := [], lookupLogs := [], serveLogs := [], subs := [], asked := [], refused := [], migrating := [], sketch := [], top := [] }
      mem := { s.mem with lines := s.mem.lines.map (fun x => { x with pinned := false }) }
      link := { s.link with reasm := [], ports := s.link.ports.map (fun x => { x with egress := x.egress.filter (·.reduce.isNone) }) }
      coll := { s.coll with jobs := [], early := [] }
      num := { s.num with tags := s.num.tags.map (fun t => { t with g := 0, u := 0, w := 0, seen := false }), histories := s.num.histories.map (fun h => { h with steps := [] }) }
      out := { s.out with batches := [] } })
end

