-- ==== Sys2Proof/Laws/Begun.lean ====
section
/-! SUPPORT. A command that begins (State.begun) changes queues alone: what every other part of the state reads at that moment, by the name of the reading. -/
namespace Sys2Proof.Machine

/-! ### The fields that stay -/

@[simp] theorem State.begun_pending (s : State) (id : Nat) : (s.begun id).pending = s.pending := rfl
@[simp] theorem State.begun_plans (s : State) (id : Nat) : (s.begun id).plans = s.plans := rfl
@[simp] theorem State.begun_graph (s : State) (id : Nat) : (s.begun id).graph = s.graph := rfl
@[simp] theorem State.begun_scatters (s : State) (id : Nat) : (s.begun id).scatters = s.scatters := rfl
@[simp] theorem State.begun_matrix (s : State) (id : Nat) : (s.begun id).matrix = s.matrix := rfl
@[simp] theorem State.begun_num (s : State) (id : Nat) : (s.begun id).num = s.num := rfl
@[simp] theorem State.begun_vec (s : State) (id : Nat) : (s.begun id).vec = s.vec := rfl
@[simp] theorem State.begun_embed (s : State) (id : Nat) : (s.begun id).embed = s.embed := rfl
@[simp] theorem State.begun_update (s : State) (id : Nat) : (s.begun id).update = s.update := rfl
@[simp] theorem State.begun_link (s : State) (id : Nat) : (s.begun id).link = s.link := rfl
@[simp] theorem State.begun_coll (s : State) (id : Nat) : (s.begun id).coll = s.coll := rfl
@[simp] theorem State.begun_halt (s : State) (id : Nat) : (s.begun id).halt = s.halt := rfl
@[simp] theorem State.begun_gddr (s : State) (id : Nat) : (s.begun id).gddr = s.gddr := rfl
@[simp] theorem State.begun_mem (s : State) (id : Nat) : (s.begun id).mem = s.mem := rfl
@[simp] theorem State.begun_ridges (s : State) (id : Nat) : (s.begun id).ridges = s.ridges := rfl
@[simp] theorem State.begun_power (s : State) (id : Nat) : (s.begun id).power = s.power := rfl
@[simp] theorem State.begun_health (s : State) (id : Nat) : (s.begun id).health = s.health := rfl
@[simp] theorem State.begun_streams (s : State) (id : Nat) : (s.begun id).streams = s.streams := rfl
@[simp] theorem State.begun_fuses (s : State) (id : Nat) : (s.begun id).fuses = s.fuses := rfl
@[simp] theorem State.begun_flash (s : State) (id : Nat) : (s.begun id).flash = s.flash := rfl
@[simp] theorem State.begun_boot (s : State) (id : Nat) : (s.begun id).boot = s.boot := rfl
@[simp] theorem State.begun_sec (s : State) (id : Nat) : (s.begun id).sec = s.sec := rfl
@[simp] theorem State.begun_host (s : State) (id : Nat) : (s.begun id).host = s.host := rfl
@[simp] theorem State.begun_mgt (s : State) (id : Nat) : (s.begun id).mgt = s.mgt := rfl
@[simp] theorem State.begun_trip (s : State) (id : Nat) : (s.begun id).trip = s.trip := rfl
@[simp] theorem State.begun_out (s : State) (id : Nat) : (s.begun id).out = s.out := rfl
@[simp] theorem State.begun_free (s : State) (id : Nat) : (s.begun id).free = s.free := rfl

/-! ### What is read from them -/

@[simp] theorem State.begun_leavesTrial (s : State) (id : Nat) (rs : List CairnRec) : (s.begun id).leavesTrial rs = s.leavesTrial rs := rfl
@[simp] theorem State.begun_loadsOther (s : State) (id : Nat) (rs : List CairnRec) : (s.begun id).loadsOther rs = s.loadsOther rs := rfl
@[simp] theorem State.begun_stepPath (s : State) (id : Nat) (step count : Nat) (rs : List CairnRec) : (s.begun id).stepPath step count rs = s.stepPath step count rs := rfl
@[simp] theorem State.begun_nextStep (s : State) (id : Nat) : (s.begun id).nextStep = s.nextStep := rfl
@[simp] theorem State.begun_betweenSteps (s : State) (id : Nat) : (s.begun id).betweenSteps = s.betweenSteps := rfl
@[simp] theorem State.begun_candidates (s : State) (id : Nat) : (s.begun id).candidates = s.candidates := rfl
@[simp] theorem State.begun_memCandidates (s : State) (id : Nat) : (s.begun id).memCandidates = s.memCandidates := rfl
@[simp] theorem State.begun_buildMatches (s : State) (id : Nat) (ts : List PortTrain) (p : Nat) : (s.begun id).buildMatches ts p = s.buildMatches ts p := rfl
@[simp] theorem State.begun_passesAt (s : State) (id : Nat) (ts : List PortTrain) (rate p : Nat) : (s.begun id).passesAt ts rate p = s.passesAt ts rate p := rfl
@[simp] theorem State.begun_triedRates (s : State) (id : Nat) : (s.begun id).triedRates = s.triedRates := rfl
@[simp] theorem State.begun_trainPorts (s : State) (id : Nat) (ts : List PortTrain) : (s.begun id).trainPorts ts = s.trainPorts ts := rfl
@[simp] theorem State.begun_stepOpen (s : State) (id : Nat) : (s.begun id).stepOpen = s.stepOpen := rfl
@[simp] theorem State.begun_unitBytes (s : State) (id : Nat) (p : List Byte) (d : CurdDesc) : (s.begun id).unitBytes p d = s.unitBytes p d := rfl
@[simp] theorem State.begun_curdIn (s : State) (id : Nat) (p : List Byte) : (s.begun id).curdIn p = s.curdIn p := rfl
@[simp] theorem State.begun_curdOut (s : State) (id : Nat) (p : List Byte) : (s.begun id).curdOut p = s.curdOut p := rfl
@[simp] theorem State.begun_chunkUnits (s : State) (id : Nat) (p : List Byte) (d : CurdDesc) : (s.begun id).chunkUnits p d = s.chunkUnits p d := rfl
@[simp] theorem State.begun_inBytes (s : State) (id : Nat) (p : List Byte) : (s.begun id).inBytes p = s.inBytes p := rfl
@[simp] theorem State.begun_outElems (s : State) (id : Nat) (p : List Byte) : (s.begun id).outElems p = s.outElems p := rfl
@[simp] theorem State.begun_outTensor (s : State) (id : Nat) (p : List Byte) : (s.begun id).outTensor p = s.outTensor p := rfl
@[simp] theorem State.begun_rawOut (s : State) (id : Nat) (p : List Byte) : (s.begun id).rawOut p = s.rawOut p := rfl
@[simp] theorem State.begun_collOuts (s : State) (id : Nat) (p : List Byte) : (s.begun id).collOuts p = s.collOuts p := rfl
@[simp] theorem State.begun_inUnits (s : State) (id : Nat) (p : List Byte) (d : CurdDesc) (a n : Nat) : (s.begun id).inUnits p d a n = s.inUnits p d a n := rfl
@[simp] theorem State.begun_collReads (s : State) (id : Nat) (p : List Byte) : (s.begun id).collReads p = s.collReads p := rfl
@[simp] theorem State.begun_collEnv (s : State) (id : Nat) (p : List Byte) : (s.begun id).collEnv p = s.collEnv p := rfl
@[simp] theorem State.begun_collBegin (s : State) (id : Nat) (e : CollEnv) (j : Coll) : (s.begun id).collBegin e j = s.collBegin e j := rfl
@[simp] theorem State.begun_coll? (s : State) (id0 : Nat) (id : Nat) : (s.begun id0).coll? id = s.coll? id := rfl
@[simp] theorem State.begun_piecesWait (s : State) (id : Nat) (j : Coll) : (s.begun id).piecesWait j = s.piecesWait j := rfl
@[simp] theorem State.begun_heldPiece (s : State) (id : Nat) (e : EarlyPiece) : (s.begun id).heldPiece e = s.heldPiece e := rfl
@[simp] theorem State.begun_shardSection (s : State) (id : Nat) (x : DShard) : (s.begun id).shardSection x = s.shardSection x := rfl
@[simp] theorem State.begun_rowImage (s : State) (id : Nat) (t : ETable) (a : Nat) : (s.begun id).rowImage t a = s.rowImage t a := rfl
@[simp] theorem State.begun_tableSections (s : State) (id : Nat) (t : ETable) : (s.begun id).tableSections t = s.tableSections t := rfl
@[simp] theorem State.begun_relocSection (s : State) (id : Nat) : (s.begun id).relocSection = s.relocSection := rfl
@[simp] theorem State.begun_sections (s : State) (id : Nat) : (s.begun id).sections = s.sections := rfl
@[simp] theorem State.begun_sectionPoisoned (s : State) (id : Nat) (x : Section) : (s.begun id).sectionPoisoned x = s.sectionPoisoned x := rfl
@[simp] theorem State.begun_sectionBytes (s : State) (id : Nat) (x : Section) : (s.begun id).sectionBytes x = s.sectionBytes x := rfl
@[simp] theorem State.begun_imageHeader (s : State) (id : Nat) (xs : List Section) (length : Nat) : (s.begun id).imageHeader xs length = s.imageHeader xs length := rfl
@[simp] theorem State.begun_image (s : State) (id : Nat) : (s.begun id).image = s.image := rfl
@[simp] theorem State.begun_imageLength (s : State) (id : Nat) : (s.begun id).imageLength = s.imageLength := rfl
@[simp] theorem State.begun_imageReads (s : State) (id : Nat) : (s.begun id).imageReads = s.imageReads := rfl
@[simp] theorem State.begun_stream? (s : State) (id : Nat) (save : Bool) (chip tag : Nat) : (s.begun id).stream? save chip tag = s.stream? save chip tag := rfl
@[simp] theorem State.begun_headerReason (s : State) (id : Nat) (img : List Byte) (given : Nat) : (s.begun id).headerReason img given = s.headerReason img given := rfl
@[simp] theorem State.begun_sectionReason (s : State) (id : Nat) (h : List Byte) (left : Nat) : (s.begun id).sectionReason h left = s.sectionReason h left := rfl
@[simp] theorem State.begun_notInImage (s : State) (id : Nat) (r : Restored) : (s.begun id).notInImage r = s.notInImage r := rfl
@[simp] theorem State.begun_curdIndex (s : State) (id : Nat) (d : CurdDesc) : (s.begun id).curdIndex d = s.curdIndex d := rfl
@[simp] theorem State.begun_curdValues (s : State) (id : Nat) (d : CurdDesc) : (s.begun id).curdValues d = s.curdValues d := rfl
@[simp] theorem State.begun_etable? (s : State) (id0 : Nat) (id : Nat) : (s.begun id0).etable? id = s.etable? id := rfl
@[simp] theorem State.begun_mergeEntries (s : State) (id : Nat) : (s.begun id).mergeEntries = s.mergeEntries := rfl
@[simp] theorem State.begun_relocOf (s : State) (id : Nat) (t key : Nat) : (s.begun id).relocOf t key = s.relocOf t key := rfl
@[simp] theorem State.begun_forwardOf (s : State) (id : Nat) (t key : Nat) : (s.begun id).forwardOf t key = s.forwardOf t key := rfl
@[simp] theorem State.begun_rowOwner (s : State) (id : Nat) (t : ETable) (key : Nat) : (s.begun id).rowOwner t key = s.rowOwner t key := rfl
@[simp] theorem State.begun_rowTenure (s : State) (id : Nat) (t key : Nat) : (s.begun id).rowTenure t key = s.rowTenure t key := rfl
@[simp] theorem State.begun_guestOf (s : State) (id : Nat) (t key : Nat) : (s.begun id).guestOf t key = s.guestOf t key := rfl
@[simp] theorem State.begun_freshlyOwned (s : State) (id : Nat) (t key : Nat) : (s.begun id).freshlyOwned t key = s.freshlyOwned t key := rfl
@[simp] theorem State.begun_rowAddr (s : State) (id : Nat) (t : ETable) (key : Nat) : (s.begun id).rowAddr t key = s.rowAddr t key := rfl
@[simp] theorem State.begun_heldTenure (s : State) (id : Nat) (t : ETable) (a : Nat) : (s.begun id).heldTenure t a = s.heldTenure t a := rfl
@[simp] theorem State.begun_route (s : State) (id : Nat) (t : ETable) (key : Nat) : (s.begun id).route t key = s.route t key := rfl
@[simp] theorem State.begun_judge (s : State) (id : Nat) (t : ETable) (key tenure : Nat) : (s.begun id).judge t key tenure = s.judge t key tenure := rfl
@[simp] theorem State.begun_logUsed (s : State) (id : Nat) : (s.begun id).logUsed = s.logUsed := rfl
@[simp] theorem State.begun_logRoom (s : State) (id : Nat) (n : Nat) : (s.begun id).logRoom n = s.logRoom n := rfl
@[simp] theorem State.begun_lkOffsetList (s : State) (id : Nat) (p : List Byte) : (s.begun id).lkOffsetList p = s.lkOffsetList p := rfl
@[simp] theorem State.begun_lkRows (s : State) (id : Nat) (p : List Byte) : (s.begun id).lkRows p = s.lkRows p := rfl
@[simp] theorem State.begun_lkEntryRange (s : State) (id : Nat) (p : List Byte) : (s.begun id).lkEntryRange p = s.lkEntryRange p := rfl
@[simp] theorem State.begun_lkOutRange (s : State) (id : Nat) (t : ETable) (p : List Byte) : (s.begun id).lkOutRange t p = s.lkOutRange t p := rfl
@[simp] theorem State.begun_bagEntries (s : State) (id : Nat) (p : List Byte) (x y : Nat) : (s.begun id).bagEntries p x y = s.bagEntries p x y := rfl
@[simp] theorem State.begun_lkBagList (s : State) (id : Nat) (p : List Byte) : (s.begun id).lkBagList p = s.lkBagList p := rfl
@[simp] theorem State.begun_lkListReads (s : State) (id : Nat) (p : List Byte) : (s.begun id).lkListReads p = s.lkListReads p := rfl
@[simp] theorem State.begun_replicated (s : State) (id : Nat) (t : Nat) (keys : List Nat) : (s.begun id).replicated t keys = s.replicated t keys := rfl
@[simp] theorem State.begun_lookupPortion (s : State) (id0 : Nat) (t : ETable) (id bag owner dest : Nat) (es : List (Nat × F32)) : (s.begun id0).lookupPortion t id bag owner dest es = s.lookupPortion t id bag owner dest es := rfl
@[simp] theorem State.begun_bagPortions (s : State) (id0 : Nat) (t : ETable) (pool id bag : Nat) (b : Bag) : (s.begun id0).bagPortions t pool id bag b = s.bagPortions t pool id bag b := rfl
@[simp] theorem State.begun_localRow (s : State) (id : Nat) (t : ETable) (viaReplica : Bool) (key : Nat) : (s.begun id).localRow t viaReplica key = s.localRow t viaReplica key := rfl
@[simp] theorem State.begun_serveLookup (s : State) (id : Nat) (t : ETable) (pool : Nat) (q : Portion) : (s.begun id).serveLookup t pool q = s.serveLookup t pool q := rfl
@[simp] theorem State.begun_lookupRecords (s : State) (id : Nat) (t : ETable) (pool : Nat) (q : Portion) : (s.begun id).lookupRecords t pool q = s.lookupRecords t pool q := rfl
@[simp] theorem State.begun_lkPoisonOuts (s : State) (id : Nat) (t : ETable) (p : List Byte) : (s.begun id).lkPoisonOuts t p = s.lkPoisonOuts t p := rfl
@[simp] theorem State.begun_ownServeLogs (s : State) (id : Nat) (t : ETable) (pool : Nat) (qs : List Portion) : (s.begun id).ownServeLogs t pool qs = s.ownServeLogs t pool qs := rfl
@[simp] theorem State.begun_answerLookup (s : State) (id : Nat) (src : Nat) (t : ETable) (g : List LookupReq) (part : Bool) (tenures addrs : List Nat) : (s.begun id).answerLookup src t g part tenures addrs = s.answerLookup src t g part tenures addrs := rfl
@[simp] theorem State.begun_ftable? (s : State) (id0 : Nat) (id : Nat) : (s.begun id0).ftable? id = s.ftable? id := rfl
@[simp] theorem State.begun_rowsFail (s : State) (id : Nat) (t : FTable) (vs : List Nat) : (s.begun id).rowsFail t vs = s.rowsFail t vs := rfl
@[simp] theorem State.begun_rowsOf (s : State) (id : Nat) (t : FTable) (vs : List Nat) : (s.begun id).rowsOf t vs = s.rowsOf t vs := rfl
@[simp] theorem State.begun_gaRows (s : State) (id : Nat) (p : List Byte) : (s.begun id).gaRows p = s.gaRows p := rfl
@[simp] theorem State.begun_gaRowBytes (s : State) (id : Nat) (p : List Byte) : (s.begun id).gaRowBytes p = s.gaRowBytes p := rfl
@[simp] theorem State.begun_gaOutBytes (s : State) (id : Nat) (p : List Byte) : (s.begun id).gaOutBytes p = s.gaOutBytes p := rfl
@[simp] theorem State.begun_gaItems (s : State) (id : Nat) (p : List Byte) : (s.begun id).gaItems p = s.gaItems p := rfl
@[simp] theorem State.begun_servePortion (s : State) (id : Nat) (t : FTable) (pool : Bool) (q : Portion) : (s.begun id).servePortion t pool q = s.servePortion t pool q := rfl
@[simp] theorem State.begun_gaListReads (s : State) (id : Nat) (p : List Byte) : (s.begun id).gaListReads p = s.gaListReads p := rfl
@[simp] theorem State.begun_answerRows (s : State) (id : Nat) (g : List RowReq) : (s.begun id).answerRows g = s.answerRows g := rfl
@[simp] theorem State.begun_agParents (s : State) (id : Nat) (p : List Byte) : (s.begun id).agParents p = s.agParents p := rfl
@[simp] theorem State.begun_agEntries (s : State) (id : Nat) (p : List Byte) : (s.begun id).agEntries p = s.agEntries p := rfl
@[simp] theorem State.begun_agAuxBytes (s : State) (id : Nat) (p : List Byte) : (s.begun id).agAuxBytes p = s.agAuxBytes p := rfl
@[simp] theorem State.begun_agSaveBytes (s : State) (id : Nat) (p : List Byte) : (s.begun id).agSaveBytes p = s.agSaveBytes p := rfl
@[simp] theorem State.begun_agReadable (s : State) (id : Nat) (p : List Byte) : (s.begun id).agReadable p = s.agReadable p := rfl
@[simp] theorem State.begun_agGroupsOf (s : State) (id : Nat) (p : List Byte) : (s.begun id).agGroupsOf p = s.agGroupsOf p := rfl
@[simp] theorem State.begun_agGroupReads (s : State) (id : Nat) (p : List Byte) : (s.begun id).agGroupReads p = s.agGroupReads p := rfl
@[simp] theorem State.begun_agPoisoned (s : State) (id : Nat) (p : List Byte) : (s.begun id).agPoisoned p = s.agPoisoned p := rfl
@[simp] theorem State.begun_agInRows (s : State) (id : Nat) (p : List Byte) (a n : Nat) : (s.begun id).agInRows p a n = s.agInRows p a n := rfl
@[simp] theorem State.begun_f32sAt (s : State) (id : Nat) (r : Nat × Nat) : (s.begun id).f32sAt r = s.f32sAt r := rfl
@[simp] theorem State.begun_agForward (s : State) (id : Nat) (p : List Byte) (i : Nat) (g : ItemFail ⊕ (Nat × Nat)) : (s.begun id).agForward p i g = s.agForward p i g := rfl
@[simp] theorem State.begun_agOuts (s : State) (id : Nat) (p : List Byte) : (s.begun id).agOuts p = s.agOuts p := rfl
@[simp] theorem State.begun_agHeadStatus (s : State) (id : Nat) (p : List Byte) : (s.begun id).agHeadStatus p = s.agHeadStatus p := rfl
@[simp] theorem State.begun_agBackward (s : State) (id : Nat) (p : List Byte) (i : Nat) (g : ItemFail ⊕ (Nat × Nat)) : (s.begun id).agBackward p i g = s.agBackward p i g := rfl
@[simp] theorem State.begun_shard? (s : State) (id0 : Nat) (id : Nat) : (s.begun id0).shard? id = s.shard? id := rfl
@[simp] theorem State.begun_draw64 (s : State) (id : Nat) (stream i : Nat) : (s.begun id).draw64 stream i = s.draw64 stream i := rfl
@[simp] theorem State.begun_failOf (s : State) (id : Nat) (rs : List (Nat × Nat)) : (s.begun id).failOf rs = s.failOf rs := rfl
@[simp] theorem State.begun_nodeList (s : State) (id : Nat) (x : Shard) (v : Nat) : (s.begun id).nodeList x v = s.nodeList x v := rfl
@[simp] theorem State.begun_edgeEntry (s : State) (id : Nat) (x : Shard) (start t pos : Nat) : (s.begun id).edgeEntry x start t pos = s.edgeEntry x start t pos := rfl
@[simp] theorem State.begun_positions (s : State) (id : Nat) (x : Shard) (kind f stream key start d : Nat) : (s.begun id).positions x kind f stream key start d = s.positions x kind f stream key start d := rfl
@[simp] theorem State.begun_outstanding (s : State) (id : Nat) : (s.begun id).outstanding = s.outstanding := rfl
@[simp] theorem State.begun_step32 (s : State) (id : Nat) : (s.begun id).step32 = s.step32 := rfl
@[simp] theorem State.begun_unrouted (s : State) (id : Nat) : (s.begun id).unrouted = s.unrouted := rfl
@[simp] theorem State.begun_pathLog (s : State) (id : Nat) (a : Nat) : (s.begun id).pathLog a = s.pathLog a := rfl
@[simp] theorem State.begun_logEntryFail (s : State) (id : Nat) (a i : Nat) : (s.begun id).logEntryFail a i = s.logEntryFail a i := rfl
@[simp] theorem State.begun_logParents (s : State) (id : Nat) (a : Nat) : (s.begun id).logParents a = s.logParents a := rfl
@[simp] theorem State.begun_seedItems (s : State) (id : Nat) (a n : Nat) : (s.begun id).seedItems a n = s.seedItems a n := rfl
@[simp] theorem State.begun_frontierHead (s : State) (id : Nat) (p : List Byte) : (s.begun id).frontierHead p = s.frontierHead p := rfl
@[simp] theorem State.begun_parentCount (s : State) (id : Nat) (p : List Byte) : (s.begun id).parentCount p = s.parentCount p := rfl
@[simp] theorem State.begun_keySpan (s : State) (id : Nat) (p : List Byte) : (s.begun id).keySpan p = s.keySpan p := rfl
@[simp] theorem State.begun_frontierReads (s : State) (id : Nat) (p : List Byte) : (s.begun id).frontierReads p = s.frontierReads p := rfl
@[simp] theorem State.begun_knownParents (s : State) (id : Nat) (p : List Byte) : (s.begun id).knownParents p = s.knownParents p := rfl
@[simp] theorem State.begun_hop? (s : State) (id0 : Nat) (id : Nat) : (s.begun id0).hop? id = s.hop? id := rfl
@[simp] theorem State.begun_parentOf (s : State) (id : Nat) (src tag : Nat) : (s.begun id).parentOf src tag = s.parentOf src tag := rfl
@[simp] theorem State.begun_shardWeights (s : State) (id : Nat) (x : Shard) : (s.begun id).shardWeights x = s.shardWeights x := rfl
@[simp] theorem State.begun_aliasBytes (s : State) (id : Nat) (x : Shard) (n : Nat) : (s.begun id).aliasBytes x n = s.aliasBytes x n := rfl
@[simp] theorem State.begun_rebuildStops (s : State) (id : Nat) (x : Shard) : (s.begun id).rebuildStops x = s.rebuildStops x := rfl
@[simp] theorem State.begun_testRidges (s : State) (id : Nat) (p : List Byte) : (s.begun id).testRidges p = s.testRidges p := rfl
@[simp] theorem State.begun_groupOnRidges (s : State) (id : Nat) (rs : List Nat) : (s.begun id).groupOnRidges rs = s.groupOnRidges rs := rfl
@[simp] theorem State.begun_leftAfter (s : State) (id : Nat) (ph : Nat) : (s.begun id).leftAfter ph = s.leftAfter ph := rfl
@[simp] theorem State.begun_counterTable (s : State) (id : Nat) : (s.begun id).counterTable = s.counterTable := rfl
@[simp] theorem State.begun_bootStatusWord (s : State) (id : Nat) : (s.begun id).bootStatusWord = s.bootStatusWord := rfl
@[simp] theorem State.begun_bootDetailWord (s : State) (id : Nat) : (s.begun id).bootDetailWord = s.bootDetailWord := rfl
@[simp] theorem State.begun_lateBy (s : State) (id : Nat) (lag : Nat) : (s.begun id).lateBy lag = s.lateBy lag := rfl
@[simp] theorem State.begun_queueReg (s : State) (id : Nat) (off : Nat) : (s.begun id).queueReg off = s.queueReg off := rfl
@[simp] theorem State.begun_numReg (s : State) (id : Nat) (off : Nat) : (s.begun id).numReg off = s.numReg off := rfl
@[simp] theorem State.begun_paceReg (s : State) (id : Nat) (off : Nat) : (s.begun id).paceReg off = s.paceReg off := rfl
@[simp] theorem State.begun_linkReg (s : State) (id : Nat) (off : Nat) : (s.begun id).linkReg off = s.linkReg off := rfl
@[simp] theorem State.begun_memPortWord (s : State) (id : Nat) (m : MemPort) : (s.begun id).memPortWord m = s.memPortWord m := rfl
@[simp] theorem State.begun_memReg (s : State) (id : Nat) (off : Nat) : (s.begun id).memReg off = s.memReg off := rfl
@[simp] theorem State.begun_powerReg (s : State) (id : Nat) (off : Nat) : (s.begun id).powerReg off = s.powerReg off := rfl
@[simp] theorem State.begun_shownDeviceId (s : State) (id : Nat) : (s.begun id).shownDeviceId = s.shownDeviceId := rfl
@[simp] theorem State.begun_secReg (s : State) (id : Nat) (off : Nat) : (s.begun id).secReg off = s.secReg off := rfl
@[simp] theorem State.begun_hostReg (s : State) (id : Nat) (off : Nat) : (s.begun id).hostReg off = s.hostReg off := rfl
@[simp] theorem State.begun_msixReg (s : State) (id : Nat) (off : Nat) : (s.begun id).msixReg off = s.msixReg off := rfl
@[simp] theorem State.begun_regValue (s : State) (id : Nat) (off : Nat) : (s.begun id).regValue off = s.regValue off := rfl
@[simp] theorem State.begun_mailboxVerdict (s : State) (id : Nat) (p : List Byte) (len : Nat) : (s.begun id).mailboxVerdict p len = s.mailboxVerdict p len := rfl
@[simp] theorem State.begun_windowAddr (s : State) (id : Nat) (off : Nat) : (s.begun id).windowAddr off = s.windowAddr off := rfl
@[simp] theorem State.begun_hostUp (s : State) (id : Nat) : (s.begun id).hostUp = s.hostUp := rfl
@[simp] theorem State.begun_configWord (s : State) (id : Nat) (off : Nat) : (s.begun id).configWord off = s.configWord off := rfl
@[simp] theorem State.begun_hottestMem (s : State) (id : Nat) : (s.begun id).hottestMem = s.hottestMem := rfl
@[simp] theorem State.begun_newestEnd (s : State) (id : Nat) : (s.begun id).newestEnd = s.newestEnd := rfl
@[simp] theorem State.begun_groupPorts (s : State) (id : Nat) (g : Nat) : (s.begun id).groupPorts g = s.groupPorts g := rfl
@[simp] theorem State.begun_ledWord (s : State) (id : Nat) : (s.begun id).ledWord = s.ledWord := rfl
@[simp] theorem State.begun_ledPower (s : State) (id : Nat) : (s.begun id).ledPower = s.ledPower := rfl
@[simp] theorem State.begun_ledFault (s : State) (id : Nat) : (s.begun id).ledFault = s.ledFault := rfl
@[simp] theorem State.begun_ledLocate (s : State) (id : Nat) : (s.begun id).ledLocate = s.ledLocate := rfl
@[simp] theorem State.begun_mergeUsed (s : State) (id : Nat) : (s.begun id).mergeUsed = s.mergeUsed := rfl
@[simp] theorem State.begun_mergeRoom (s : State) (id : Nat) (t : ETable) : (s.begun id).mergeRoom t = s.mergeRoom t := rfl
@[simp] theorem State.begun_mergePlace (s : State) (id : Nat) (n : Nat) : (s.begun id).mergePlace n = s.mergePlace n := rfl
@[simp] theorem State.begun_mergedGrad (s : State) (id : Nat) (t : ETable) (a : Accum) : (s.begun id).mergedGrad t a = s.mergedGrad t a := rfl
@[simp] theorem State.begun_originOf (s : State) (id : Nat) (c : Ctx) : (s.begun id).originOf c = s.originOf c := rfl
@[simp] theorem State.begun_bwdLog (s : State) (id : Nat) (p : List Byte) : (s.begun id).bwdLog p = s.bwdLog p := rfl
@[simp] theorem State.begun_rowUpdated (s : State) (id : Nat) (t : ETable) (h : Hyper) (u : RowUpdate) : (s.begun id).rowUpdated t h u = s.rowUpdated t h u := rfl
@[simp] theorem State.begun_touched (s : State) (id : Nat) (t : ETable) : (s.begun id).touched t = s.touched t := rfl
@[simp] theorem State.begun_mayAsk (s : State) (id : Nat) (t key : Nat) : (s.begun id).mayAsk t key = s.mayAsk t key := rfl
@[simp] theorem State.begun_ownedWeights (s : State) (id : Nat) (t key : Nat) : (s.begun id).ownedWeights t key = s.ownedWeights t key := rfl
@[simp] theorem State.begun_refreshOpen (s : State) (id : Nat) : (s.begun id).refreshOpen = s.refreshOpen := rfl
@[simp] theorem State.begun_pinned (s : State) (id : Nat) : (s.begun id).pinned = s.pinned := rfl
@[simp] theorem State.begun_pinLimit (s : State) (id : Nat) : (s.begun id).pinLimit = s.pinLimit := rfl
@[simp] theorem State.begun_migrates (s : State) (id : Nat) (x : TopRow) : (s.begun id).migrates x = s.migrates x := rfl
@[simp] theorem State.begun_relocHeld (s : State) (id : Nat) : (s.begun id).relocHeld = s.relocHeld := rfl
@[simp] theorem State.begun_freeGuest (s : State) (id : Nat) (t : ETable) : (s.begun id).freeGuest t = s.freeGuest t := rfl
@[simp] theorem State.begun_routeWords (s : State) (id : Nat) (a n : Nat) : (s.begun id).routeWords a n = s.routeWords a n := rfl
@[simp] theorem State.begun_chipIds (s : State) (id : Nat) (a n : Nat) : (s.begun id).chipIds a n = s.chipIds a n := rfl
@[simp] theorem State.begun_newWidth (s : State) (id : Nat) (p : Port) : (s.begun id).newWidth p = s.newWidth p := rfl
@[simp] theorem State.begun_spilledRuns (s : State) (id : Nat) : (s.begun id).spilledRuns = s.spilledRuns := rfl
@[simp] theorem State.begun_cachedBytes (s : State) (id : Nat) : (s.begun id).cachedBytes = s.cachedBytes := rfl
@[simp] theorem State.begun_spillPlace (s : State) (id : Nat) (n : Nat) : (s.begun id).spillPlace n = s.spillPlace n := rfl
@[simp] theorem State.begun_batchRead (s : State) (id : Nat) (r : Reasm) : (s.begun id).batchRead r = s.batchRead r := rfl
@[simp] theorem State.begun_curdAt (s : State) (id : Nat) (a : Nat) : (s.begun id).curdAt a = s.curdAt a := rfl
@[simp] theorem State.begun_skimCapOf (s : State) (id : Nat) (mode cap mask : Nat) : (s.begun id).skimCapOf mode cap mask = s.skimCapOf mode cap mask := rfl
@[simp] theorem State.begun_group? (s : State) (id : Nat) (set : Option Nat) (slot : Nat) : (s.begun id).group? set slot = s.group? set slot := rfl
@[simp] theorem State.begun_inRegisterMode (s : State) (id : Nat) (r : Nat) : (s.begun id).inRegisterMode r = s.inRegisterMode r := rfl
@[simp] theorem State.begun_stackWords (s : State) (id : Nat) (g : Group) (r : Nat) : (s.begun id).stackWords g r = s.stackWords g r := rfl
@[simp] theorem State.begun_groupBytes (s : State) (id : Nat) (g : Group) (ridges : List Nat) (pos : Nat) : (s.begun id).groupBytes g ridges pos = s.groupBytes g ridges pos := rfl
@[simp] theorem State.begun_stackUsed (s : State) (id : Nat) (r : Nat) : (s.begun id).stackUsed r = s.stackUsed r := rfl
@[simp] theorem State.begun_stackLacks (s : State) (id : Nat) (g : Group) (ridges : List Nat) : (s.begun id).stackLacks g ridges = s.stackLacks g ridges := rfl
@[simp] theorem State.begun_newGroup (s : State) (id : Nat) (c : Ctx) : (s.begun id).newGroup c = s.newGroup c := rfl
@[simp] theorem State.begun_productInput (s : State) (id : Nat) (p : List Byte) : (s.begun id).productInput p = s.productInput p := rfl
@[simp] theorem State.begun_skimTwoWay (s : State) (id : Nat) (k : Skim) : (s.begun id).skimTwoWay k = s.skimTwoWay k := rfl
@[simp] theorem State.begun_skimDesc (s : State) (id : Nat) (j : SkimJob) : (s.begun id).skimDesc j = s.skimDesc j := rfl
@[simp] theorem State.begun_maskFailure (s : State) (id : Nat) (k : Skim) : (s.begun id).maskFailure k = s.maskFailure k := rfl
@[simp] theorem State.begun_maskReads (s : State) (id : Nat) (k : Skim) : (s.begun id).maskReads k = s.maskReads k := rfl
@[simp] theorem State.begun_skimOut (s : State) (id : Nat) (j : SkimJob) : (s.begun id).skimOut j = s.skimOut j := rfl
@[simp] theorem State.begun_maskOverlaps (s : State) (id : Nat) (j : SkimJob) : (s.begun id).maskOverlaps j = s.maskOverlaps j := rfl
@[simp] theorem State.begun_dormant (s : State) (id : Nat) (g : Group) (ridges : List Nat) : (s.begun id).dormant g ridges = s.dormant g ridges := rfl
@[simp] theorem State.begun_productTile (s : State) (id : Nat) (p : List Byte) (g : Group) (f : Nat × Byte × Nat × Nat) : (s.begun id).productTile p g f = s.productTile p g f := rfl
@[simp] theorem State.begun_groupStatus (s : State) (id : Nat) (set : Option Nat) (slot : Nat) : (s.begun id).groupStatus set slot = s.groupStatus set slot := rfl
@[simp] theorem State.begun_skimOverlaps (s : State) (id : Nat) (p : List Byte) : (s.begun id).skimOverlaps p = s.skimOverlaps p := rfl
@[simp] theorem State.begun_curdReadStatus (s : State) (id : Nat) (a : Nat) : (s.begun id).curdReadStatus a = s.curdReadStatus a := rfl
@[simp] theorem State.begun_memPort? (s : State) (id : Nat) (p : Nat) : (s.begun id).memPort? p = s.memPort? p := rfl
@[simp] theorem State.begun_refreshOf (s : State) (id : Nat) (m : MemPort) : (s.begun id).refreshOf m = s.refreshOf m := rfl
@[simp] theorem State.begun_rowInUse (s : State) (id : Nat) (m : MemPort) (ch row : Nat) : (s.begun id).rowInUse m ch row = s.rowInUse m ch row := rfl
@[simp] theorem State.begun_rowErrs (s : State) (id : Nat) (port ch row : Nat) : (s.begun id).rowErrs port ch row = s.rowErrs port ch row := rfl
@[simp] theorem State.begun_lastScrubbed (s : State) (id : Nat) (m : MemPort) : (s.begun id).lastScrubbed m = s.lastScrubbed m := rfl
@[simp] theorem State.begun_rowLines (s : State) (id : Nat) (m : MemPort) (ch row : Nat) : (s.begun id).rowLines m ch row = s.rowLines m ch row := rfl
@[simp] theorem State.begun_channelOf (s : State) (id : Nat) (a : Nat) : (s.begun id).channelOf a = s.channelOf a := rfl
@[simp] theorem State.begun_buildRecord (s : State) (id : Nat) : (s.begun id).buildRecord = s.buildRecord := rfl
@[simp] theorem State.begun_maskBit (s : State) (id : Nat) (r : RatioCfg) (tag : Nat) : (s.begun id).maskBit r tag = s.maskBit r tag := rfl
@[simp] theorem State.begun_monitors (s : State) (id : Nat) (tag : Nat) : (s.begun id).monitors tag = s.monitors tag := rfl
@[simp] theorem State.begun_monitoredTags (s : State) (id : Nat) : (s.begun id).monitoredTags = s.monitoredTags := rfl
@[simp] theorem State.begun_numRecords (s : State) (id : Nat) (table : Nat) : (s.begun id).numRecords table = s.numRecords table := rfl
@[simp] theorem State.begun_reducesSums (s : State) (id : Nat) : (s.begun id).reducesSums = s.reducesSums := rfl
@[simp] theorem State.begun_jobSum (s : State) (id : Nat) (draw k : Nat) (own : F32) : (s.begun id).jobSum draw k own = s.jobSum draw k own := rfl
@[simp] theorem State.begun_readAt (s : State) (id : Nat) (c : Ctx) (a n : Nat) : (s.begun id).readAt c a n = s.readAt c a n := rfl
@[simp] theorem State.begun_ridgeSet (s : State) (id : Nat) (branch : Option Nat) : (s.begun id).ridgeSet branch = s.ridgeSet branch := rfl
@[simp] theorem State.begun_branchOf (s : State) (id : Nat) (src : Src) : (s.begun id).branchOf src = s.branchOf src := rfl
@[simp] theorem State.begun_ctxOf (s : State) (id : Nat) (c : Cmd) : (s.begun id).ctxOf c = s.ctxOf c := rfl
@[simp] theorem State.begun_planEntryOf (s : State) (id : Nat) (c : Ctx) : (s.begun id).planEntryOf c = s.planEntryOf c := rfl
@[simp] theorem State.begun_counterKey (s : State) (id : Nat) (c : Ctx) : (s.begun id).counterKey c = s.counterKey c := rfl
@[simp] theorem State.begun_historyOf (s : State) (id : Nat) (c : Ctx) : (s.begun id).historyOf c = s.historyOf c := rfl
@[simp] theorem State.begun_tensorRows (s : State) (id : Nat) (t : Tensor) : (s.begun id).tensorRows t = s.tensorRows t := rfl
@[simp] theorem State.begun_tensorScales (s : State) (id : Nat) (t : Tensor) : (s.begun id).tensorScales t = s.tensorScales t := rfl
@[simp] theorem State.begun_tensorF32 (s : State) (id : Nat) (t : Tensor) : (s.begun id).tensorF32 t = s.tensorF32 t := rfl
@[simp] theorem State.begun_tensorFp (s : State) (id : Nat) (t : Tensor) : (s.begun id).tensorFp t = s.tensorFp t := rfl
@[simp] theorem State.begun_enabled (s : State) (id : Nat) : (s.begun id).enabled = s.enabled := rfl
@[simp] theorem State.begun_E (s : State) (id : Nat) : (s.begun id).E = s.E := rfl
@[simp] theorem State.begun_physical (s : State) (id : Nat) (r : Nat) : (s.begun id).physical r = s.physical r := rfl
@[simp] theorem State.begun_logical (s : State) (id : Nat) (p : Nat) : (s.begun id).logical p = s.logical p := rfl
@[simp] theorem State.begun_ridge? (s : State) (id : Nat) (p : Nat) : (s.begun id).ridge? p = s.ridge? p := rfl
@[simp] theorem State.begun_stepRunning (s : State) (id : Nat) : (s.begun id).stepRunning = s.stepRunning := rfl
@[simp] theorem State.begun_isHalted (s : State) (id : Nat) : (s.begun id).isHalted = s.isHalted := rfl
@[simp] theorem State.begun_planLoaded (s : State) (id : Nat) : (s.begun id).planLoaded = s.planLoaded := rfl
@[simp] theorem State.begun_chipId (s : State) (id : Nat) : (s.begun id).chipId = s.chipId := rfl
@[simp] theorem State.begun_jobN (s : State) (id : Nat) : (s.begun id).jobN = s.jobN := rfl
@[simp] theorem State.begun_rank (s : State) (id : Nat) : (s.begun id).rank = s.rank := rfl
@[simp] theorem State.begun_jobReady (s : State) (id : Nat) : (s.begun id).jobReady = s.jobReady := rfl
@[simp] theorem State.begun_rankChip (s : State) (id : Nat) (r : Nat) : (s.begun id).rankChip r = s.rankChip r := rfl
@[simp] theorem State.begun_chipRank (s : State) (id : Nat) (c : Nat) : (s.begun id).chipRank c = s.chipRank c := rfl
@[simp] theorem State.begun_presentPorts (s : State) (id : Nat) : (s.begun id).presentPorts = s.presentPorts := rfl
@[simp] theorem State.begun_channels (s : State) (id : Nat) : (s.begun id).channels = s.channels := rfl
@[simp] theorem State.begun_rawPerChannel (s : State) (id : Nat) : (s.begun id).rawPerChannel = s.rawPerChannel := rfl
@[simp] theorem State.begun_physRows (s : State) (id : Nat) : (s.begun id).physRows = s.physRows := rfl
@[simp] theorem State.begun_usableRows (s : State) (id : Nat) : (s.begun id).usableRows = s.usableRows := rfl
@[simp] theorem State.begun_capacity (s : State) (id : Nat) : (s.begun id).capacity = s.capacity := rfl
@[simp] theorem State.begun_directBytes (s : State) (id : Nat) : (s.begun id).directBytes = s.directBytes := rfl
@[simp] theorem State.begun_rangeReason (s : State) (id : Nat) (a n : Nat) : (s.begun id).rangeReason a n = s.rangeReason a n := rfl
@[simp] theorem State.begun_gddrPlace (s : State) (id : Nat) (a : Nat) : (s.begun id).gddrPlace a = s.gddrPlace a := rfl
@[simp] theorem State.begun_remapRow (s : State) (id : Nat) (port ch p : Nat) : (s.begun id).remapRow port ch p = s.remapRow port ch p := rfl
@[simp] theorem State.begun_sectorPlace (s : State) (id : Nat) (a : Nat) : (s.begun id).sectorPlace a = s.sectorPlace a := rfl
@[simp] theorem State.begun_read (s : State) (id : Nat) (a n : Nat) : (s.begun id).read a n = s.read a n := rfl
@[simp] theorem State.begun_bankValues (s : State) (id : Nat) (phys bank : Nat) : (s.begun id).bankValues phys bank = s.bankValues phys bank := rfl
@[simp] theorem State.begun_readAll (s : State) (id : Nat) (rs : List (Nat × Nat)) : (s.begun id).readAll rs = s.readAll rs := rfl
@[simp] theorem State.begun_switchedOff (s : State) (id : Nat) (ph : List Nat) : (s.begun id).switchedOff ph = s.switchedOff ph := rfl
@[simp] theorem State.begun_ridgesGated (s : State) (id : Nat) : (s.begun id).ridgesGated = s.ridgesGated := rfl
@[simp] theorem State.begun_rankPorts (s : State) (id : Nat) : (s.begun id).rankPorts = s.rankPorts := rfl
@[simp] theorem State.begun_bankErrs (s : State) (id : Nat) (phys bank : Nat) : (s.begun id).bankErrs phys bank = s.bankErrs phys bank := rfl
@[simp] theorem State.begun_normalRidge (s : State) (id : Nat) (r : Ridge) : (s.begun id).normalRidge r = s.normalRidge r := rfl
@[simp] theorem State.begun_flagOf (s : State) (id : Nat) (b : Barrier) (up : Bool) : (s.begun id).flagOf b up = s.flagOf b up := rfl
@[simp] theorem State.begun_noticesIn (s : State) (id : Nat) : (s.begun id).noticesIn = s.noticesIn := rfl
@[simp] theorem State.begun_newBarrier (s : State) (id : Nat) (kind : Nat) (cmd : Option Nat) (mask : W64) : (s.begun id).newBarrier kind cmd mask = s.newBarrier kind cmd mask := rfl
@[simp] theorem State.begun_errSummary (s : State) (id : Nat) : (s.begun id).errSummary = s.errSummary := rfl
@[simp] theorem State.begun_errEnable (s : State) (id : Nat) : (s.begun id).errEnable = s.errEnable := rfl
@[simp] theorem State.begun_attention (s : State) (id : Nat) : (s.begun id).attention = s.attention := rfl
@[simp] theorem State.begun_attentionUnmasked (s : State) (id : Nat) : (s.begun id).attentionUnmasked = s.attentionUnmasked := rfl
@[simp] theorem State.begun_converts (s : State) (id : Nat) (sc : PlanScan) (e : PlanEntry) : (s.begun id).converts sc e = s.converts sc e := rfl
@[simp] theorem State.begun_loadNumerics (s : State) (id0 : Nat) (id : Nat) (convs : List (Nat × Option Nat)) : (s.begun id0).loadNumerics id convs = s.loadNumerics id convs := rfl
@[simp] theorem State.begun_planRunning (s : State) (id0 : Nat) (id : Nat) : (s.begun id0).planRunning id = s.planRunning id := rfl
@[simp] theorem State.begun_storeUsed (s : State) (id0 : Nat) (id : Nat) : (s.begun id0).storeUsed id = s.storeUsed id := rfl
@[simp] theorem State.begun_port? (s : State) (id : Nat) (p : Nat) : (s.begun id).port? p = s.port? p := rfl
@[simp] theorem State.begun_lane? (s : State) (id : Nat) (l : Nat) : (s.begun id).lane? l = s.lane? l := rfl
@[simp] theorem State.begun_portPresent (s : State) (id : Nat) (p : Port) : (s.begun id).portPresent p = s.portPresent p := rfl
@[simp] theorem State.begun_laneOwner (s : State) (id : Nat) (l : Nat) : (s.begun id).laneOwner l = s.laneOwner l := rfl
@[simp] theorem State.begun_usablePaths (s : State) (id : Nat) (dest : Nat) : (s.begun id).usablePaths dest = s.usablePaths dest := rfl
@[simp] theorem State.begun_egressOf (s : State) (id : Nat) (p : Packet) : (s.begun id).egressOf p = s.egressOf p := rfl
@[simp] theorem State.begun_certOf (s : State) (id : Nat) (kind : Nat) : (s.begun id).certOf kind = s.certOf kind := rfl
@[simp] theorem State.begun_classCounters (s : State) (id : Nat) (cls : Nat) : (s.begun id).classCounters cls = s.classCounters cls := rfl
@[simp] theorem State.begun_hintFloor (s : State) (id : Nat) (hs : List Hint) (island counter : Nat) : (s.begun id).hintFloor hs island counter = s.hintFloor hs island counter := rfl
@[simp] theorem State.begun_counters (s : State) (id : Nat) (cs : List Activity) (hs : List Hint) : (s.begun id).counters cs hs = s.counters cs hs := rfl
@[simp] theorem State.begun_dynamic (s : State) (id : Nat) (cs : List Activity) (hs : List Hint) (left : Rat) (p : Nat → Bool) : (s.begun id).dynamic cs hs left p = s.dynamic cs hs left p := rfl
@[simp] theorem State.begun_groupOn (s : State) (id : Nat) (g : Nat) : (s.begun id).groupOn g = s.groupOn g := rfl
@[simp] theorem State.begun_domainOn (s : State) (id : Nat) (d : Nat) : (s.begun id).domainOn d = s.domainOn d := rfl
@[simp] theorem State.begun_leakage (s : State) (id : Nat) : (s.begun id).leakage = s.leakage := rfl
@[simp] theorem State.begun_unbubbled (s : State) (id : Nat) (cs : List Activity) (hs : List Hint) : (s.begun id).unbubbled cs hs = s.unbubbled cs hs := rfl
@[simp] theorem State.begun_counted (s : State) (id : Nat) (cs : List Activity) : (s.begun id).counted cs = s.counted cs := rfl
@[simp] theorem State.begun_stretching (s : State) (id : Nat) : (s.begun id).stretching = s.stretching := rfl
@[simp] theorem State.begun_scEntries (s : State) (id : Nat) (p : List Byte) : (s.begun id).scEntries p = s.scEntries p := rfl
@[simp] theorem State.begun_scReadable (s : State) (id : Nat) (p : List Byte) : (s.begun id).scReadable p = s.scReadable p := rfl
@[simp] theorem State.begun_scIndices (s : State) (id : Nat) (p : List Byte) : (s.begun id).scIndices p = s.scIndices p := rfl
@[simp] theorem State.begun_scListReads (s : State) (id : Nat) (p : List Byte) : (s.begun id).scListReads p = s.scListReads p := rfl
@[simp] theorem State.begun_scPoisoned (s : State) (id : Nat) (p : List Byte) : (s.begun id).scPoisoned p = s.scPoisoned p := rfl
@[simp] theorem State.begun_scItemAt (s : State) (id : Nat) (p : List Byte) (a : Nat) : (s.begun id).scItemAt p a = s.scItemAt p a := rfl
@[simp] theorem State.begun_deviceId (s : State) (id : Nat) : (s.begun id).deviceId = s.deviceId := rfl
@[simp] theorem State.begun_keyOf (s : State) (id : Nat) (kind : Nat) (hash : List Byte) : (s.begun id).keyOf kind hash = s.keyOf kind hash := rfl
@[simp] theorem State.begun_imageValid (s : State) (id : Nat) (img : List Byte) : (s.begun id).imageValid img = s.imageValid img := rfl
@[simp] theorem State.begun_otherSlot (s : State) (id : Nat) : (s.begun id).otherSlot = s.otherSlot := rfl
@[simp] theorem State.begun_certBytes (s : State) (id : Nat) : (s.begun id).certBytes = s.certBytes := rfl
@[simp] theorem State.begun_quoteBody (s : State) (id : Nat) (mask : Nat) (nonce : List Byte) : (s.begun id).quoteBody mask nonce = s.quoteBody mask nonce := rfl
@[simp] theorem State.begun_imageWriting (s : State) (id : Nat) : (s.begun id).imageWriting = s.imageWriting := rfl
@[simp] theorem State.begun_otherBelow (s : State) (id : Nat) (v : Nat) : (s.begun id).otherBelow v = s.otherBelow v := rfl
@[simp] theorem State.begun_tokenKey (s : State) (id : Nat) (signer : Nat) : (s.begun id).tokenKey signer = s.tokenKey signer := rfl
@[simp] theorem State.begun_tokenOk (s : State) (id : Nat) (t : List Byte) : (s.begun id).tokenOk t = s.tokenOk t := rfl
@[simp] theorem State.begun_peerOk (s : State) (id : Nat) (p : Port) (sig key cert inter root : List Byte) : (s.begun id).peerOk p sig key cert inter root = s.peerOk p sig key cert inter root := rfl
@[simp] theorem State.begun_staleFor (s : State) (id : Nat) (p : Plan) : (s.begun id).staleFor p = s.staleFor p := rfl
@[simp] theorem State.begun_mayBegin (s : State) (id : Nat) (c : Cmd) : (s.begun id).mayBegin c = s.mayBegin c := rfl
@[simp] theorem State.begun_condBits (s : State) (id : Nat) : (s.begun id).condBits = s.condBits := rfl
@[simp] theorem State.begun_passed? (s : State) (id : Nat) (kind : Nat) : (s.begun id).passed? kind = s.passed? kind := rfl
@[simp] theorem State.begun_sub? (s : State) (id : Nat) (q : Nat) : (s.begun id).sub? q = s.sub? q := rfl
@[simp] theorem State.begun_resp? (s : State) (id : Nat) (q : Nat) : (s.begun id).resp? q = s.resp? q := rfl
@[simp] theorem State.begun_ringBytes (s : State) (id : Nat) (q : SubQueue) (pos n : Nat) : (s.begun id).ringBytes q pos n = s.ringBytes q pos n := rfl
@[simp] theorem State.begun_headPacket (s : State) (id : Nat) (q : SubQueue) : (s.begun id).headPacket q = s.headPacket q := rfl
@[simp] theorem State.begun_replyQueue (s : State) (id : Nat) (p : List Byte) : (s.begun id).replyQueue p = s.replyQueue p := rfl
@[simp] theorem State.begun_rings (s : State) (id : Nat) : (s.begun id).rings = s.rings := rfl
@[simp] theorem State.begun_queueExists (s : State) (id : Nat) (kind q : Nat) : (s.begun id).queueExists kind q = s.queueExists kind q := rfl
@[simp] theorem State.begun_deadlineOf (s : State) (id : Nat) (p : List Byte) : (s.begun id).deadlineOf p = s.deadlineOf p := rfl
@[simp] theorem State.begun_stepDeadlineOf (s : State) (id : Nat) (plan : Plan) (p : List Byte) : (s.begun id).stepDeadlineOf plan p = s.stepDeadlineOf plan p := rfl
@[simp] theorem State.begun_willDefer (s : State) (id : Nat) (p : List Byte) : (s.begun id).willDefer p = s.willDefer p := rfl
@[simp] theorem State.begun_slotsFor (s : State) (id : Nat) (p : List Byte) : (s.begun id).slotsFor p = s.slotsFor p := rfl
@[simp] theorem State.begun_takeable (s : State) (id : Nat) (q : Nat) : (s.begun id).takeable q = s.takeable q := rfl
@[simp] theorem State.begun_nextPlace (s : State) (id : Nat) (base pos : Nat) : (s.begun id).nextPlace base pos = s.nextPlace base pos := rfl
@[simp] theorem State.begun_nextTurn (s : State) (id : Nat) : (s.begun id).nextTurn = s.nextTurn := rfl
@[simp] theorem State.begun_replyBreaches (s : State) (id : Nat) (p : List Byte) : (s.begun id).replyBreaches p = s.replyBreaches p := rfl
@[simp] theorem State.begun_stalls (s : State) (id : Nat) (q : Nat) : (s.begun id).stalls q = s.stalls q := rfl
@[simp] theorem State.begun_outsOf (s : State) (id : Nat) (p : List Byte) : (s.begun id).outsOf p = s.outsOf p := rfl
@[simp] theorem State.begun_timeoutResult (s : State) (id : Nat) (c : Ctx) : (s.begun id).timeoutResult c = s.timeoutResult c := rfl
@[simp] theorem State.begun_readHyper (s : State) (id : Nat) (a tag : Nat) : (s.begun id).readHyper a tag = s.readHyper a tag := rfl
@[simp] theorem State.begun_latchHyper (s : State) (id : Nat) : (s.begun id).latchHyper = s.latchHyper := rfl
@[simp] theorem State.begun_hyperFor (s : State) (id : Nat) (c : Ctx) (tag : Nat) : (s.begun id).hyperFor c tag = s.hyperFor c tag := rfl
@[simp] theorem State.begun_updateChecks (s : State) (id : Nat) (c : Ctx) (tag : Nat) (rule : Option Nat) (counter : W64) : (s.begun id).updateChecks c tag rule counter = s.updateChecks c tag rule counter := rfl
@[simp] theorem State.begun_planNames (s : State) (id : Nat) (f : List Byte → Bool) : (s.begun id).planNames f = s.planNames f := rfl
@[simp] theorem State.begun_recBytes (s : State) (id : Nat) : (s.begun id).recBytes = s.recBytes := rfl
@[simp] theorem State.begun_dshard? (s : State) (id : Nat) (tag : Nat) : (s.begun id).dshard? tag = s.dshard? tag := rfl
@[simp] theorem State.begun_countersAgree (s : State) (id : Nat) : (s.begun id).countersAgree = s.countersAgree := rfl
@[simp] theorem State.begun_denseElement (s : State) (id : Nat) (h : Hyper) (x : DShard) (i : Nat) (masked : Bool) (old : List Byte) (gm : F32) : (s.begun id).denseElement h x i masked old gm = s.denseElement h x i masked old gm := rfl
@[simp] theorem State.begun_perSector (s : State) (id : Nat) : (s.begun id).perSector = s.perSector := rfl
@[simp] theorem State.begun_denseReads (s : State) (id : Nat) (x : DShard) (a n : Nat) : (s.begun id).denseReads x a n = s.denseReads x a n := rfl
@[simp] theorem State.begun_denseSector (s : State) (id : Nat) (h : Hyper) (x : DShard) (k : Nat) : (s.begun id).denseSector h x k = s.denseSector h x k := rfl
@[simp] theorem State.begun_denseSectors (s : State) (id : Nat) (x : DShard) : (s.begun id).denseSectors x = s.denseSectors x := rfl
@[simp] theorem State.begun_doneSectors (s : State) (id : Nat) (x : DShard) (draw : Nat) : (s.begun id).doneSectors x draw = s.doneSectors x draw := rfl
@[simp] theorem State.begun_oldSectors (s : State) (id : Nat) (x : DShard) (ks : List Nat) : (s.begun id).oldSectors x ks = s.oldSectors x ks := rfl
@[simp] theorem State.begun_narrowReduce (s : State) (id : Nat) : (s.begun id).narrowReduce = s.narrowReduce := rfl
@[simp] theorem State.begun_packedRow (s : State) (id : Nat) (a n : Nat) : (s.begun id).packedRow a n = s.packedRow a n := rfl
@[simp] theorem State.begun_pair? (s : State) (id0 : Nat) (id : Nat) : (s.begun id0).pair? id = s.pair? id := rfl
@[simp] theorem State.begun_namesEmptyPair (s : State) (id : Nat) (p : List Byte) : (s.begun id).namesEmptyPair p = s.namesEmptyPair p := rfl
@[simp] theorem State.begun_reducePrio (s : State) (id : Nat) (q : Nat) : (s.begun id).reducePrio q = s.reducePrio q := rfl
@[simp] theorem State.begun_otherRanks (s : State) (id : Nat) : (s.begun id).otherRanks = s.otherRanks := rfl
@[simp] theorem State.begun_posts (s : State) (id : Nat) (m : Sent) : (s.begun id).posts m = s.posts m := rfl

end Sys2Proof.Machine
end

