-- ==== Sys2Proof/Laws/Memory.lean ====
section
/-! SUPPORT. Sparse storage keeps its canonical form under every operation on memory, and every memory operation changes the cells through three operations on cell lists alone. -/
namespace Sys2Proof.Machine

/-! ### Cell lists -/

/-- The canonical form said with a rising order of addresses. -/
theorem cellsWf_iff (cs : List Host.Cell) : cellsWf cs = true ↔ cs.Pairwise (fun a b => a.1 < b.1) ∧ ∀ c ∈ cs, c.2 ≠ 0 := by
  induction cs with
  | nil => simp [cellsWf]
  | cons c cs ih =>
    cases cs with
    | nil => obtain ⟨k, b⟩ := c; simp [cellsWf]
    | cons d ds =>
      obtain ⟨k, b⟩ := c
      obtain ⟨k', b'⟩ := d
      simp only [cellsWf, Bool.and_eq_true, decide_eq_true_eq, ih, List.pairwise_cons, List.mem_cons]
      constructor
      · rintro ⟨⟨h1, h2⟩, ⟨h3, h4⟩, h5⟩
        refine ⟨⟨?_, h3, h4⟩, ?_⟩
        · rintro x (rfl | hx)
          · exact h2
          · exact lt_trans h2 (h3 x hx)
        · rintro x (rfl | hx)
          · exact h1
          · exact h5 x hx
      · rintro ⟨⟨h1, h2, h3⟩, h4⟩
        exact ⟨⟨h4 _ (.inl rfl), h1 _ (.inl rfl)⟩, ⟨h2, h3⟩, fun x hx => h4 x (.inr hx)⟩

/-- Any part of a canonical list is canonical. -/
theorem cellsWf_filter (p : Host.Cell → Bool) {cs : List Host.Cell} (h : cellsWf cs = true) : cellsWf (cs.filter p) = true := by
  rw [cellsWf_iff] at h ⊢
  exact ⟨h.1.filter p, fun c hc => h.2 c (List.mem_of_mem_filter hc)⟩

/-- The cells of a run of bytes lie in the run and are not 0. -/
theorem mem_cellsOf {a : Nat} {bs : List Byte} {c : Host.Cell} (h : c ∈ cellsOf a bs) : a ≤ c.1 ∧ c.1 < a + bs.length ∧ c.2 ≠ 0 := by
  induction bs generalizing a with
  | nil => simp [cellsOf] at h
  | cons b bs ih =>
    simp only [cellsOf] at h
    simp only [List.length_cons]
    split at h
    · have := ih h; exact ⟨by omega, by omega, this.2.2⟩
    · rcases List.mem_cons.mp h with rfl | h
      · refine ⟨le_refl _, ?_, by assumption⟩; simp
      · have := ih h; refine ⟨by omega, by omega, this.2.2⟩

/-- The cells of a run of bytes are canonical. -/
theorem cellsOf_pairwise (a : Nat) (bs : List Byte) : (cellsOf a bs).Pairwise (fun a b => a.1 < b.1) := by
  induction bs generalizing a with
  | nil => exact List.Pairwise.nil
  | cons b bs ih =>
    simp only [cellsOf]
    split
    · exact ih _
    · refine List.Pairwise.cons ?_ (ih _)
      intro c hc
      have := (mem_cellsOf hc).1
      show a < c.1
      omega

/-- A write keeps the canonical form. -/
theorem cellsWf_write {cs : List Host.Cell} (h : cellsWf cs = true) (a : Nat) (bs : List Byte) : cellsWf (cellWrite cs a bs) = true := by
  rw [cellsWf_iff] at h ⊢
  unfold cellWrite
  refine ⟨?_, ?_⟩
  · rw [List.pairwise_append, List.pairwise_append]
    refine ⟨⟨h.1.filter _, cellsOf_pairwise a bs, ?_⟩, h.1.filter _, ?_⟩
    · intro x hx y hy
      have h1 := (List.mem_filter.mp hx).2
      have h2 := (mem_cellsOf hy).1
      simp only [decide_eq_true_eq] at h1
      omega
    · intro x hx y hy
      have h2 := (List.mem_filter.mp hy).2
      simp only [decide_eq_true_eq] at h2
      rcases List.mem_append.mp hx with hx | hx
      · have h1 := (List.mem_filter.mp hx).2
        simp only [decide_eq_true_eq] at h1
        omega
      · have h1 := (mem_cellsOf hx).2.1
        omega
  · intro c hc
    rcases List.mem_append.mp hc with hc | hc
    · rcases List.mem_append.mp hc with hc | hc
      · exact h.2 c (List.mem_of_mem_filter hc)
      · exact (mem_cellsOf hc).2.2
    · exact h.2 c (List.mem_of_mem_filter hc)

/-- An erasure keeps the canonical form. -/
theorem cellsWf_erase {cs : List Host.Cell} (h : cellsWf cs = true) (a n : Nat) : cellsWf (cellErase cs a n) = true := by
  rw [cellsWf_iff] at h ⊢
  unfold cellErase
  refine ⟨?_, ?_⟩
  · rw [List.pairwise_append]
    refine ⟨h.1.filter _, h.1.filter _, ?_⟩
    intro x hx y hy
    have h1 := (List.mem_filter.mp hx).2
    have h2 := (List.mem_filter.mp hy).2
    simp only [decide_eq_true_eq] at h1 h2
    omega
  · intro c hc
    rcases List.mem_append.mp hc with hc | hc <;> exact h.2 c (List.mem_of_mem_filter hc)

/-! ### Operations that leave the cells alone -/

@[simp] theorem Memory.hold_cells (m : Memory) (ws : List Nat) : (m.hold ws).cells = m.cells := by
  unfold Memory.hold; split <;> rfl

@[simp] theorem Memory.hold_errs (m : Memory) (ws : List Nat) : (m.hold ws).errs = m.errs := by
  unfold Memory.hold; split <;> rfl

@[simp] theorem Memory.evict_cells (m : Memory) (c : CLine) : (m.evict c).cells = m.cells := by
  unfold Memory.evict; dsimp only; split <;> simp

@[simp] theorem Memory.evict_errs (m : Memory) (c : CLine) : (m.evict c).errs = m.errs := by
  unfold Memory.evict; dsimp only; split <;> simp

@[simp] theorem Memory.touch_cells (m : Memory) (alloc write : Bool) (l : Nat) : (m.touch alloc write l).cells = m.cells := by
  unfold Memory.touch
  split
  · rfl
  · dsimp only; split
    · rfl
    · split <;> simp

@[simp] theorem Memory.touch_errs (m : Memory) (alloc write : Bool) (l : Nat) : (m.touch alloc write l).errs = m.errs := by
  unfold Memory.touch
  split
  · rfl
  · dsimp only; split
    · rfl
    · split <;> simp

/-- Lines touched one after the other leave the cells and the errors alone. -/
theorem Memory.foldl_touch (ls : List Nat) (m : Memory) (f w : Bool) :
    (ls.foldl (fun m l => m.touch f w l) m).cells = m.cells ∧ (ls.foldl (fun m l => m.touch f w l) m).errs = m.errs := by
  induction ls generalizing m with
  | nil => exact ⟨rfl, rfl⟩
  | cons l ls ih => simp only [List.foldl_cons]; rw [(ih _).1, (ih _).2]; simp

@[simp] theorem Memory.access_cells (m : Memory) (cls : Nat) (w : Bool) (a n : Nat) : (m.access cls w a n).cells = m.cells := by
  unfold Memory.access; dsimp only
  split
  · rw [Memory.hold_cells, (Memory.foldl_touch _ _ _ _).1]
  · exact (Memory.foldl_touch _ _ _ _).1

@[simp] theorem Memory.access_errs (m : Memory) (cls : Nat) (w : Bool) (a n : Nat) : (m.access cls w a n).errs = m.errs := by
  unfold Memory.access; dsimp only
  split
  · rw [Memory.hold_errs, (Memory.foldl_touch _ _ _ _).2]
  · exact (Memory.foldl_touch _ _ _ _).2

@[simp] theorem Memory.flush_cells (m : Memory) : m.flush.cells = m.cells := by
  unfold Memory.flush; simp

/-! ### Operations that change the cells keep the canonical form -/

/-- Whole words written. -/
theorem Memory.putWords_wf {m : Memory} (h : m.wf = true) (a : Nat) (bs : List Byte) : (m.putWords a bs).wf = true := cellsWf_write h a bs

/-- A part of a word written. -/
theorem Memory.writeWord_wf {m : Memory} (h : m.wf = true) (wa off : Nat) (bs : List Byte) : (m.writeWord wa off bs).1.wf = true := by
  unfold Memory.writeWord
  split
  · exact Memory.putWords_wf h _ _
  · dsimp only; split
    · exact Memory.putWords_wf h _ _
    · split
      · exact h
      · exact Memory.putWords_wf h _ _

/-- Any run of bytes written. -/
theorem Memory.write_wf {m : Memory} (h : m.wf = true) (a : Nat) (bs : List Byte) : (m.write a bs).1.wf = true := by
  unfold Memory.write
  split
  · exact h
  · dsimp only
    generalize (if a % 32 = 0 then [] else bs.take (32 - a % 32)) = hd
    have h1 : (if hd.isEmpty = true then (m, WriteRes.none) else m.writeWord (a / 32 * 32) (a % 32) hd).1.wf = true := by
      split
      · exact h
      · exact Memory.writeWord_wf h _ _ _
    generalize (if hd.isEmpty = true then (m, WriteRes.none) else m.writeWord (a / 32 * 32) (a % 32) hd) = r1 at h1
    generalize (bs.drop hd.length).take ((bs.drop hd.length).length / 32 * 32) = body
    have h2 : (if body.isEmpty = true then r1.1 else r1.1.putWords (a + hd.length) body).wf = true := by
      split
      · exact h1
      · exact Memory.putWords_wf h1 _ _
    split
    · exact h2
    · exact Memory.writeWord_wf h2 _ _ _

/-- A range poisoned. -/
theorem Memory.poison_wf {m : Memory} (h : m.wf = true) (a n : Nat) : (m.poison a n).wf = true := by
  unfold Memory.poison
  split
  · exact h
  · exact Memory.putWords_wf h _ _

/-- A corrected word written back. -/
theorem Memory.repair_wf {m : Memory} (h : m.wf = true) (wa : Nat) : (m.repair wa).wf = true := by
  unfold Memory.repair
  dsimp only; split
  · exact Memory.putWords_wf h _ _
  · exact h

/-- A word copied to its stand-in. -/
theorem Memory.copyWord_wf {m : Memory} (h : m.wf = true) (wa : Nat) : (m.copyWord wa).wf = true := by
  unfold Memory.copyWord
  split
  · exact Memory.putWords_wf h _ _
  · exact Memory.repair_wf h _

/-- An access. -/
theorem Memory.access_wf {m : Memory} (h : m.wf = true) (cls : Nat) (w : Bool) (a n : Nat) : (m.access cls w a n).wf = true := by
  unfold Memory.wf; rw [Memory.access_cells]; exact h

/-- Check bursts used leave the bytes alone. -/
@[simp] theorem Memory.useBurst_cells (c : Nat) (m : Memory) (l : Nat) : (Memory.useBurst c m l).cells = m.cells := rfl
@[simp] theorem Memory.useBurst_errs (c : Nat) (m : Memory) (l : Nat) : (Memory.useBurst c m l).errs = m.errs := rfl

theorem Memory.foldl_useBurst (c : Nat) (ls : List Nat) (m : Memory) :
    (ls.foldl (Memory.useBurst c) m).cells = m.cells ∧ (ls.foldl (Memory.useBurst c) m).errs = m.errs := by
  induction ls generalizing m with
  | nil => exact ⟨rfl, rfl⟩
  | cons l ls ih => simp only [List.foldl_cons]; rw [(ih _).1, (ih _).2]; simp

@[simp] theorem State.useBursts_cells (s : State) (ls : List Nat) : (s.useBursts ls).mem.cells = s.mem.cells := (Memory.foldl_useBurst _ _ _).1
@[simp] theorem State.useBursts_errs (s : State) (ls : List Nat) : (s.useBursts ls).mem.errs = s.mem.errs := (Memory.foldl_useBurst _ _ _).2

/-- An access by a command leaves the bytes alone. -/
@[simp] theorem State.access_cells (s : State) (cls : Nat) (w : Bool) (a n : Nat) : (s.access cls w a n).mem.cells = s.mem.cells := by
  unfold State.access; rw [State.useBursts_cells]; simp
@[simp] theorem State.access_errs (s : State) (cls : Nat) (w : Bool) (a n : Nat) : (s.access cls w a n).mem.errs = s.mem.errs := by
  unfold State.access; rw [State.useBursts_errs]; simp

theorem State.access_wf {s : State} (h : s.mem.wf = true) (cls : Nat) (w : Bool) (a n : Nat) : (s.access cls w a n).mem.wf = true := by
  unfold Memory.wf; rw [State.access_cells]; exact h

/-- A new cache split. -/
theorem Memory.split_wf {m : Memory} (h : m.wf = true) (d : Nat) : (m.split d).wf = true := by
  unfold Memory.wf Memory.split
  dsimp only; split
  · exact h
  · exact cellsWf_erase h _ _

/-- The loss of power. -/
theorem Memory.powerLost_wf {m : Memory} (h : m.wf = true) : m.powerLost.wf = true := cellsWf_filter _ h

/-- Memory at reset is in canonical form. -/
theorem Memory.reset_wf : State.reset.mem.wf = true := rfl

/-- A store keeps the canonical form. -/
theorem State.store_mem_cells (s : State) (cls a : Nat) (bs : List Byte) :
    (({ s with mem := (s.mem.write a bs).1 } : State).access cls true a bs.length).mem.cells = (s.mem.write a bs).1.cells := by
  simp

end Sys2Proof.Machine
end

