-- ==== Sys2Proof/Laws/State.lean ====
section
/-! SUPPORT. What each named update of the state leaves alone: one lemma for each field that it does not change. -/
namespace Sys2Proof.Machine

/-! ### State.setStage changes queues alone -/

@[simp] theorem State.setStage_pending (s : State) (id : Nat) (st : Stage) : (s.setStage id st).pending = s.pending := rfl
@[simp] theorem State.setStage_plans (s : State) (id : Nat) (st : Stage) : (s.setStage id st).plans = s.plans := rfl
@[simp] theorem State.setStage_graph (s : State) (id : Nat) (st : Stage) : (s.setStage id st).graph = s.graph := rfl
@[simp] theorem State.setStage_scatters (s : State) (id : Nat) (st : Stage) : (s.setStage id st).scatters = s.scatters := rfl
@[simp] theorem State.setStage_matrix (s : State) (id : Nat) (st : Stage) : (s.setStage id st).matrix = s.matrix := rfl
@[simp] theorem State.setStage_num (s : State) (id : Nat) (st : Stage) : (s.setStage id st).num = s.num := rfl
@[simp] theorem State.setStage_vec (s : State) (id : Nat) (st : Stage) : (s.setStage id st).vec = s.vec := rfl
@[simp] theorem State.setStage_embed (s : State) (id : Nat) (st : Stage) : (s.setStage id st).embed = s.embed := rfl
@[simp] theorem State.setStage_update (s : State) (id : Nat) (st : Stage) : (s.setStage id st).update = s.update := rfl
@[simp] theorem State.setStage_link (s : State) (id : Nat) (st : Stage) : (s.setStage id st).link = s.link := rfl
@[simp] theorem State.setStage_coll (s : State) (id : Nat) (st : Stage) : (s.setStage id st).coll = s.coll := rfl
@[simp] theorem State.setStage_halt (s : State) (id : Nat) (st : Stage) : (s.setStage id st).halt = s.halt := rfl
@[simp] theorem State.setStage_gddr (s : State) (id : Nat) (st : Stage) : (s.setStage id st).gddr = s.gddr := rfl
@[simp] theorem State.setStage_mem (s : State) (id : Nat) (st : Stage) : (s.setStage id st).mem = s.mem := rfl
@[simp] theorem State.setStage_ridges (s : State) (id : Nat) (st : Stage) : (s.setStage id st).ridges = s.ridges := rfl
@[simp] theorem State.setStage_power (s : State) (id : Nat) (st : Stage) : (s.setStage id st).power = s.power := rfl
@[simp] theorem State.setStage_health (s : State) (id : Nat) (st : Stage) : (s.setStage id st).health = s.health := rfl
@[simp] theorem State.setStage_streams (s : State) (id : Nat) (st : Stage) : (s.setStage id st).streams = s.streams := rfl
@[simp] theorem State.setStage_fuses (s : State) (id : Nat) (st : Stage) : (s.setStage id st).fuses = s.fuses := rfl
@[simp] theorem State.setStage_flash (s : State) (id : Nat) (st : Stage) : (s.setStage id st).flash = s.flash := rfl
@[simp] theorem State.setStage_boot (s : State) (id : Nat) (st : Stage) : (s.setStage id st).boot = s.boot := rfl
@[simp] theorem State.setStage_sec (s : State) (id : Nat) (st : Stage) : (s.setStage id st).sec = s.sec := rfl
@[simp] theorem State.setStage_host (s : State) (id : Nat) (st : Stage) : (s.setStage id st).host = s.host := rfl
@[simp] theorem State.setStage_mgt (s : State) (id : Nat) (st : Stage) : (s.setStage id st).mgt = s.mgt := rfl
@[simp] theorem State.setStage_trip (s : State) (id : Nat) (st : Stage) : (s.setStage id st).trip = s.trip := rfl
@[simp] theorem State.setStage_out (s : State) (id : Nat) (st : Stage) : (s.setStage id st).out = s.out := rfl
@[simp] theorem State.setStage_free (s : State) (id : Nat) (st : Stage) : (s.setStage id st).free = s.free := rfl

/-! ### State.endCmd changes queues alone -/

@[simp] theorem State.endCmd_pending (s : State) (id : Nat) (r : Result) : (s.endCmd id r).pending = s.pending := rfl
@[simp] theorem State.endCmd_plans (s : State) (id : Nat) (r : Result) : (s.endCmd id r).plans = s.plans := rfl
@[simp] theorem State.endCmd_graph (s : State) (id : Nat) (r : Result) : (s.endCmd id r).graph = s.graph := rfl
@[simp] theorem State.endCmd_scatters (s : State) (id : Nat) (r : Result) : (s.endCmd id r).scatters = s.scatters := rfl
@[simp] theorem State.endCmd_matrix (s : State) (id : Nat) (r : Result) : (s.endCmd id r).matrix = s.matrix := rfl
@[simp] theorem State.endCmd_num (s : State) (id : Nat) (r : Result) : (s.endCmd id r).num = s.num := rfl
@[simp] theorem State.endCmd_vec (s : State) (id : Nat) (r : Result) : (s.endCmd id r).vec = s.vec := rfl
@[simp] theorem State.endCmd_embed (s : State) (id : Nat) (r : Result) : (s.endCmd id r).embed = s.embed := rfl
@[simp] theorem State.endCmd_update (s : State) (id : Nat) (r : Result) : (s.endCmd id r).update = s.update := rfl
@[simp] theorem State.endCmd_link (s : State) (id : Nat) (r : Result) : (s.endCmd id r).link = s.link := rfl
@[simp] theorem State.endCmd_coll (s : State) (id : Nat) (r : Result) : (s.endCmd id r).coll = s.coll := rfl
@[simp] theorem State.endCmd_halt (s : State) (id : Nat) (r : Result) : (s.endCmd id r).halt = s.halt := rfl
@[simp] theorem State.endCmd_gddr (s : State) (id : Nat) (r : Result) : (s.endCmd id r).gddr = s.gddr := rfl
@[simp] theorem State.endCmd_mem (s : State) (id : Nat) (r : Result) : (s.endCmd id r).mem = s.mem := rfl
@[simp] theorem State.endCmd_ridges (s : State) (id : Nat) (r : Result) : (s.endCmd id r).ridges = s.ridges := rfl
@[simp] theorem State.endCmd_power (s : State) (id : Nat) (r : Result) : (s.endCmd id r).power = s.power := rfl
@[simp] theorem State.endCmd_health (s : State) (id : Nat) (r : Result) : (s.endCmd id r).health = s.health := rfl
@[simp] theorem State.endCmd_streams (s : State) (id : Nat) (r : Result) : (s.endCmd id r).streams = s.streams := rfl
@[simp] theorem State.endCmd_fuses (s : State) (id : Nat) (r : Result) : (s.endCmd id r).fuses = s.fuses := rfl
@[simp] theorem State.endCmd_flash (s : State) (id : Nat) (r : Result) : (s.endCmd id r).flash = s.flash := rfl
@[simp] theorem State.endCmd_boot (s : State) (id : Nat) (r : Result) : (s.endCmd id r).boot = s.boot := rfl
@[simp] theorem State.endCmd_sec (s : State) (id : Nat) (r : Result) : (s.endCmd id r).sec = s.sec := rfl
@[simp] theorem State.endCmd_host (s : State) (id : Nat) (r : Result) : (s.endCmd id r).host = s.host := rfl
@[simp] theorem State.endCmd_mgt (s : State) (id : Nat) (r : Result) : (s.endCmd id r).mgt = s.mgt := rfl
@[simp] theorem State.endCmd_trip (s : State) (id : Nat) (r : Result) : (s.endCmd id r).trip = s.trip := rfl
@[simp] theorem State.endCmd_out (s : State) (id : Nat) (r : Result) : (s.endCmd id r).out = s.out := rfl
@[simp] theorem State.endCmd_free (s : State) (id : Nat) (r : Result) : (s.endCmd id r).free = s.free := rfl

/-! ### State.dropCmd changes queues alone -/

@[simp] theorem State.dropCmd_pending (s : State) (id : Nat) : (s.dropCmd id).pending = s.pending := rfl
@[simp] theorem State.dropCmd_plans (s : State) (id : Nat) : (s.dropCmd id).plans = s.plans := rfl
@[simp] theorem State.dropCmd_graph (s : State) (id : Nat) : (s.dropCmd id).graph = s.graph := rfl
@[simp] theorem State.dropCmd_scatters (s : State) (id : Nat) : (s.dropCmd id).scatters = s.scatters := rfl
@[simp] theorem State.dropCmd_matrix (s : State) (id : Nat) : (s.dropCmd id).matrix = s.matrix := rfl
@[simp] theorem State.dropCmd_num (s : State) (id : Nat) : (s.dropCmd id).num = s.num := rfl
@[simp] theorem State.dropCmd_vec (s : State) (id : Nat) : (s.dropCmd id).vec = s.vec := rfl
@[simp] theorem State.dropCmd_embed (s : State) (id : Nat) : (s.dropCmd id).embed = s.embed := rfl
@[simp] theorem State.dropCmd_update (s : State) (id : Nat) : (s.dropCmd id).update = s.update := rfl
@[simp] theorem State.dropCmd_link (s : State) (id : Nat) : (s.dropCmd id).link = s.link := rfl
@[simp] theorem State.dropCmd_coll (s : State) (id : Nat) : (s.dropCmd id).coll = s.coll := rfl
@[simp] theorem State.dropCmd_halt (s : State) (id : Nat) : (s.dropCmd id).halt = s.halt := rfl
@[simp] theorem State.dropCmd_gddr (s : State) (id : Nat) : (s.dropCmd id).gddr = s.gddr := rfl
@[simp] theorem State.dropCmd_mem (s : State) (id : Nat) : (s.dropCmd id).mem = s.mem := rfl
@[simp] theorem State.dropCmd_ridges (s : State) (id : Nat) : (s.dropCmd id).ridges = s.ridges := rfl
@[simp] theorem State.dropCmd_power (s : State) (id : Nat) : (s.dropCmd id).power = s.power := rfl
@[simp] theorem State.dropCmd_health (s : State) (id : Nat) : (s.dropCmd id).health = s.health := rfl
@[simp] theorem State.dropCmd_streams (s : State) (id : Nat) : (s.dropCmd id).streams = s.streams := rfl
@[simp] theorem State.dropCmd_fuses (s : State) (id : Nat) : (s.dropCmd id).fuses = s.fuses := rfl
@[simp] theorem State.dropCmd_flash (s : State) (id : Nat) : (s.dropCmd id).flash = s.flash := rfl
@[simp] theorem State.dropCmd_boot (s : State) (id : Nat) : (s.dropCmd id).boot = s.boot := rfl
@[simp] theorem State.dropCmd_sec (s : State) (id : Nat) : (s.dropCmd id).sec = s.sec := rfl
@[simp] theorem State.dropCmd_host (s : State) (id : Nat) : (s.dropCmd id).host = s.host := rfl
@[simp] theorem State.dropCmd_mgt (s : State) (id : Nat) : (s.dropCmd id).mgt = s.mgt := rfl
@[simp] theorem State.dropCmd_trip (s : State) (id : Nat) : (s.dropCmd id).trip = s.trip := rfl
@[simp] theorem State.dropCmd_out (s : State) (id : Nat) : (s.dropCmd id).out = s.out := rfl
@[simp] theorem State.dropCmd_free (s : State) (id : Nat) : (s.dropCmd id).free = s.free := rfl

/-! ### State.updSub changes queues alone -/

@[simp] theorem State.updSub_pending (s : State) (q : Nat) (f : SubQueue → SubQueue) : (s.updSub q f).pending = s.pending := rfl
@[simp] theorem State.updSub_plans (s : State) (q : Nat) (f : SubQueue → SubQueue) : (s.updSub q f).plans = s.plans := rfl
@[simp] theorem State.updSub_graph (s : State) (q : Nat) (f : SubQueue → SubQueue) : (s.updSub q f).graph = s.graph := rfl
@[simp] theorem State.updSub_scatters (s : State) (q : Nat) (f : SubQueue → SubQueue) : (s.updSub q f).scatters = s.scatters := rfl
@[simp] theorem State.updSub_matrix (s : State) (q : Nat) (f : SubQueue → SubQueue) : (s.updSub q f).matrix = s.matrix := rfl
@[simp] theorem State.updSub_num (s : State) (q : Nat) (f : SubQueue → SubQueue) : (s.updSub q f).num = s.num := rfl
@[simp] theorem State.updSub_vec (s : State) (q : Nat) (f : SubQueue → SubQueue) : (s.updSub q f).vec = s.vec := rfl
@[simp] theorem State.updSub_embed (s : State) (q : Nat) (f : SubQueue → SubQueue) : (s.updSub q f).embed = s.embed := rfl
@[simp] theorem State.updSub_update (s : State) (q : Nat) (f : SubQueue → SubQueue) : (s.updSub q f).update = s.update := rfl
@[simp] theorem State.updSub_link (s : State) (q : Nat) (f : SubQueue → SubQueue) : (s.updSub q f).link = s.link := rfl
@[simp] theorem State.updSub_coll (s : State) (q : Nat) (f : SubQueue → SubQueue) : (s.updSub q f).coll = s.coll := rfl
@[simp] theorem State.updSub_halt (s : State) (q : Nat) (f : SubQueue → SubQueue) : (s.updSub q f).halt = s.halt := rfl
@[simp] theorem State.updSub_gddr (s : State) (q : Nat) (f : SubQueue → SubQueue) : (s.updSub q f).gddr = s.gddr := rfl
@[simp] theorem State.updSub_mem (s : State) (q : Nat) (f : SubQueue → SubQueue) : (s.updSub q f).mem = s.mem := rfl
@[simp] theorem State.updSub_ridges (s : State) (q : Nat) (f : SubQueue → SubQueue) : (s.updSub q f).ridges = s.ridges := rfl
@[simp] theorem State.updSub_power (s : State) (q : Nat) (f : SubQueue → SubQueue) : (s.updSub q f).power = s.power := rfl
@[simp] theorem State.updSub_health (s : State) (q : Nat) (f : SubQueue → SubQueue) : (s.updSub q f).health = s.health := rfl
@[simp] theorem State.updSub_streams (s : State) (q : Nat) (f : SubQueue → SubQueue) : (s.updSub q f).streams = s.streams := rfl
@[simp] theorem State.updSub_fuses (s : State) (q : Nat) (f : SubQueue → SubQueue) : (s.updSub q f).fuses = s.fuses := rfl
@[simp] theorem State.updSub_flash (s : State) (q : Nat) (f : SubQueue → SubQueue) : (s.updSub q f).flash = s.flash := rfl
@[simp] theorem State.updSub_boot (s : State) (q : Nat) (f : SubQueue → SubQueue) : (s.updSub q f).boot = s.boot := rfl
@[simp] theorem State.updSub_sec (s : State) (q : Nat) (f : SubQueue → SubQueue) : (s.updSub q f).sec = s.sec := rfl
@[simp] theorem State.updSub_host (s : State) (q : Nat) (f : SubQueue → SubQueue) : (s.updSub q f).host = s.host := rfl
@[simp] theorem State.updSub_mgt (s : State) (q : Nat) (f : SubQueue → SubQueue) : (s.updSub q f).mgt = s.mgt := rfl
@[simp] theorem State.updSub_trip (s : State) (q : Nat) (f : SubQueue → SubQueue) : (s.updSub q f).trip = s.trip := rfl
@[simp] theorem State.updSub_out (s : State) (q : Nat) (f : SubQueue → SubQueue) : (s.updSub q f).out = s.out := rfl
@[simp] theorem State.updSub_free (s : State) (q : Nat) (f : SubQueue → SubQueue) : (s.updSub q f).free = s.free := rfl

/-! ### State.updResp changes queues alone -/

@[simp] theorem State.updResp_pending (s : State) (q : Nat) (f : RespQueue → RespQueue) : (s.updResp q f).pending = s.pending := rfl
@[simp] theorem State.updResp_plans (s : State) (q : Nat) (f : RespQueue → RespQueue) : (s.updResp q f).plans = s.plans := rfl
@[simp] theorem State.updResp_graph (s : State) (q : Nat) (f : RespQueue → RespQueue) : (s.updResp q f).graph = s.graph := rfl
@[simp] theorem State.updResp_scatters (s : State) (q : Nat) (f : RespQueue → RespQueue) : (s.updResp q f).scatters = s.scatters := rfl
@[simp] theorem State.updResp_matrix (s : State) (q : Nat) (f : RespQueue → RespQueue) : (s.updResp q f).matrix = s.matrix := rfl
@[simp] theorem State.updResp_num (s : State) (q : Nat) (f : RespQueue → RespQueue) : (s.updResp q f).num = s.num := rfl
@[simp] theorem State.updResp_vec (s : State) (q : Nat) (f : RespQueue → RespQueue) : (s.updResp q f).vec = s.vec := rfl
@[simp] theorem State.updResp_embed (s : State) (q : Nat) (f : RespQueue → RespQueue) : (s.updResp q f).embed = s.embed := rfl
@[simp] theorem State.updResp_update (s : State) (q : Nat) (f : RespQueue → RespQueue) : (s.updResp q f).update = s.update := rfl
@[simp] theorem State.updResp_link (s : State) (q : Nat) (f : RespQueue → RespQueue) : (s.updResp q f).link = s.link := rfl
@[simp] theorem State.updResp_coll (s : State) (q : Nat) (f : RespQueue → RespQueue) : (s.updResp q f).coll = s.coll := rfl
@[simp] theorem State.updResp_halt (s : State) (q : Nat) (f : RespQueue → RespQueue) : (s.updResp q f).halt = s.halt := rfl
@[simp] theorem State.updResp_gddr (s : State) (q : Nat) (f : RespQueue → RespQueue) : (s.updResp q f).gddr = s.gddr := rfl
@[simp] theorem State.updResp_mem (s : State) (q : Nat) (f : RespQueue → RespQueue) : (s.updResp q f).mem = s.mem := rfl
@[simp] theorem State.updResp_ridges (s : State) (q : Nat) (f : RespQueue → RespQueue) : (s.updResp q f).ridges = s.ridges := rfl
@[simp] theorem State.updResp_power (s : State) (q : Nat) (f : RespQueue → RespQueue) : (s.updResp q f).power = s.power := rfl
@[simp] theorem State.updResp_health (s : State) (q : Nat) (f : RespQueue → RespQueue) : (s.updResp q f).health = s.health := rfl
@[simp] theorem State.updResp_streams (s : State) (q : Nat) (f : RespQueue → RespQueue) : (s.updResp q f).streams = s.streams := rfl
@[simp] theorem State.updResp_fuses (s : State) (q : Nat) (f : RespQueue → RespQueue) : (s.updResp q f).fuses = s.fuses := rfl
@[simp] theorem State.updResp_flash (s : State) (q : Nat) (f : RespQueue → RespQueue) : (s.updResp q f).flash = s.flash := rfl
@[simp] theorem State.updResp_boot (s : State) (q : Nat) (f : RespQueue → RespQueue) : (s.updResp q f).boot = s.boot := rfl
@[simp] theorem State.updResp_sec (s : State) (q : Nat) (f : RespQueue → RespQueue) : (s.updResp q f).sec = s.sec := rfl
@[simp] theorem State.updResp_host (s : State) (q : Nat) (f : RespQueue → RespQueue) : (s.updResp q f).host = s.host := rfl
@[simp] theorem State.updResp_mgt (s : State) (q : Nat) (f : RespQueue → RespQueue) : (s.updResp q f).mgt = s.mgt := rfl
@[simp] theorem State.updResp_trip (s : State) (q : Nat) (f : RespQueue → RespQueue) : (s.updResp q f).trip = s.trip := rfl
@[simp] theorem State.updResp_out (s : State) (q : Nat) (f : RespQueue → RespQueue) : (s.updResp q f).out = s.out := rfl
@[simp] theorem State.updResp_free (s : State) (q : Nat) (f : RespQueue → RespQueue) : (s.updResp q f).free = s.free := rfl

/-! ### State.queueErr changes queues alone -/

@[simp] theorem State.queueErr_pending (s : State) (q : Nat) (f : QueueErr → QueueErr) : (s.queueErr q f).pending = s.pending := rfl
@[simp] theorem State.queueErr_plans (s : State) (q : Nat) (f : QueueErr → QueueErr) : (s.queueErr q f).plans = s.plans := rfl
@[simp] theorem State.queueErr_graph (s : State) (q : Nat) (f : QueueErr → QueueErr) : (s.queueErr q f).graph = s.graph := rfl
@[simp] theorem State.queueErr_scatters (s : State) (q : Nat) (f : QueueErr → QueueErr) : (s.queueErr q f).scatters = s.scatters := rfl
@[simp] theorem State.queueErr_matrix (s : State) (q : Nat) (f : QueueErr → QueueErr) : (s.queueErr q f).matrix = s.matrix := rfl
@[simp] theorem State.queueErr_num (s : State) (q : Nat) (f : QueueErr → QueueErr) : (s.queueErr q f).num = s.num := rfl
@[simp] theorem State.queueErr_vec (s : State) (q : Nat) (f : QueueErr → QueueErr) : (s.queueErr q f).vec = s.vec := rfl
@[simp] theorem State.queueErr_embed (s : State) (q : Nat) (f : QueueErr → QueueErr) : (s.queueErr q f).embed = s.embed := rfl
@[simp] theorem State.queueErr_update (s : State) (q : Nat) (f : QueueErr → QueueErr) : (s.queueErr q f).update = s.update := rfl
@[simp] theorem State.queueErr_link (s : State) (q : Nat) (f : QueueErr → QueueErr) : (s.queueErr q f).link = s.link := rfl
@[simp] theorem State.queueErr_coll (s : State) (q : Nat) (f : QueueErr → QueueErr) : (s.queueErr q f).coll = s.coll := rfl
@[simp] theorem State.queueErr_halt (s : State) (q : Nat) (f : QueueErr → QueueErr) : (s.queueErr q f).halt = s.halt := rfl
@[simp] theorem State.queueErr_gddr (s : State) (q : Nat) (f : QueueErr → QueueErr) : (s.queueErr q f).gddr = s.gddr := rfl
@[simp] theorem State.queueErr_mem (s : State) (q : Nat) (f : QueueErr → QueueErr) : (s.queueErr q f).mem = s.mem := rfl
@[simp] theorem State.queueErr_ridges (s : State) (q : Nat) (f : QueueErr → QueueErr) : (s.queueErr q f).ridges = s.ridges := rfl
@[simp] theorem State.queueErr_power (s : State) (q : Nat) (f : QueueErr → QueueErr) : (s.queueErr q f).power = s.power := rfl
@[simp] theorem State.queueErr_health (s : State) (q : Nat) (f : QueueErr → QueueErr) : (s.queueErr q f).health = s.health := rfl
@[simp] theorem State.queueErr_streams (s : State) (q : Nat) (f : QueueErr → QueueErr) : (s.queueErr q f).streams = s.streams := rfl
@[simp] theorem State.queueErr_fuses (s : State) (q : Nat) (f : QueueErr → QueueErr) : (s.queueErr q f).fuses = s.fuses := rfl
@[simp] theorem State.queueErr_flash (s : State) (q : Nat) (f : QueueErr → QueueErr) : (s.queueErr q f).flash = s.flash := rfl
@[simp] theorem State.queueErr_boot (s : State) (q : Nat) (f : QueueErr → QueueErr) : (s.queueErr q f).boot = s.boot := rfl
@[simp] theorem State.queueErr_sec (s : State) (q : Nat) (f : QueueErr → QueueErr) : (s.queueErr q f).sec = s.sec := rfl
@[simp] theorem State.queueErr_host (s : State) (q : Nat) (f : QueueErr → QueueErr) : (s.queueErr q f).host = s.host := rfl
@[simp] theorem State.queueErr_mgt (s : State) (q : Nat) (f : QueueErr → QueueErr) : (s.queueErr q f).mgt = s.mgt := rfl
@[simp] theorem State.queueErr_trip (s : State) (q : Nat) (f : QueueErr → QueueErr) : (s.queueErr q f).trip = s.trip := rfl
@[simp] theorem State.queueErr_out (s : State) (q : Nat) (f : QueueErr → QueueErr) : (s.queueErr q f).out = s.out := rfl
@[simp] theorem State.queueErr_free (s : State) (q : Nat) (f : QueueErr → QueueErr) : (s.queueErr q f).free = s.free := rfl

/-! ### State.send changes out alone -/

@[simp] theorem State.send_pending (s : State) (m : Sent) : (s.send m).pending = s.pending := rfl
@[simp] theorem State.send_queues (s : State) (m : Sent) : (s.send m).queues = s.queues := rfl
@[simp] theorem State.send_plans (s : State) (m : Sent) : (s.send m).plans = s.plans := rfl
@[simp] theorem State.send_graph (s : State) (m : Sent) : (s.send m).graph = s.graph := rfl
@[simp] theorem State.send_scatters (s : State) (m : Sent) : (s.send m).scatters = s.scatters := rfl
@[simp] theorem State.send_matrix (s : State) (m : Sent) : (s.send m).matrix = s.matrix := rfl
@[simp] theorem State.send_num (s : State) (m : Sent) : (s.send m).num = s.num := rfl
@[simp] theorem State.send_vec (s : State) (m : Sent) : (s.send m).vec = s.vec := rfl
@[simp] theorem State.send_embed (s : State) (m : Sent) : (s.send m).embed = s.embed := rfl
@[simp] theorem State.send_update (s : State) (m : Sent) : (s.send m).update = s.update := rfl
@[simp] theorem State.send_link (s : State) (m : Sent) : (s.send m).link = s.link := rfl
@[simp] theorem State.send_coll (s : State) (m : Sent) : (s.send m).coll = s.coll := rfl
@[simp] theorem State.send_halt (s : State) (m : Sent) : (s.send m).halt = s.halt := rfl
@[simp] theorem State.send_gddr (s : State) (m : Sent) : (s.send m).gddr = s.gddr := rfl
@[simp] theorem State.send_mem (s : State) (m : Sent) : (s.send m).mem = s.mem := rfl
@[simp] theorem State.send_ridges (s : State) (m : Sent) : (s.send m).ridges = s.ridges := rfl
@[simp] theorem State.send_power (s : State) (m : Sent) : (s.send m).power = s.power := rfl
@[simp] theorem State.send_health (s : State) (m : Sent) : (s.send m).health = s.health := rfl
@[simp] theorem State.send_streams (s : State) (m : Sent) : (s.send m).streams = s.streams := rfl
@[simp] theorem State.send_fuses (s : State) (m : Sent) : (s.send m).fuses = s.fuses := rfl
@[simp] theorem State.send_flash (s : State) (m : Sent) : (s.send m).flash = s.flash := rfl
@[simp] theorem State.send_boot (s : State) (m : Sent) : (s.send m).boot = s.boot := rfl
@[simp] theorem State.send_sec (s : State) (m : Sent) : (s.send m).sec = s.sec := rfl
@[simp] theorem State.send_host (s : State) (m : Sent) : (s.send m).host = s.host := rfl
@[simp] theorem State.send_mgt (s : State) (m : Sent) : (s.send m).mgt = s.mgt := rfl
@[simp] theorem State.send_trip (s : State) (m : Sent) : (s.send m).trip = s.trip := rfl
@[simp] theorem State.send_free (s : State) (m : Sent) : (s.send m).free = s.free := rfl

/-! ### State.signal changes host alone -/

@[simp] theorem State.signal_pending (s : State) (v : Nat) : (s.signal v).pending = s.pending := rfl
@[simp] theorem State.signal_queues (s : State) (v : Nat) : (s.signal v).queues = s.queues := rfl
@[simp] theorem State.signal_plans (s : State) (v : Nat) : (s.signal v).plans = s.plans := rfl
@[simp] theorem State.signal_graph (s : State) (v : Nat) : (s.signal v).graph = s.graph := rfl
@[simp] theorem State.signal_scatters (s : State) (v : Nat) : (s.signal v).scatters = s.scatters := rfl
@[simp] theorem State.signal_matrix (s : State) (v : Nat) : (s.signal v).matrix = s.matrix := rfl
@[simp] theorem State.signal_num (s : State) (v : Nat) : (s.signal v).num = s.num := rfl
@[simp] theorem State.signal_vec (s : State) (v : Nat) : (s.signal v).vec = s.vec := rfl
@[simp] theorem State.signal_embed (s : State) (v : Nat) : (s.signal v).embed = s.embed := rfl
@[simp] theorem State.signal_update (s : State) (v : Nat) : (s.signal v).update = s.update := rfl
@[simp] theorem State.signal_link (s : State) (v : Nat) : (s.signal v).link = s.link := rfl
@[simp] theorem State.signal_coll (s : State) (v : Nat) : (s.signal v).coll = s.coll := rfl
@[simp] theorem State.signal_halt (s : State) (v : Nat) : (s.signal v).halt = s.halt := rfl
@[simp] theorem State.signal_gddr (s : State) (v : Nat) : (s.signal v).gddr = s.gddr := rfl
@[simp] theorem State.signal_mem (s : State) (v : Nat) : (s.signal v).mem = s.mem := rfl
@[simp] theorem State.signal_ridges (s : State) (v : Nat) : (s.signal v).ridges = s.ridges := rfl
@[simp] theorem State.signal_power (s : State) (v : Nat) : (s.signal v).power = s.power := rfl
@[simp] theorem State.signal_health (s : State) (v : Nat) : (s.signal v).health = s.health := rfl
@[simp] theorem State.signal_streams (s : State) (v : Nat) : (s.signal v).streams = s.streams := rfl
@[simp] theorem State.signal_fuses (s : State) (v : Nat) : (s.signal v).fuses = s.fuses := rfl
@[simp] theorem State.signal_flash (s : State) (v : Nat) : (s.signal v).flash = s.flash := rfl
@[simp] theorem State.signal_boot (s : State) (v : Nat) : (s.signal v).boot = s.boot := rfl
@[simp] theorem State.signal_sec (s : State) (v : Nat) : (s.signal v).sec = s.sec := rfl
@[simp] theorem State.signal_mgt (s : State) (v : Nat) : (s.signal v).mgt = s.mgt := rfl
@[simp] theorem State.signal_trip (s : State) (v : Nat) : (s.signal v).trip = s.trip := rfl
@[simp] theorem State.signal_out (s : State) (v : Nat) : (s.signal v).out = s.out := rfl
@[simp] theorem State.signal_free (s : State) (v : Nat) : (s.signal v).free = s.free := rfl

/-! ### State.hostErr changes host alone -/

@[simp] theorem State.hostErr_pending (s : State) (f : HostIf → HostIf) : (s.hostErr f).pending = s.pending := rfl
@[simp] theorem State.hostErr_queues (s : State) (f : HostIf → HostIf) : (s.hostErr f).queues = s.queues := rfl
@[simp] theorem State.hostErr_plans (s : State) (f : HostIf → HostIf) : (s.hostErr f).plans = s.plans := rfl
@[simp] theorem State.hostErr_graph (s : State) (f : HostIf → HostIf) : (s.hostErr f).graph = s.graph := rfl
@[simp] theorem State.hostErr_scatters (s : State) (f : HostIf → HostIf) : (s.hostErr f).scatters = s.scatters := rfl
@[simp] theorem State.hostErr_matrix (s : State) (f : HostIf → HostIf) : (s.hostErr f).matrix = s.matrix := rfl
@[simp] theorem State.hostErr_num (s : State) (f : HostIf → HostIf) : (s.hostErr f).num = s.num := rfl
@[simp] theorem State.hostErr_vec (s : State) (f : HostIf → HostIf) : (s.hostErr f).vec = s.vec := rfl
@[simp] theorem State.hostErr_embed (s : State) (f : HostIf → HostIf) : (s.hostErr f).embed = s.embed := rfl
@[simp] theorem State.hostErr_update (s : State) (f : HostIf → HostIf) : (s.hostErr f).update = s.update := rfl
@[simp] theorem State.hostErr_link (s : State) (f : HostIf → HostIf) : (s.hostErr f).link = s.link := rfl
@[simp] theorem State.hostErr_coll (s : State) (f : HostIf → HostIf) : (s.hostErr f).coll = s.coll := rfl
@[simp] theorem State.hostErr_halt (s : State) (f : HostIf → HostIf) : (s.hostErr f).halt = s.halt := rfl
@[simp] theorem State.hostErr_gddr (s : State) (f : HostIf → HostIf) : (s.hostErr f).gddr = s.gddr := rfl
@[simp] theorem State.hostErr_mem (s : State) (f : HostIf → HostIf) : (s.hostErr f).mem = s.mem := rfl
@[simp] theorem State.hostErr_ridges (s : State) (f : HostIf → HostIf) : (s.hostErr f).ridges = s.ridges := rfl
@[simp] theorem State.hostErr_power (s : State) (f : HostIf → HostIf) : (s.hostErr f).power = s.power := rfl
@[simp] theorem State.hostErr_health (s : State) (f : HostIf → HostIf) : (s.hostErr f).health = s.health := rfl
@[simp] theorem State.hostErr_streams (s : State) (f : HostIf → HostIf) : (s.hostErr f).streams = s.streams := rfl
@[simp] theorem State.hostErr_fuses (s : State) (f : HostIf → HostIf) : (s.hostErr f).fuses = s.fuses := rfl
@[simp] theorem State.hostErr_flash (s : State) (f : HostIf → HostIf) : (s.hostErr f).flash = s.flash := rfl
@[simp] theorem State.hostErr_boot (s : State) (f : HostIf → HostIf) : (s.hostErr f).boot = s.boot := rfl
@[simp] theorem State.hostErr_sec (s : State) (f : HostIf → HostIf) : (s.hostErr f).sec = s.sec := rfl
@[simp] theorem State.hostErr_mgt (s : State) (f : HostIf → HostIf) : (s.hostErr f).mgt = s.mgt := rfl
@[simp] theorem State.hostErr_trip (s : State) (f : HostIf → HostIf) : (s.hostErr f).trip = s.trip := rfl
@[simp] theorem State.hostErr_out (s : State) (f : HostIf → HostIf) : (s.hostErr f).out = s.out := rfl
@[simp] theorem State.hostErr_free (s : State) (f : HostIf → HostIf) : (s.hostErr f).free = s.free := rfl

/-! ### State.answerHost changes host alone -/

@[simp] theorem State.answerHost_pending (s : State) (bs : List Byte) (ep : Bool) : (s.answerHost bs ep).pending = s.pending := rfl
@[simp] theorem State.answerHost_queues (s : State) (bs : List Byte) (ep : Bool) : (s.answerHost bs ep).queues = s.queues := rfl
@[simp] theorem State.answerHost_plans (s : State) (bs : List Byte) (ep : Bool) : (s.answerHost bs ep).plans = s.plans := rfl
@[simp] theorem State.answerHost_graph (s : State) (bs : List Byte) (ep : Bool) : (s.answerHost bs ep).graph = s.graph := rfl
@[simp] theorem State.answerHost_scatters (s : State) (bs : List Byte) (ep : Bool) : (s.answerHost bs ep).scatters = s.scatters := rfl
@[simp] theorem State.answerHost_matrix (s : State) (bs : List Byte) (ep : Bool) : (s.answerHost bs ep).matrix = s.matrix := rfl
@[simp] theorem State.answerHost_num (s : State) (bs : List Byte) (ep : Bool) : (s.answerHost bs ep).num = s.num := rfl
@[simp] theorem State.answerHost_vec (s : State) (bs : List Byte) (ep : Bool) : (s.answerHost bs ep).vec = s.vec := rfl
@[simp] theorem State.answerHost_embed (s : State) (bs : List Byte) (ep : Bool) : (s.answerHost bs ep).embed = s.embed := rfl
@[simp] theorem State.answerHost_update (s : State) (bs : List Byte) (ep : Bool) : (s.answerHost bs ep).update = s.update := rfl
@[simp] theorem State.answerHost_link (s : State) (bs : List Byte) (ep : Bool) : (s.answerHost bs ep).link = s.link := rfl
@[simp] theorem State.answerHost_coll (s : State) (bs : List Byte) (ep : Bool) : (s.answerHost bs ep).coll = s.coll := rfl
@[simp] theorem State.answerHost_halt (s : State) (bs : List Byte) (ep : Bool) : (s.answerHost bs ep).halt = s.halt := rfl
@[simp] theorem State.answerHost_gddr (s : State) (bs : List Byte) (ep : Bool) : (s.answerHost bs ep).gddr = s.gddr := rfl
@[simp] theorem State.answerHost_mem (s : State) (bs : List Byte) (ep : Bool) : (s.answerHost bs ep).mem = s.mem := rfl
@[simp] theorem State.answerHost_ridges (s : State) (bs : List Byte) (ep : Bool) : (s.answerHost bs ep).ridges = s.ridges := rfl
@[simp] theorem State.answerHost_power (s : State) (bs : List Byte) (ep : Bool) : (s.answerHost bs ep).power = s.power := rfl
@[simp] theorem State.answerHost_health (s : State) (bs : List Byte) (ep : Bool) : (s.answerHost bs ep).health = s.health := rfl
@[simp] theorem State.answerHost_streams (s : State) (bs : List Byte) (ep : Bool) : (s.answerHost bs ep).streams = s.streams := rfl
@[simp] theorem State.answerHost_fuses (s : State) (bs : List Byte) (ep : Bool) : (s.answerHost bs ep).fuses = s.fuses := rfl
@[simp] theorem State.answerHost_flash (s : State) (bs : List Byte) (ep : Bool) : (s.answerHost bs ep).flash = s.flash := rfl
@[simp] theorem State.answerHost_boot (s : State) (bs : List Byte) (ep : Bool) : (s.answerHost bs ep).boot = s.boot := rfl
@[simp] theorem State.answerHost_sec (s : State) (bs : List Byte) (ep : Bool) : (s.answerHost bs ep).sec = s.sec := rfl
@[simp] theorem State.answerHost_mgt (s : State) (bs : List Byte) (ep : Bool) : (s.answerHost bs ep).mgt = s.mgt := rfl
@[simp] theorem State.answerHost_trip (s : State) (bs : List Byte) (ep : Bool) : (s.answerHost bs ep).trip = s.trip := rfl
@[simp] theorem State.answerHost_out (s : State) (bs : List Byte) (ep : Bool) : (s.answerHost bs ep).out = s.out := rfl
@[simp] theorem State.answerHost_free (s : State) (bs : List Byte) (ep : Bool) : (s.answerHost bs ep).free = s.free := rfl

/-! ### State.mgtAnswer changes mgt alone -/

@[simp] theorem State.mgtAnswer_pending (s : State) (bs : List Byte) : (s.mgtAnswer bs).pending = s.pending := rfl
@[simp] theorem State.mgtAnswer_queues (s : State) (bs : List Byte) : (s.mgtAnswer bs).queues = s.queues := rfl
@[simp] theorem State.mgtAnswer_plans (s : State) (bs : List Byte) : (s.mgtAnswer bs).plans = s.plans := rfl
@[simp] theorem State.mgtAnswer_graph (s : State) (bs : List Byte) : (s.mgtAnswer bs).graph = s.graph := rfl
@[simp] theorem State.mgtAnswer_scatters (s : State) (bs : List Byte) : (s.mgtAnswer bs).scatters = s.scatters := rfl
@[simp] theorem State.mgtAnswer_matrix (s : State) (bs : List Byte) : (s.mgtAnswer bs).matrix = s.matrix := rfl
@[simp] theorem State.mgtAnswer_num (s : State) (bs : List Byte) : (s.mgtAnswer bs).num = s.num := rfl
@[simp] theorem State.mgtAnswer_vec (s : State) (bs : List Byte) : (s.mgtAnswer bs).vec = s.vec := rfl
@[simp] theorem State.mgtAnswer_embed (s : State) (bs : List Byte) : (s.mgtAnswer bs).embed = s.embed := rfl
@[simp] theorem State.mgtAnswer_update (s : State) (bs : List Byte) : (s.mgtAnswer bs).update = s.update := rfl
@[simp] theorem State.mgtAnswer_link (s : State) (bs : List Byte) : (s.mgtAnswer bs).link = s.link := rfl
@[simp] theorem State.mgtAnswer_coll (s : State) (bs : List Byte) : (s.mgtAnswer bs).coll = s.coll := rfl
@[simp] theorem State.mgtAnswer_halt (s : State) (bs : List Byte) : (s.mgtAnswer bs).halt = s.halt := rfl
@[simp] theorem State.mgtAnswer_gddr (s : State) (bs : List Byte) : (s.mgtAnswer bs).gddr = s.gddr := rfl
@[simp] theorem State.mgtAnswer_mem (s : State) (bs : List Byte) : (s.mgtAnswer bs).mem = s.mem := rfl
@[simp] theorem State.mgtAnswer_ridges (s : State) (bs : List Byte) : (s.mgtAnswer bs).ridges = s.ridges := rfl
@[simp] theorem State.mgtAnswer_power (s : State) (bs : List Byte) : (s.mgtAnswer bs).power = s.power := rfl
@[simp] theorem State.mgtAnswer_health (s : State) (bs : List Byte) : (s.mgtAnswer bs).health = s.health := rfl
@[simp] theorem State.mgtAnswer_streams (s : State) (bs : List Byte) : (s.mgtAnswer bs).streams = s.streams := rfl
@[simp] theorem State.mgtAnswer_fuses (s : State) (bs : List Byte) : (s.mgtAnswer bs).fuses = s.fuses := rfl
@[simp] theorem State.mgtAnswer_flash (s : State) (bs : List Byte) : (s.mgtAnswer bs).flash = s.flash := rfl
@[simp] theorem State.mgtAnswer_boot (s : State) (bs : List Byte) : (s.mgtAnswer bs).boot = s.boot := rfl
@[simp] theorem State.mgtAnswer_sec (s : State) (bs : List Byte) : (s.mgtAnswer bs).sec = s.sec := rfl
@[simp] theorem State.mgtAnswer_host (s : State) (bs : List Byte) : (s.mgtAnswer bs).host = s.host := rfl
@[simp] theorem State.mgtAnswer_trip (s : State) (bs : List Byte) : (s.mgtAnswer bs).trip = s.trip := rfl
@[simp] theorem State.mgtAnswer_out (s : State) (bs : List Byte) : (s.mgtAnswer bs).out = s.out := rfl
@[simp] theorem State.mgtAnswer_free (s : State) (bs : List Byte) : (s.mgtAnswer bs).free = s.free := rfl

/-! ### State.updRidge changes ridges alone -/

@[simp] theorem State.updRidge_pending (s : State) (p : Nat) (f : Ridge → Ridge) : (s.updRidge p f).pending = s.pending := rfl
@[simp] theorem State.updRidge_queues (s : State) (p : Nat) (f : Ridge → Ridge) : (s.updRidge p f).queues = s.queues := rfl
@[simp] theorem State.updRidge_plans (s : State) (p : Nat) (f : Ridge → Ridge) : (s.updRidge p f).plans = s.plans := rfl
@[simp] theorem State.updRidge_graph (s : State) (p : Nat) (f : Ridge → Ridge) : (s.updRidge p f).graph = s.graph := rfl
@[simp] theorem State.updRidge_scatters (s : State) (p : Nat) (f : Ridge → Ridge) : (s.updRidge p f).scatters = s.scatters := rfl
@[simp] theorem State.updRidge_matrix (s : State) (p : Nat) (f : Ridge → Ridge) : (s.updRidge p f).matrix = s.matrix := rfl
@[simp] theorem State.updRidge_num (s : State) (p : Nat) (f : Ridge → Ridge) : (s.updRidge p f).num = s.num := rfl
@[simp] theorem State.updRidge_vec (s : State) (p : Nat) (f : Ridge → Ridge) : (s.updRidge p f).vec = s.vec := rfl
@[simp] theorem State.updRidge_embed (s : State) (p : Nat) (f : Ridge → Ridge) : (s.updRidge p f).embed = s.embed := rfl
@[simp] theorem State.updRidge_update (s : State) (p : Nat) (f : Ridge → Ridge) : (s.updRidge p f).update = s.update := rfl
@[simp] theorem State.updRidge_link (s : State) (p : Nat) (f : Ridge → Ridge) : (s.updRidge p f).link = s.link := rfl
@[simp] theorem State.updRidge_coll (s : State) (p : Nat) (f : Ridge → Ridge) : (s.updRidge p f).coll = s.coll := rfl
@[simp] theorem State.updRidge_halt (s : State) (p : Nat) (f : Ridge → Ridge) : (s.updRidge p f).halt = s.halt := rfl
@[simp] theorem State.updRidge_gddr (s : State) (p : Nat) (f : Ridge → Ridge) : (s.updRidge p f).gddr = s.gddr := rfl
@[simp] theorem State.updRidge_mem (s : State) (p : Nat) (f : Ridge → Ridge) : (s.updRidge p f).mem = s.mem := rfl
@[simp] theorem State.updRidge_power (s : State) (p : Nat) (f : Ridge → Ridge) : (s.updRidge p f).power = s.power := rfl
@[simp] theorem State.updRidge_health (s : State) (p : Nat) (f : Ridge → Ridge) : (s.updRidge p f).health = s.health := rfl
@[simp] theorem State.updRidge_streams (s : State) (p : Nat) (f : Ridge → Ridge) : (s.updRidge p f).streams = s.streams := rfl
@[simp] theorem State.updRidge_fuses (s : State) (p : Nat) (f : Ridge → Ridge) : (s.updRidge p f).fuses = s.fuses := rfl
@[simp] theorem State.updRidge_flash (s : State) (p : Nat) (f : Ridge → Ridge) : (s.updRidge p f).flash = s.flash := rfl
@[simp] theorem State.updRidge_boot (s : State) (p : Nat) (f : Ridge → Ridge) : (s.updRidge p f).boot = s.boot := rfl
@[simp] theorem State.updRidge_sec (s : State) (p : Nat) (f : Ridge → Ridge) : (s.updRidge p f).sec = s.sec := rfl
@[simp] theorem State.updRidge_host (s : State) (p : Nat) (f : Ridge → Ridge) : (s.updRidge p f).host = s.host := rfl
@[simp] theorem State.updRidge_mgt (s : State) (p : Nat) (f : Ridge → Ridge) : (s.updRidge p f).mgt = s.mgt := rfl
@[simp] theorem State.updRidge_trip (s : State) (p : Nat) (f : Ridge → Ridge) : (s.updRidge p f).trip = s.trip := rfl
@[simp] theorem State.updRidge_out (s : State) (p : Nat) (f : Ridge → Ridge) : (s.updRidge p f).out = s.out := rfl
@[simp] theorem State.updRidge_free (s : State) (p : Nat) (f : Ridge → Ridge) : (s.updRidge p f).free = s.free := rfl

/-! ### State.updMemPort changes gddr alone -/

@[simp] theorem State.updMemPort_pending (s : State) (p : Nat) (f : MemPort → MemPort) : (s.updMemPort p f).pending = s.pending := rfl
@[simp] theorem State.updMemPort_queues (s : State) (p : Nat) (f : MemPort → MemPort) : (s.updMemPort p f).queues = s.queues := rfl
@[simp] theorem State.updMemPort_plans (s : State) (p : Nat) (f : MemPort → MemPort) : (s.updMemPort p f).plans = s.plans := rfl
@[simp] theorem State.updMemPort_graph (s : State) (p : Nat) (f : MemPort → MemPort) : (s.updMemPort p f).graph = s.graph := rfl
@[simp] theorem State.updMemPort_scatters (s : State) (p : Nat) (f : MemPort → MemPort) : (s.updMemPort p f).scatters = s.scatters := rfl
@[simp] theorem State.updMemPort_matrix (s : State) (p : Nat) (f : MemPort → MemPort) : (s.updMemPort p f).matrix = s.matrix := rfl
@[simp] theorem State.updMemPort_num (s : State) (p : Nat) (f : MemPort → MemPort) : (s.updMemPort p f).num = s.num := rfl
@[simp] theorem State.updMemPort_vec (s : State) (p : Nat) (f : MemPort → MemPort) : (s.updMemPort p f).vec = s.vec := rfl
@[simp] theorem State.updMemPort_embed (s : State) (p : Nat) (f : MemPort → MemPort) : (s.updMemPort p f).embed = s.embed := rfl
@[simp] theorem State.updMemPort_update (s : State) (p : Nat) (f : MemPort → MemPort) : (s.updMemPort p f).update = s.update := rfl
@[simp] theorem State.updMemPort_link (s : State) (p : Nat) (f : MemPort → MemPort) : (s.updMemPort p f).link = s.link := rfl
@[simp] theorem State.updMemPort_coll (s : State) (p : Nat) (f : MemPort → MemPort) : (s.updMemPort p f).coll = s.coll := rfl
@[simp] theorem State.updMemPort_halt (s : State) (p : Nat) (f : MemPort → MemPort) : (s.updMemPort p f).halt = s.halt := rfl
@[simp] theorem State.updMemPort_mem (s : State) (p : Nat) (f : MemPort → MemPort) : (s.updMemPort p f).mem = s.mem := rfl
@[simp] theorem State.updMemPort_ridges (s : State) (p : Nat) (f : MemPort → MemPort) : (s.updMemPort p f).ridges = s.ridges := rfl
@[simp] theorem State.updMemPort_power (s : State) (p : Nat) (f : MemPort → MemPort) : (s.updMemPort p f).power = s.power := rfl
@[simp] theorem State.updMemPort_health (s : State) (p : Nat) (f : MemPort → MemPort) : (s.updMemPort p f).health = s.health := rfl
@[simp] theorem State.updMemPort_streams (s : State) (p : Nat) (f : MemPort → MemPort) : (s.updMemPort p f).streams = s.streams := rfl
@[simp] theorem State.updMemPort_fuses (s : State) (p : Nat) (f : MemPort → MemPort) : (s.updMemPort p f).fuses = s.fuses := rfl
@[simp] theorem State.updMemPort_flash (s : State) (p : Nat) (f : MemPort → MemPort) : (s.updMemPort p f).flash = s.flash := rfl
@[simp] theorem State.updMemPort_boot (s : State) (p : Nat) (f : MemPort → MemPort) : (s.updMemPort p f).boot = s.boot := rfl
@[simp] theorem State.updMemPort_sec (s : State) (p : Nat) (f : MemPort → MemPort) : (s.updMemPort p f).sec = s.sec := rfl
@[simp] theorem State.updMemPort_host (s : State) (p : Nat) (f : MemPort → MemPort) : (s.updMemPort p f).host = s.host := rfl
@[simp] theorem State.updMemPort_mgt (s : State) (p : Nat) (f : MemPort → MemPort) : (s.updMemPort p f).mgt = s.mgt := rfl
@[simp] theorem State.updMemPort_trip (s : State) (p : Nat) (f : MemPort → MemPort) : (s.updMemPort p f).trip = s.trip := rfl
@[simp] theorem State.updMemPort_out (s : State) (p : Nat) (f : MemPort → MemPort) : (s.updMemPort p f).out = s.out := rfl
@[simp] theorem State.updMemPort_free (s : State) (p : Nat) (f : MemPort → MemPort) : (s.updMemPort p f).free = s.free := rfl

/-! ### State.updPort changes link alone -/

@[simp] theorem State.updPort_pending (s : State) (p : Nat) (f : Port → Port) : (s.updPort p f).pending = s.pending := rfl
@[simp] theorem State.updPort_queues (s : State) (p : Nat) (f : Port → Port) : (s.updPort p f).queues = s.queues := rfl
@[simp] theorem State.updPort_plans (s : State) (p : Nat) (f : Port → Port) : (s.updPort p f).plans = s.plans := rfl
@[simp] theorem State.updPort_graph (s : State) (p : Nat) (f : Port → Port) : (s.updPort p f).graph = s.graph := rfl
@[simp] theorem State.updPort_scatters (s : State) (p : Nat) (f : Port → Port) : (s.updPort p f).scatters = s.scatters := rfl
@[simp] theorem State.updPort_matrix (s : State) (p : Nat) (f : Port → Port) : (s.updPort p f).matrix = s.matrix := rfl
@[simp] theorem State.updPort_num (s : State) (p : Nat) (f : Port → Port) : (s.updPort p f).num = s.num := rfl
@[simp] theorem State.updPort_vec (s : State) (p : Nat) (f : Port → Port) : (s.updPort p f).vec = s.vec := rfl
@[simp] theorem State.updPort_embed (s : State) (p : Nat) (f : Port → Port) : (s.updPort p f).embed = s.embed := rfl
@[simp] theorem State.updPort_update (s : State) (p : Nat) (f : Port → Port) : (s.updPort p f).update = s.update := rfl
@[simp] theorem State.updPort_coll (s : State) (p : Nat) (f : Port → Port) : (s.updPort p f).coll = s.coll := rfl
@[simp] theorem State.updPort_halt (s : State) (p : Nat) (f : Port → Port) : (s.updPort p f).halt = s.halt := rfl
@[simp] theorem State.updPort_gddr (s : State) (p : Nat) (f : Port → Port) : (s.updPort p f).gddr = s.gddr := rfl
@[simp] theorem State.updPort_mem (s : State) (p : Nat) (f : Port → Port) : (s.updPort p f).mem = s.mem := rfl
@[simp] theorem State.updPort_ridges (s : State) (p : Nat) (f : Port → Port) : (s.updPort p f).ridges = s.ridges := rfl
@[simp] theorem State.updPort_power (s : State) (p : Nat) (f : Port → Port) : (s.updPort p f).power = s.power := rfl
@[simp] theorem State.updPort_health (s : State) (p : Nat) (f : Port → Port) : (s.updPort p f).health = s.health := rfl
@[simp] theorem State.updPort_streams (s : State) (p : Nat) (f : Port → Port) : (s.updPort p f).streams = s.streams := rfl
@[simp] theorem State.updPort_fuses (s : State) (p : Nat) (f : Port → Port) : (s.updPort p f).fuses = s.fuses := rfl
@[simp] theorem State.updPort_flash (s : State) (p : Nat) (f : Port → Port) : (s.updPort p f).flash = s.flash := rfl
@[simp] theorem State.updPort_boot (s : State) (p : Nat) (f : Port → Port) : (s.updPort p f).boot = s.boot := rfl
@[simp] theorem State.updPort_sec (s : State) (p : Nat) (f : Port → Port) : (s.updPort p f).sec = s.sec := rfl
@[simp] theorem State.updPort_host (s : State) (p : Nat) (f : Port → Port) : (s.updPort p f).host = s.host := rfl
@[simp] theorem State.updPort_mgt (s : State) (p : Nat) (f : Port → Port) : (s.updPort p f).mgt = s.mgt := rfl
@[simp] theorem State.updPort_trip (s : State) (p : Nat) (f : Port → Port) : (s.updPort p f).trip = s.trip := rfl
@[simp] theorem State.updPort_out (s : State) (p : Nat) (f : Port → Port) : (s.updPort p f).out = s.out := rfl
@[simp] theorem State.updPort_free (s : State) (p : Nat) (f : Port → Port) : (s.updPort p f).free = s.free := rfl

/-! ### State.updLane changes link alone -/

@[simp] theorem State.updLane_pending (s : State) (l : Nat) (f : Lane → Lane) : (s.updLane l f).pending = s.pending := rfl
@[simp] theorem State.updLane_queues (s : State) (l : Nat) (f : Lane → Lane) : (s.updLane l f).queues = s.queues := rfl
@[simp] theorem State.updLane_plans (s : State) (l : Nat) (f : Lane → Lane) : (s.updLane l f).plans = s.plans := rfl
@[simp] theorem State.updLane_graph (s : State) (l : Nat) (f : Lane → Lane) : (s.updLane l f).graph = s.graph := rfl
@[simp] theorem State.updLane_scatters (s : State) (l : Nat) (f : Lane → Lane) : (s.updLane l f).scatters = s.scatters := rfl
@[simp] theorem State.updLane_matrix (s : State) (l : Nat) (f : Lane → Lane) : (s.updLane l f).matrix = s.matrix := rfl
@[simp] theorem State.updLane_num (s : State) (l : Nat) (f : Lane → Lane) : (s.updLane l f).num = s.num := rfl
@[simp] theorem State.updLane_vec (s : State) (l : Nat) (f : Lane → Lane) : (s.updLane l f).vec = s.vec := rfl
@[simp] theorem State.updLane_embed (s : State) (l : Nat) (f : Lane → Lane) : (s.updLane l f).embed = s.embed := rfl
@[simp] theorem State.updLane_update (s : State) (l : Nat) (f : Lane → Lane) : (s.updLane l f).update = s.update := rfl
@[simp] theorem State.updLane_coll (s : State) (l : Nat) (f : Lane → Lane) : (s.updLane l f).coll = s.coll := rfl
@[simp] theorem State.updLane_halt (s : State) (l : Nat) (f : Lane → Lane) : (s.updLane l f).halt = s.halt := rfl
@[simp] theorem State.updLane_gddr (s : State) (l : Nat) (f : Lane → Lane) : (s.updLane l f).gddr = s.gddr := rfl
@[simp] theorem State.updLane_mem (s : State) (l : Nat) (f : Lane → Lane) : (s.updLane l f).mem = s.mem := rfl
@[simp] theorem State.updLane_ridges (s : State) (l : Nat) (f : Lane → Lane) : (s.updLane l f).ridges = s.ridges := rfl
@[simp] theorem State.updLane_power (s : State) (l : Nat) (f : Lane → Lane) : (s.updLane l f).power = s.power := rfl
@[simp] theorem State.updLane_health (s : State) (l : Nat) (f : Lane → Lane) : (s.updLane l f).health = s.health := rfl
@[simp] theorem State.updLane_streams (s : State) (l : Nat) (f : Lane → Lane) : (s.updLane l f).streams = s.streams := rfl
@[simp] theorem State.updLane_fuses (s : State) (l : Nat) (f : Lane → Lane) : (s.updLane l f).fuses = s.fuses := rfl
@[simp] theorem State.updLane_flash (s : State) (l : Nat) (f : Lane → Lane) : (s.updLane l f).flash = s.flash := rfl
@[simp] theorem State.updLane_boot (s : State) (l : Nat) (f : Lane → Lane) : (s.updLane l f).boot = s.boot := rfl
@[simp] theorem State.updLane_sec (s : State) (l : Nat) (f : Lane → Lane) : (s.updLane l f).sec = s.sec := rfl
@[simp] theorem State.updLane_host (s : State) (l : Nat) (f : Lane → Lane) : (s.updLane l f).host = s.host := rfl
@[simp] theorem State.updLane_mgt (s : State) (l : Nat) (f : Lane → Lane) : (s.updLane l f).mgt = s.mgt := rfl
@[simp] theorem State.updLane_trip (s : State) (l : Nat) (f : Lane → Lane) : (s.updLane l f).trip = s.trip := rfl
@[simp] theorem State.updLane_out (s : State) (l : Nat) (f : Lane → Lane) : (s.updLane l f).out = s.out := rfl
@[simp] theorem State.updLane_free (s : State) (l : Nat) (f : Lane → Lane) : (s.updLane l f).free = s.free := rfl

/-! ### State.updStep changes plans alone -/

@[simp] theorem State.updStep_pending (s : State) (f : StepRun → StepRun) : (s.updStep f).pending = s.pending := rfl
@[simp] theorem State.updStep_queues (s : State) (f : StepRun → StepRun) : (s.updStep f).queues = s.queues := rfl
@[simp] theorem State.updStep_graph (s : State) (f : StepRun → StepRun) : (s.updStep f).graph = s.graph := rfl
@[simp] theorem State.updStep_scatters (s : State) (f : StepRun → StepRun) : (s.updStep f).scatters = s.scatters := rfl
@[simp] theorem State.updStep_matrix (s : State) (f : StepRun → StepRun) : (s.updStep f).matrix = s.matrix := rfl
@[simp] theorem State.updStep_num (s : State) (f : StepRun → StepRun) : (s.updStep f).num = s.num := rfl
@[simp] theorem State.updStep_vec (s : State) (f : StepRun → StepRun) : (s.updStep f).vec = s.vec := rfl
@[simp] theorem State.updStep_embed (s : State) (f : StepRun → StepRun) : (s.updStep f).embed = s.embed := rfl
@[simp] theorem State.updStep_update (s : State) (f : StepRun → StepRun) : (s.updStep f).update = s.update := rfl
@[simp] theorem State.updStep_link (s : State) (f : StepRun → StepRun) : (s.updStep f).link = s.link := rfl
@[simp] theorem State.updStep_coll (s : State) (f : StepRun → StepRun) : (s.updStep f).coll = s.coll := rfl
@[simp] theorem State.updStep_halt (s : State) (f : StepRun → StepRun) : (s.updStep f).halt = s.halt := rfl
@[simp] theorem State.updStep_gddr (s : State) (f : StepRun → StepRun) : (s.updStep f).gddr = s.gddr := rfl
@[simp] theorem State.updStep_mem (s : State) (f : StepRun → StepRun) : (s.updStep f).mem = s.mem := rfl
@[simp] theorem State.updStep_ridges (s : State) (f : StepRun → StepRun) : (s.updStep f).ridges = s.ridges := rfl
@[simp] theorem State.updStep_power (s : State) (f : StepRun → StepRun) : (s.updStep f).power = s.power := rfl
@[simp] theorem State.updStep_health (s : State) (f : StepRun → StepRun) : (s.updStep f).health = s.health := rfl
@[simp] theorem State.updStep_streams (s : State) (f : StepRun → StepRun) : (s.updStep f).streams = s.streams := rfl
@[simp] theorem State.updStep_fuses (s : State) (f : StepRun → StepRun) : (s.updStep f).fuses = s.fuses := rfl
@[simp] theorem State.updStep_flash (s : State) (f : StepRun → StepRun) : (s.updStep f).flash = s.flash := rfl
@[simp] theorem State.updStep_boot (s : State) (f : StepRun → StepRun) : (s.updStep f).boot = s.boot := rfl
@[simp] theorem State.updStep_sec (s : State) (f : StepRun → StepRun) : (s.updStep f).sec = s.sec := rfl
@[simp] theorem State.updStep_host (s : State) (f : StepRun → StepRun) : (s.updStep f).host = s.host := rfl
@[simp] theorem State.updStep_mgt (s : State) (f : StepRun → StepRun) : (s.updStep f).mgt = s.mgt := rfl
@[simp] theorem State.updStep_trip (s : State) (f : StepRun → StepRun) : (s.updStep f).trip = s.trip := rfl
@[simp] theorem State.updStep_out (s : State) (f : StepRun → StepRun) : (s.updStep f).out = s.out := rfl
@[simp] theorem State.updStep_free (s : State) (f : StepRun → StepRun) : (s.updStep f).free = s.free := rfl

/-! ### State.updShard changes graph alone -/

@[simp] theorem State.updShard_pending (s : State) (i : Nat) (f : Shard → Shard) : (s.updShard i f).pending = s.pending := rfl
@[simp] theorem State.updShard_queues (s : State) (i : Nat) (f : Shard → Shard) : (s.updShard i f).queues = s.queues := rfl
@[simp] theorem State.updShard_plans (s : State) (i : Nat) (f : Shard → Shard) : (s.updShard i f).plans = s.plans := rfl
@[simp] theorem State.updShard_scatters (s : State) (i : Nat) (f : Shard → Shard) : (s.updShard i f).scatters = s.scatters := rfl
@[simp] theorem State.updShard_matrix (s : State) (i : Nat) (f : Shard → Shard) : (s.updShard i f).matrix = s.matrix := rfl
@[simp] theorem State.updShard_num (s : State) (i : Nat) (f : Shard → Shard) : (s.updShard i f).num = s.num := rfl
@[simp] theorem State.updShard_vec (s : State) (i : Nat) (f : Shard → Shard) : (s.updShard i f).vec = s.vec := rfl
@[simp] theorem State.updShard_embed (s : State) (i : Nat) (f : Shard → Shard) : (s.updShard i f).embed = s.embed := rfl
@[simp] theorem State.updShard_update (s : State) (i : Nat) (f : Shard → Shard) : (s.updShard i f).update = s.update := rfl
@[simp] theorem State.updShard_link (s : State) (i : Nat) (f : Shard → Shard) : (s.updShard i f).link = s.link := rfl
@[simp] theorem State.updShard_coll (s : State) (i : Nat) (f : Shard → Shard) : (s.updShard i f).coll = s.coll := rfl
@[simp] theorem State.updShard_halt (s : State) (i : Nat) (f : Shard → Shard) : (s.updShard i f).halt = s.halt := rfl
@[simp] theorem State.updShard_gddr (s : State) (i : Nat) (f : Shard → Shard) : (s.updShard i f).gddr = s.gddr := rfl
@[simp] theorem State.updShard_mem (s : State) (i : Nat) (f : Shard → Shard) : (s.updShard i f).mem = s.mem := rfl
@[simp] theorem State.updShard_ridges (s : State) (i : Nat) (f : Shard → Shard) : (s.updShard i f).ridges = s.ridges := rfl
@[simp] theorem State.updShard_power (s : State) (i : Nat) (f : Shard → Shard) : (s.updShard i f).power = s.power := rfl
@[simp] theorem State.updShard_health (s : State) (i : Nat) (f : Shard → Shard) : (s.updShard i f).health = s.health := rfl
@[simp] theorem State.updShard_streams (s : State) (i : Nat) (f : Shard → Shard) : (s.updShard i f).streams = s.streams := rfl
@[simp] theorem State.updShard_fuses (s : State) (i : Nat) (f : Shard → Shard) : (s.updShard i f).fuses = s.fuses := rfl
@[simp] theorem State.updShard_flash (s : State) (i : Nat) (f : Shard → Shard) : (s.updShard i f).flash = s.flash := rfl
@[simp] theorem State.updShard_boot (s : State) (i : Nat) (f : Shard → Shard) : (s.updShard i f).boot = s.boot := rfl
@[simp] theorem State.updShard_sec (s : State) (i : Nat) (f : Shard → Shard) : (s.updShard i f).sec = s.sec := rfl
@[simp] theorem State.updShard_host (s : State) (i : Nat) (f : Shard → Shard) : (s.updShard i f).host = s.host := rfl
@[simp] theorem State.updShard_mgt (s : State) (i : Nat) (f : Shard → Shard) : (s.updShard i f).mgt = s.mgt := rfl
@[simp] theorem State.updShard_trip (s : State) (i : Nat) (f : Shard → Shard) : (s.updShard i f).trip = s.trip := rfl
@[simp] theorem State.updShard_out (s : State) (i : Nat) (f : Shard → Shard) : (s.updShard i f).out = s.out := rfl
@[simp] theorem State.updShard_free (s : State) (i : Nat) (f : Shard → Shard) : (s.updShard i f).free = s.free := rfl

/-! ### State.updIiq changes mem alone -/

@[simp] theorem State.updIiq_pending (s : State) (n : Nat) (f : Iiq → Iiq) : (s.updIiq n f).pending = s.pending := rfl
@[simp] theorem State.updIiq_queues (s : State) (n : Nat) (f : Iiq → Iiq) : (s.updIiq n f).queues = s.queues := rfl
@[simp] theorem State.updIiq_plans (s : State) (n : Nat) (f : Iiq → Iiq) : (s.updIiq n f).plans = s.plans := rfl
@[simp] theorem State.updIiq_graph (s : State) (n : Nat) (f : Iiq → Iiq) : (s.updIiq n f).graph = s.graph := rfl
@[simp] theorem State.updIiq_scatters (s : State) (n : Nat) (f : Iiq → Iiq) : (s.updIiq n f).scatters = s.scatters := rfl
@[simp] theorem State.updIiq_matrix (s : State) (n : Nat) (f : Iiq → Iiq) : (s.updIiq n f).matrix = s.matrix := rfl
@[simp] theorem State.updIiq_num (s : State) (n : Nat) (f : Iiq → Iiq) : (s.updIiq n f).num = s.num := rfl
@[simp] theorem State.updIiq_vec (s : State) (n : Nat) (f : Iiq → Iiq) : (s.updIiq n f).vec = s.vec := rfl
@[simp] theorem State.updIiq_embed (s : State) (n : Nat) (f : Iiq → Iiq) : (s.updIiq n f).embed = s.embed := rfl
@[simp] theorem State.updIiq_update (s : State) (n : Nat) (f : Iiq → Iiq) : (s.updIiq n f).update = s.update := rfl
@[simp] theorem State.updIiq_link (s : State) (n : Nat) (f : Iiq → Iiq) : (s.updIiq n f).link = s.link := rfl
@[simp] theorem State.updIiq_coll (s : State) (n : Nat) (f : Iiq → Iiq) : (s.updIiq n f).coll = s.coll := rfl
@[simp] theorem State.updIiq_halt (s : State) (n : Nat) (f : Iiq → Iiq) : (s.updIiq n f).halt = s.halt := rfl
@[simp] theorem State.updIiq_gddr (s : State) (n : Nat) (f : Iiq → Iiq) : (s.updIiq n f).gddr = s.gddr := rfl
@[simp] theorem State.updIiq_ridges (s : State) (n : Nat) (f : Iiq → Iiq) : (s.updIiq n f).ridges = s.ridges := rfl
@[simp] theorem State.updIiq_power (s : State) (n : Nat) (f : Iiq → Iiq) : (s.updIiq n f).power = s.power := rfl
@[simp] theorem State.updIiq_health (s : State) (n : Nat) (f : Iiq → Iiq) : (s.updIiq n f).health = s.health := rfl
@[simp] theorem State.updIiq_streams (s : State) (n : Nat) (f : Iiq → Iiq) : (s.updIiq n f).streams = s.streams := rfl
@[simp] theorem State.updIiq_fuses (s : State) (n : Nat) (f : Iiq → Iiq) : (s.updIiq n f).fuses = s.fuses := rfl
@[simp] theorem State.updIiq_flash (s : State) (n : Nat) (f : Iiq → Iiq) : (s.updIiq n f).flash = s.flash := rfl
@[simp] theorem State.updIiq_boot (s : State) (n : Nat) (f : Iiq → Iiq) : (s.updIiq n f).boot = s.boot := rfl
@[simp] theorem State.updIiq_sec (s : State) (n : Nat) (f : Iiq → Iiq) : (s.updIiq n f).sec = s.sec := rfl
@[simp] theorem State.updIiq_host (s : State) (n : Nat) (f : Iiq → Iiq) : (s.updIiq n f).host = s.host := rfl
@[simp] theorem State.updIiq_mgt (s : State) (n : Nat) (f : Iiq → Iiq) : (s.updIiq n f).mgt = s.mgt := rfl
@[simp] theorem State.updIiq_trip (s : State) (n : Nat) (f : Iiq → Iiq) : (s.updIiq n f).trip = s.trip := rfl
@[simp] theorem State.updIiq_out (s : State) (n : Nat) (f : Iiq → Iiq) : (s.updIiq n f).out = s.out := rfl
@[simp] theorem State.updIiq_free (s : State) (n : Nat) (f : Iiq → Iiq) : (s.updIiq n f).free = s.free := rfl

/-! ### State.consoleAt changes out alone -/

@[simp] theorem State.consoleAt_pending (s : State) (t : W64) (w : UartWhat) : (s.consoleAt t w).pending = s.pending := rfl
@[simp] theorem State.consoleAt_queues (s : State) (t : W64) (w : UartWhat) : (s.consoleAt t w).queues = s.queues := rfl
@[simp] theorem State.consoleAt_plans (s : State) (t : W64) (w : UartWhat) : (s.consoleAt t w).plans = s.plans := rfl
@[simp] theorem State.consoleAt_graph (s : State) (t : W64) (w : UartWhat) : (s.consoleAt t w).graph = s.graph := rfl
@[simp] theorem State.consoleAt_scatters (s : State) (t : W64) (w : UartWhat) : (s.consoleAt t w).scatters = s.scatters := rfl
@[simp] theorem State.consoleAt_matrix (s : State) (t : W64) (w : UartWhat) : (s.consoleAt t w).matrix = s.matrix := rfl
@[simp] theorem State.consoleAt_num (s : State) (t : W64) (w : UartWhat) : (s.consoleAt t w).num = s.num := rfl
@[simp] theorem State.consoleAt_vec (s : State) (t : W64) (w : UartWhat) : (s.consoleAt t w).vec = s.vec := rfl
@[simp] theorem State.consoleAt_embed (s : State) (t : W64) (w : UartWhat) : (s.consoleAt t w).embed = s.embed := rfl
@[simp] theorem State.consoleAt_update (s : State) (t : W64) (w : UartWhat) : (s.consoleAt t w).update = s.update := rfl
@[simp] theorem State.consoleAt_link (s : State) (t : W64) (w : UartWhat) : (s.consoleAt t w).link = s.link := rfl
@[simp] theorem State.consoleAt_coll (s : State) (t : W64) (w : UartWhat) : (s.consoleAt t w).coll = s.coll := rfl
@[simp] theorem State.consoleAt_halt (s : State) (t : W64) (w : UartWhat) : (s.consoleAt t w).halt = s.halt := rfl
@[simp] theorem State.consoleAt_gddr (s : State) (t : W64) (w : UartWhat) : (s.consoleAt t w).gddr = s.gddr := rfl
@[simp] theorem State.consoleAt_mem (s : State) (t : W64) (w : UartWhat) : (s.consoleAt t w).mem = s.mem := rfl
@[simp] theorem State.consoleAt_ridges (s : State) (t : W64) (w : UartWhat) : (s.consoleAt t w).ridges = s.ridges := rfl
@[simp] theorem State.consoleAt_power (s : State) (t : W64) (w : UartWhat) : (s.consoleAt t w).power = s.power := rfl
@[simp] theorem State.consoleAt_health (s : State) (t : W64) (w : UartWhat) : (s.consoleAt t w).health = s.health := rfl
@[simp] theorem State.consoleAt_streams (s : State) (t : W64) (w : UartWhat) : (s.consoleAt t w).streams = s.streams := rfl
@[simp] theorem State.consoleAt_fuses (s : State) (t : W64) (w : UartWhat) : (s.consoleAt t w).fuses = s.fuses := rfl
@[simp] theorem State.consoleAt_flash (s : State) (t : W64) (w : UartWhat) : (s.consoleAt t w).flash = s.flash := rfl
@[simp] theorem State.consoleAt_boot (s : State) (t : W64) (w : UartWhat) : (s.consoleAt t w).boot = s.boot := rfl
@[simp] theorem State.consoleAt_sec (s : State) (t : W64) (w : UartWhat) : (s.consoleAt t w).sec = s.sec := rfl
@[simp] theorem State.consoleAt_host (s : State) (t : W64) (w : UartWhat) : (s.consoleAt t w).host = s.host := rfl
@[simp] theorem State.consoleAt_mgt (s : State) (t : W64) (w : UartWhat) : (s.consoleAt t w).mgt = s.mgt := rfl
@[simp] theorem State.consoleAt_trip (s : State) (t : W64) (w : UartWhat) : (s.consoleAt t w).trip = s.trip := rfl
@[simp] theorem State.consoleAt_free (s : State) (t : W64) (w : UartWhat) : (s.consoleAt t w).free = s.free := rfl

/-! ### State.useBursts changes mem alone -/

@[simp] theorem State.useBursts_pending (s : State) (ls : List Nat) : (s.useBursts ls).pending = s.pending := rfl
@[simp] theorem State.useBursts_queues (s : State) (ls : List Nat) : (s.useBursts ls).queues = s.queues := rfl
@[simp] theorem State.useBursts_plans (s : State) (ls : List Nat) : (s.useBursts ls).plans = s.plans := rfl
@[simp] theorem State.useBursts_graph (s : State) (ls : List Nat) : (s.useBursts ls).graph = s.graph := rfl
@[simp] theorem State.useBursts_scatters (s : State) (ls : List Nat) : (s.useBursts ls).scatters = s.scatters := rfl
@[simp] theorem State.useBursts_matrix (s : State) (ls : List Nat) : (s.useBursts ls).matrix = s.matrix := rfl
@[simp] theorem State.useBursts_num (s : State) (ls : List Nat) : (s.useBursts ls).num = s.num := rfl
@[simp] theorem State.useBursts_vec (s : State) (ls : List Nat) : (s.useBursts ls).vec = s.vec := rfl
@[simp] theorem State.useBursts_embed (s : State) (ls : List Nat) : (s.useBursts ls).embed = s.embed := rfl
@[simp] theorem State.useBursts_update (s : State) (ls : List Nat) : (s.useBursts ls).update = s.update := rfl
@[simp] theorem State.useBursts_link (s : State) (ls : List Nat) : (s.useBursts ls).link = s.link := rfl
@[simp] theorem State.useBursts_coll (s : State) (ls : List Nat) : (s.useBursts ls).coll = s.coll := rfl
@[simp] theorem State.useBursts_halt (s : State) (ls : List Nat) : (s.useBursts ls).halt = s.halt := rfl
@[simp] theorem State.useBursts_gddr (s : State) (ls : List Nat) : (s.useBursts ls).gddr = s.gddr := rfl
@[simp] theorem State.useBursts_ridges (s : State) (ls : List Nat) : (s.useBursts ls).ridges = s.ridges := rfl
@[simp] theorem State.useBursts_power (s : State) (ls : List Nat) : (s.useBursts ls).power = s.power := rfl
@[simp] theorem State.useBursts_health (s : State) (ls : List Nat) : (s.useBursts ls).health = s.health := rfl
@[simp] theorem State.useBursts_streams (s : State) (ls : List Nat) : (s.useBursts ls).streams = s.streams := rfl
@[simp] theorem State.useBursts_fuses (s : State) (ls : List Nat) : (s.useBursts ls).fuses = s.fuses := rfl
@[simp] theorem State.useBursts_flash (s : State) (ls : List Nat) : (s.useBursts ls).flash = s.flash := rfl
@[simp] theorem State.useBursts_boot (s : State) (ls : List Nat) : (s.useBursts ls).boot = s.boot := rfl
@[simp] theorem State.useBursts_sec (s : State) (ls : List Nat) : (s.useBursts ls).sec = s.sec := rfl
@[simp] theorem State.useBursts_host (s : State) (ls : List Nat) : (s.useBursts ls).host = s.host := rfl
@[simp] theorem State.useBursts_mgt (s : State) (ls : List Nat) : (s.useBursts ls).mgt = s.mgt := rfl
@[simp] theorem State.useBursts_trip (s : State) (ls : List Nat) : (s.useBursts ls).trip = s.trip := rfl
@[simp] theorem State.useBursts_out (s : State) (ls : List Nat) : (s.useBursts ls).out = s.out := rfl
@[simp] theorem State.useBursts_free (s : State) (ls : List Nat) : (s.useBursts ls).free = s.free := rfl

/-! ### State.access changes mem alone -/

@[simp] theorem State.access_pending (s : State) (cls : Nat) (w : Bool) (a n : Nat) : (s.access cls w a n).pending = s.pending := rfl
@[simp] theorem State.access_queues (s : State) (cls : Nat) (w : Bool) (a n : Nat) : (s.access cls w a n).queues = s.queues := rfl
@[simp] theorem State.access_plans (s : State) (cls : Nat) (w : Bool) (a n : Nat) : (s.access cls w a n).plans = s.plans := rfl
@[simp] theorem State.access_graph (s : State) (cls : Nat) (w : Bool) (a n : Nat) : (s.access cls w a n).graph = s.graph := rfl
@[simp] theorem State.access_scatters (s : State) (cls : Nat) (w : Bool) (a n : Nat) : (s.access cls w a n).scatters = s.scatters := rfl
@[simp] theorem State.access_matrix (s : State) (cls : Nat) (w : Bool) (a n : Nat) : (s.access cls w a n).matrix = s.matrix := rfl
@[simp] theorem State.access_num (s : State) (cls : Nat) (w : Bool) (a n : Nat) : (s.access cls w a n).num = s.num := rfl
@[simp] theorem State.access_vec (s : State) (cls : Nat) (w : Bool) (a n : Nat) : (s.access cls w a n).vec = s.vec := rfl
@[simp] theorem State.access_embed (s : State) (cls : Nat) (w : Bool) (a n : Nat) : (s.access cls w a n).embed = s.embed := rfl
@[simp] theorem State.access_update (s : State) (cls : Nat) (w : Bool) (a n : Nat) : (s.access cls w a n).update = s.update := rfl
@[simp] theorem State.access_link (s : State) (cls : Nat) (w : Bool) (a n : Nat) : (s.access cls w a n).link = s.link := rfl
@[simp] theorem State.access_coll (s : State) (cls : Nat) (w : Bool) (a n : Nat) : (s.access cls w a n).coll = s.coll := rfl
@[simp] theorem State.access_halt (s : State) (cls : Nat) (w : Bool) (a n : Nat) : (s.access cls w a n).halt = s.halt := rfl
@[simp] theorem State.access_gddr (s : State) (cls : Nat) (w : Bool) (a n : Nat) : (s.access cls w a n).gddr = s.gddr := rfl
@[simp] theorem State.access_ridges (s : State) (cls : Nat) (w : Bool) (a n : Nat) : (s.access cls w a n).ridges = s.ridges := rfl
@[simp] theorem State.access_power (s : State) (cls : Nat) (w : Bool) (a n : Nat) : (s.access cls w a n).power = s.power := rfl
@[simp] theorem State.access_health (s : State) (cls : Nat) (w : Bool) (a n : Nat) : (s.access cls w a n).health = s.health := rfl
@[simp] theorem State.access_streams (s : State) (cls : Nat) (w : Bool) (a n : Nat) : (s.access cls w a n).streams = s.streams := rfl
@[simp] theorem State.access_fuses (s : State) (cls : Nat) (w : Bool) (a n : Nat) : (s.access cls w a n).fuses = s.fuses := rfl
@[simp] theorem State.access_flash (s : State) (cls : Nat) (w : Bool) (a n : Nat) : (s.access cls w a n).flash = s.flash := rfl
@[simp] theorem State.access_boot (s : State) (cls : Nat) (w : Bool) (a n : Nat) : (s.access cls w a n).boot = s.boot := rfl
@[simp] theorem State.access_sec (s : State) (cls : Nat) (w : Bool) (a n : Nat) : (s.access cls w a n).sec = s.sec := rfl
@[simp] theorem State.access_host (s : State) (cls : Nat) (w : Bool) (a n : Nat) : (s.access cls w a n).host = s.host := rfl
@[simp] theorem State.access_mgt (s : State) (cls : Nat) (w : Bool) (a n : Nat) : (s.access cls w a n).mgt = s.mgt := rfl
@[simp] theorem State.access_trip (s : State) (cls : Nat) (w : Bool) (a n : Nat) : (s.access cls w a n).trip = s.trip := rfl
@[simp] theorem State.access_out (s : State) (cls : Nat) (w : Bool) (a n : Nat) : (s.access cls w a n).out = s.out := rfl
@[simp] theorem State.access_free (s : State) (cls : Nat) (w : Bool) (a n : Nat) : (s.access cls w a n).free = s.free := rfl

/-! ### State.updGroup changes matrix alone -/

@[simp] theorem State.updGroup_pending (s : State) (g : Group) (f : Group → Group) : (s.updGroup g f).pending = s.pending := rfl
@[simp] theorem State.updGroup_queues (s : State) (g : Group) (f : Group → Group) : (s.updGroup g f).queues = s.queues := rfl
@[simp] theorem State.updGroup_plans (s : State) (g : Group) (f : Group → Group) : (s.updGroup g f).plans = s.plans := rfl
@[simp] theorem State.updGroup_graph (s : State) (g : Group) (f : Group → Group) : (s.updGroup g f).graph = s.graph := rfl
@[simp] theorem State.updGroup_scatters (s : State) (g : Group) (f : Group → Group) : (s.updGroup g f).scatters = s.scatters := rfl
@[simp] theorem State.updGroup_num (s : State) (g : Group) (f : Group → Group) : (s.updGroup g f).num = s.num := rfl
@[simp] theorem State.updGroup_vec (s : State) (g : Group) (f : Group → Group) : (s.updGroup g f).vec = s.vec := rfl
@[simp] theorem State.updGroup_embed (s : State) (g : Group) (f : Group → Group) : (s.updGroup g f).embed = s.embed := rfl
@[simp] theorem State.updGroup_update (s : State) (g : Group) (f : Group → Group) : (s.updGroup g f).update = s.update := rfl
@[simp] theorem State.updGroup_link (s : State) (g : Group) (f : Group → Group) : (s.updGroup g f).link = s.link := rfl
@[simp] theorem State.updGroup_coll (s : State) (g : Group) (f : Group → Group) : (s.updGroup g f).coll = s.coll := rfl
@[simp] theorem State.updGroup_halt (s : State) (g : Group) (f : Group → Group) : (s.updGroup g f).halt = s.halt := rfl
@[simp] theorem State.updGroup_gddr (s : State) (g : Group) (f : Group → Group) : (s.updGroup g f).gddr = s.gddr := rfl
@[simp] theorem State.updGroup_mem (s : State) (g : Group) (f : Group → Group) : (s.updGroup g f).mem = s.mem := rfl
@[simp] theorem State.updGroup_ridges (s : State) (g : Group) (f : Group → Group) : (s.updGroup g f).ridges = s.ridges := rfl
@[simp] theorem State.updGroup_power (s : State) (g : Group) (f : Group → Group) : (s.updGroup g f).power = s.power := rfl
@[simp] theorem State.updGroup_health (s : State) (g : Group) (f : Group → Group) : (s.updGroup g f).health = s.health := rfl
@[simp] theorem State.updGroup_streams (s : State) (g : Group) (f : Group → Group) : (s.updGroup g f).streams = s.streams := rfl
@[simp] theorem State.updGroup_fuses (s : State) (g : Group) (f : Group → Group) : (s.updGroup g f).fuses = s.fuses := rfl
@[simp] theorem State.updGroup_flash (s : State) (g : Group) (f : Group → Group) : (s.updGroup g f).flash = s.flash := rfl
@[simp] theorem State.updGroup_boot (s : State) (g : Group) (f : Group → Group) : (s.updGroup g f).boot = s.boot := rfl
@[simp] theorem State.updGroup_sec (s : State) (g : Group) (f : Group → Group) : (s.updGroup g f).sec = s.sec := rfl
@[simp] theorem State.updGroup_host (s : State) (g : Group) (f : Group → Group) : (s.updGroup g f).host = s.host := rfl
@[simp] theorem State.updGroup_mgt (s : State) (g : Group) (f : Group → Group) : (s.updGroup g f).mgt = s.mgt := rfl
@[simp] theorem State.updGroup_trip (s : State) (g : Group) (f : Group → Group) : (s.updGroup g f).trip = s.trip := rfl
@[simp] theorem State.updGroup_out (s : State) (g : Group) (f : Group → Group) : (s.updGroup g f).out = s.out := rfl
@[simp] theorem State.updGroup_free (s : State) (g : Group) (f : Group → Group) : (s.updGroup g f).free = s.free := rfl

/-! ### State.freeGroup changes matrix alone -/

@[simp] theorem State.freeGroup_pending (s : State) (g : Group) : (s.freeGroup g).pending = s.pending := rfl
@[simp] theorem State.freeGroup_queues (s : State) (g : Group) : (s.freeGroup g).queues = s.queues := rfl
@[simp] theorem State.freeGroup_plans (s : State) (g : Group) : (s.freeGroup g).plans = s.plans := rfl
@[simp] theorem State.freeGroup_graph (s : State) (g : Group) : (s.freeGroup g).graph = s.graph := rfl
@[simp] theorem State.freeGroup_scatters (s : State) (g : Group) : (s.freeGroup g).scatters = s.scatters := rfl
@[simp] theorem State.freeGroup_num (s : State) (g : Group) : (s.freeGroup g).num = s.num := rfl
@[simp] theorem State.freeGroup_vec (s : State) (g : Group) : (s.freeGroup g).vec = s.vec := rfl
@[simp] theorem State.freeGroup_embed (s : State) (g : Group) : (s.freeGroup g).embed = s.embed := rfl
@[simp] theorem State.freeGroup_update (s : State) (g : Group) : (s.freeGroup g).update = s.update := rfl
@[simp] theorem State.freeGroup_link (s : State) (g : Group) : (s.freeGroup g).link = s.link := rfl
@[simp] theorem State.freeGroup_coll (s : State) (g : Group) : (s.freeGroup g).coll = s.coll := rfl
@[simp] theorem State.freeGroup_halt (s : State) (g : Group) : (s.freeGroup g).halt = s.halt := rfl
@[simp] theorem State.freeGroup_gddr (s : State) (g : Group) : (s.freeGroup g).gddr = s.gddr := rfl
@[simp] theorem State.freeGroup_mem (s : State) (g : Group) : (s.freeGroup g).mem = s.mem := rfl
@[simp] theorem State.freeGroup_ridges (s : State) (g : Group) : (s.freeGroup g).ridges = s.ridges := rfl
@[simp] theorem State.freeGroup_power (s : State) (g : Group) : (s.freeGroup g).power = s.power := rfl
@[simp] theorem State.freeGroup_health (s : State) (g : Group) : (s.freeGroup g).health = s.health := rfl
@[simp] theorem State.freeGroup_streams (s : State) (g : Group) : (s.freeGroup g).streams = s.streams := rfl
@[simp] theorem State.freeGroup_fuses (s : State) (g : Group) : (s.freeGroup g).fuses = s.fuses := rfl
@[simp] theorem State.freeGroup_flash (s : State) (g : Group) : (s.freeGroup g).flash = s.flash := rfl
@[simp] theorem State.freeGroup_boot (s : State) (g : Group) : (s.freeGroup g).boot = s.boot := rfl
@[simp] theorem State.freeGroup_sec (s : State) (g : Group) : (s.freeGroup g).sec = s.sec := rfl
@[simp] theorem State.freeGroup_host (s : State) (g : Group) : (s.freeGroup g).host = s.host := rfl
@[simp] theorem State.freeGroup_mgt (s : State) (g : Group) : (s.freeGroup g).mgt = s.mgt := rfl
@[simp] theorem State.freeGroup_trip (s : State) (g : Group) : (s.freeGroup g).trip = s.trip := rfl
@[simp] theorem State.freeGroup_out (s : State) (g : Group) : (s.freeGroup g).out = s.out := rfl
@[simp] theorem State.freeGroup_free (s : State) (g : Group) : (s.freeGroup g).free = s.free := rfl

/-! ### State.updParent changes graph alone -/

@[simp] theorem State.updParent_pending (s : State) (cmd pos : Nat) (f : HopParent → HopParent) : (s.updParent cmd pos f).pending = s.pending := rfl
@[simp] theorem State.updParent_queues (s : State) (cmd pos : Nat) (f : HopParent → HopParent) : (s.updParent cmd pos f).queues = s.queues := rfl
@[simp] theorem State.updParent_plans (s : State) (cmd pos : Nat) (f : HopParent → HopParent) : (s.updParent cmd pos f).plans = s.plans := rfl
@[simp] theorem State.updParent_scatters (s : State) (cmd pos : Nat) (f : HopParent → HopParent) : (s.updParent cmd pos f).scatters = s.scatters := rfl
@[simp] theorem State.updParent_matrix (s : State) (cmd pos : Nat) (f : HopParent → HopParent) : (s.updParent cmd pos f).matrix = s.matrix := rfl
@[simp] theorem State.updParent_num (s : State) (cmd pos : Nat) (f : HopParent → HopParent) : (s.updParent cmd pos f).num = s.num := rfl
@[simp] theorem State.updParent_vec (s : State) (cmd pos : Nat) (f : HopParent → HopParent) : (s.updParent cmd pos f).vec = s.vec := rfl
@[simp] theorem State.updParent_embed (s : State) (cmd pos : Nat) (f : HopParent → HopParent) : (s.updParent cmd pos f).embed = s.embed := rfl
@[simp] theorem State.updParent_update (s : State) (cmd pos : Nat) (f : HopParent → HopParent) : (s.updParent cmd pos f).update = s.update := rfl
@[simp] theorem State.updParent_link (s : State) (cmd pos : Nat) (f : HopParent → HopParent) : (s.updParent cmd pos f).link = s.link := rfl
@[simp] theorem State.updParent_coll (s : State) (cmd pos : Nat) (f : HopParent → HopParent) : (s.updParent cmd pos f).coll = s.coll := rfl
@[simp] theorem State.updParent_halt (s : State) (cmd pos : Nat) (f : HopParent → HopParent) : (s.updParent cmd pos f).halt = s.halt := rfl
@[simp] theorem State.updParent_gddr (s : State) (cmd pos : Nat) (f : HopParent → HopParent) : (s.updParent cmd pos f).gddr = s.gddr := rfl
@[simp] theorem State.updParent_mem (s : State) (cmd pos : Nat) (f : HopParent → HopParent) : (s.updParent cmd pos f).mem = s.mem := rfl
@[simp] theorem State.updParent_ridges (s : State) (cmd pos : Nat) (f : HopParent → HopParent) : (s.updParent cmd pos f).ridges = s.ridges := rfl
@[simp] theorem State.updParent_power (s : State) (cmd pos : Nat) (f : HopParent → HopParent) : (s.updParent cmd pos f).power = s.power := rfl
@[simp] theorem State.updParent_health (s : State) (cmd pos : Nat) (f : HopParent → HopParent) : (s.updParent cmd pos f).health = s.health := rfl
@[simp] theorem State.updParent_streams (s : State) (cmd pos : Nat) (f : HopParent → HopParent) : (s.updParent cmd pos f).streams = s.streams := rfl
@[simp] theorem State.updParent_fuses (s : State) (cmd pos : Nat) (f : HopParent → HopParent) : (s.updParent cmd pos f).fuses = s.fuses := rfl
@[simp] theorem State.updParent_flash (s : State) (cmd pos : Nat) (f : HopParent → HopParent) : (s.updParent cmd pos f).flash = s.flash := rfl
@[simp] theorem State.updParent_boot (s : State) (cmd pos : Nat) (f : HopParent → HopParent) : (s.updParent cmd pos f).boot = s.boot := rfl
@[simp] theorem State.updParent_sec (s : State) (cmd pos : Nat) (f : HopParent → HopParent) : (s.updParent cmd pos f).sec = s.sec := rfl
@[simp] theorem State.updParent_host (s : State) (cmd pos : Nat) (f : HopParent → HopParent) : (s.updParent cmd pos f).host = s.host := rfl
@[simp] theorem State.updParent_mgt (s : State) (cmd pos : Nat) (f : HopParent → HopParent) : (s.updParent cmd pos f).mgt = s.mgt := rfl
@[simp] theorem State.updParent_trip (s : State) (cmd pos : Nat) (f : HopParent → HopParent) : (s.updParent cmd pos f).trip = s.trip := rfl
@[simp] theorem State.updParent_out (s : State) (cmd pos : Nat) (f : HopParent → HopParent) : (s.updParent cmd pos f).out = s.out := rfl
@[simp] theorem State.updParent_free (s : State) (cmd pos : Nat) (f : HopParent → HopParent) : (s.updParent cmd pos f).free = s.free := rfl

/-! ### State.countNonfinite changes num alone -/

@[simp] theorem State.countNonfinite_pending (s : State) (n : Nat) : (s.countNonfinite n).pending = s.pending := by unfold State.countNonfinite; split <;> rfl
@[simp] theorem State.countNonfinite_queues (s : State) (n : Nat) : (s.countNonfinite n).queues = s.queues := by unfold State.countNonfinite; split <;> rfl
@[simp] theorem State.countNonfinite_plans (s : State) (n : Nat) : (s.countNonfinite n).plans = s.plans := by unfold State.countNonfinite; split <;> rfl
@[simp] theorem State.countNonfinite_graph (s : State) (n : Nat) : (s.countNonfinite n).graph = s.graph := by unfold State.countNonfinite; split <;> rfl
@[simp] theorem State.countNonfinite_scatters (s : State) (n : Nat) : (s.countNonfinite n).scatters = s.scatters := by unfold State.countNonfinite; split <;> rfl
@[simp] theorem State.countNonfinite_matrix (s : State) (n : Nat) : (s.countNonfinite n).matrix = s.matrix := by unfold State.countNonfinite; split <;> rfl
@[simp] theorem State.countNonfinite_vec (s : State) (n : Nat) : (s.countNonfinite n).vec = s.vec := by unfold State.countNonfinite; split <;> rfl
@[simp] theorem State.countNonfinite_embed (s : State) (n : Nat) : (s.countNonfinite n).embed = s.embed := by unfold State.countNonfinite; split <;> rfl
@[simp] theorem State.countNonfinite_update (s : State) (n : Nat) : (s.countNonfinite n).update = s.update := by unfold State.countNonfinite; split <;> rfl
@[simp] theorem State.countNonfinite_link (s : State) (n : Nat) : (s.countNonfinite n).link = s.link := by unfold State.countNonfinite; split <;> rfl
@[simp] theorem State.countNonfinite_coll (s : State) (n : Nat) : (s.countNonfinite n).coll = s.coll := by unfold State.countNonfinite; split <;> rfl
@[simp] theorem State.countNonfinite_halt (s : State) (n : Nat) : (s.countNonfinite n).halt = s.halt := by unfold State.countNonfinite; split <;> rfl
@[simp] theorem State.countNonfinite_gddr (s : State) (n : Nat) : (s.countNonfinite n).gddr = s.gddr := by unfold State.countNonfinite; split <;> rfl
@[simp] theorem State.countNonfinite_mem (s : State) (n : Nat) : (s.countNonfinite n).mem = s.mem := by unfold State.countNonfinite; split <;> rfl
@[simp] theorem State.countNonfinite_ridges (s : State) (n : Nat) : (s.countNonfinite n).ridges = s.ridges := by unfold State.countNonfinite; split <;> rfl
@[simp] theorem State.countNonfinite_power (s : State) (n : Nat) : (s.countNonfinite n).power = s.power := by unfold State.countNonfinite; split <;> rfl
@[simp] theorem State.countNonfinite_health (s : State) (n : Nat) : (s.countNonfinite n).health = s.health := by unfold State.countNonfinite; split <;> rfl
@[simp] theorem State.countNonfinite_streams (s : State) (n : Nat) : (s.countNonfinite n).streams = s.streams := by unfold State.countNonfinite; split <;> rfl
@[simp] theorem State.countNonfinite_fuses (s : State) (n : Nat) : (s.countNonfinite n).fuses = s.fuses := by unfold State.countNonfinite; split <;> rfl
@[simp] theorem State.countNonfinite_flash (s : State) (n : Nat) : (s.countNonfinite n).flash = s.flash := by unfold State.countNonfinite; split <;> rfl
@[simp] theorem State.countNonfinite_boot (s : State) (n : Nat) : (s.countNonfinite n).boot = s.boot := by unfold State.countNonfinite; split <;> rfl
@[simp] theorem State.countNonfinite_sec (s : State) (n : Nat) : (s.countNonfinite n).sec = s.sec := by unfold State.countNonfinite; split <;> rfl
@[simp] theorem State.countNonfinite_host (s : State) (n : Nat) : (s.countNonfinite n).host = s.host := by unfold State.countNonfinite; split <;> rfl
@[simp] theorem State.countNonfinite_mgt (s : State) (n : Nat) : (s.countNonfinite n).mgt = s.mgt := by unfold State.countNonfinite; split <;> rfl
@[simp] theorem State.countNonfinite_trip (s : State) (n : Nat) : (s.countNonfinite n).trip = s.trip := by unfold State.countNonfinite; split <;> rfl
@[simp] theorem State.countNonfinite_out (s : State) (n : Nat) : (s.countNonfinite n).out = s.out := by unfold State.countNonfinite; split <;> rfl
@[simp] theorem State.countNonfinite_free (s : State) (n : Nat) : (s.countNonfinite n).free = s.free := by unfold State.countNonfinite; split <;> rfl

/-! ### State.countConv changes num alone -/

@[simp] theorem State.countConv_pending (s : State) (c : Ctx) (k : ConvCount) : (s.countConv c k).pending = s.pending := by unfold State.countConv; split <;> rfl
@[simp] theorem State.countConv_queues (s : State) (c : Ctx) (k : ConvCount) : (s.countConv c k).queues = s.queues := by unfold State.countConv; split <;> rfl
@[simp] theorem State.countConv_plans (s : State) (c : Ctx) (k : ConvCount) : (s.countConv c k).plans = s.plans := by unfold State.countConv; split <;> rfl
@[simp] theorem State.countConv_graph (s : State) (c : Ctx) (k : ConvCount) : (s.countConv c k).graph = s.graph := by unfold State.countConv; split <;> rfl
@[simp] theorem State.countConv_scatters (s : State) (c : Ctx) (k : ConvCount) : (s.countConv c k).scatters = s.scatters := by unfold State.countConv; split <;> rfl
@[simp] theorem State.countConv_matrix (s : State) (c : Ctx) (k : ConvCount) : (s.countConv c k).matrix = s.matrix := by unfold State.countConv; split <;> rfl
@[simp] theorem State.countConv_vec (s : State) (c : Ctx) (k : ConvCount) : (s.countConv c k).vec = s.vec := by unfold State.countConv; split <;> rfl
@[simp] theorem State.countConv_embed (s : State) (c : Ctx) (k : ConvCount) : (s.countConv c k).embed = s.embed := by unfold State.countConv; split <;> rfl
@[simp] theorem State.countConv_update (s : State) (c : Ctx) (k : ConvCount) : (s.countConv c k).update = s.update := by unfold State.countConv; split <;> rfl
@[simp] theorem State.countConv_link (s : State) (c : Ctx) (k : ConvCount) : (s.countConv c k).link = s.link := by unfold State.countConv; split <;> rfl
@[simp] theorem State.countConv_coll (s : State) (c : Ctx) (k : ConvCount) : (s.countConv c k).coll = s.coll := by unfold State.countConv; split <;> rfl
@[simp] theorem State.countConv_halt (s : State) (c : Ctx) (k : ConvCount) : (s.countConv c k).halt = s.halt := by unfold State.countConv; split <;> rfl
@[simp] theorem State.countConv_gddr (s : State) (c : Ctx) (k : ConvCount) : (s.countConv c k).gddr = s.gddr := by unfold State.countConv; split <;> rfl
@[simp] theorem State.countConv_mem (s : State) (c : Ctx) (k : ConvCount) : (s.countConv c k).mem = s.mem := by unfold State.countConv; split <;> rfl
@[simp] theorem State.countConv_ridges (s : State) (c : Ctx) (k : ConvCount) : (s.countConv c k).ridges = s.ridges := by unfold State.countConv; split <;> rfl
@[simp] theorem State.countConv_power (s : State) (c : Ctx) (k : ConvCount) : (s.countConv c k).power = s.power := by unfold State.countConv; split <;> rfl
@[simp] theorem State.countConv_health (s : State) (c : Ctx) (k : ConvCount) : (s.countConv c k).health = s.health := by unfold State.countConv; split <;> rfl
@[simp] theorem State.countConv_streams (s : State) (c : Ctx) (k : ConvCount) : (s.countConv c k).streams = s.streams := by unfold State.countConv; split <;> rfl
@[simp] theorem State.countConv_fuses (s : State) (c : Ctx) (k : ConvCount) : (s.countConv c k).fuses = s.fuses := by unfold State.countConv; split <;> rfl
@[simp] theorem State.countConv_flash (s : State) (c : Ctx) (k : ConvCount) : (s.countConv c k).flash = s.flash := by unfold State.countConv; split <;> rfl
@[simp] theorem State.countConv_boot (s : State) (c : Ctx) (k : ConvCount) : (s.countConv c k).boot = s.boot := by unfold State.countConv; split <;> rfl
@[simp] theorem State.countConv_sec (s : State) (c : Ctx) (k : ConvCount) : (s.countConv c k).sec = s.sec := by unfold State.countConv; split <;> rfl
@[simp] theorem State.countConv_host (s : State) (c : Ctx) (k : ConvCount) : (s.countConv c k).host = s.host := by unfold State.countConv; split <;> rfl
@[simp] theorem State.countConv_mgt (s : State) (c : Ctx) (k : ConvCount) : (s.countConv c k).mgt = s.mgt := by unfold State.countConv; split <;> rfl
@[simp] theorem State.countConv_trip (s : State) (c : Ctx) (k : ConvCount) : (s.countConv c k).trip = s.trip := by unfold State.countConv; split <;> rfl
@[simp] theorem State.countConv_out (s : State) (c : Ctx) (k : ConvCount) : (s.countConv c k).out = s.out := by unfold State.countConv; split <;> rfl
@[simp] theorem State.countConv_free (s : State) (c : Ctx) (k : ConvCount) : (s.countConv c k).free = s.free := by unfold State.countConv; split <;> rfl

/-! ### State.addWait changes halt alone -/

@[simp] theorem State.addWait_pending (s : State) (k n : Nat) : (s.addWait k n).pending = s.pending := rfl
@[simp] theorem State.addWait_queues (s : State) (k n : Nat) : (s.addWait k n).queues = s.queues := rfl
@[simp] theorem State.addWait_plans (s : State) (k n : Nat) : (s.addWait k n).plans = s.plans := rfl
@[simp] theorem State.addWait_graph (s : State) (k n : Nat) : (s.addWait k n).graph = s.graph := rfl
@[simp] theorem State.addWait_scatters (s : State) (k n : Nat) : (s.addWait k n).scatters = s.scatters := rfl
@[simp] theorem State.addWait_matrix (s : State) (k n : Nat) : (s.addWait k n).matrix = s.matrix := rfl
@[simp] theorem State.addWait_num (s : State) (k n : Nat) : (s.addWait k n).num = s.num := rfl
@[simp] theorem State.addWait_vec (s : State) (k n : Nat) : (s.addWait k n).vec = s.vec := rfl
@[simp] theorem State.addWait_embed (s : State) (k n : Nat) : (s.addWait k n).embed = s.embed := rfl
@[simp] theorem State.addWait_update (s : State) (k n : Nat) : (s.addWait k n).update = s.update := rfl
@[simp] theorem State.addWait_link (s : State) (k n : Nat) : (s.addWait k n).link = s.link := rfl
@[simp] theorem State.addWait_coll (s : State) (k n : Nat) : (s.addWait k n).coll = s.coll := rfl
@[simp] theorem State.addWait_gddr (s : State) (k n : Nat) : (s.addWait k n).gddr = s.gddr := rfl
@[simp] theorem State.addWait_mem (s : State) (k n : Nat) : (s.addWait k n).mem = s.mem := rfl
@[simp] theorem State.addWait_ridges (s : State) (k n : Nat) : (s.addWait k n).ridges = s.ridges := rfl
@[simp] theorem State.addWait_power (s : State) (k n : Nat) : (s.addWait k n).power = s.power := rfl
@[simp] theorem State.addWait_health (s : State) (k n : Nat) : (s.addWait k n).health = s.health := rfl
@[simp] theorem State.addWait_streams (s : State) (k n : Nat) : (s.addWait k n).streams = s.streams := rfl
@[simp] theorem State.addWait_fuses (s : State) (k n : Nat) : (s.addWait k n).fuses = s.fuses := rfl
@[simp] theorem State.addWait_flash (s : State) (k n : Nat) : (s.addWait k n).flash = s.flash := rfl
@[simp] theorem State.addWait_boot (s : State) (k n : Nat) : (s.addWait k n).boot = s.boot := rfl
@[simp] theorem State.addWait_sec (s : State) (k n : Nat) : (s.addWait k n).sec = s.sec := rfl
@[simp] theorem State.addWait_host (s : State) (k n : Nat) : (s.addWait k n).host = s.host := rfl
@[simp] theorem State.addWait_mgt (s : State) (k n : Nat) : (s.addWait k n).mgt = s.mgt := rfl
@[simp] theorem State.addWait_trip (s : State) (k n : Nat) : (s.addWait k n).trip = s.trip := rfl
@[simp] theorem State.addWait_out (s : State) (k n : Nat) : (s.addWait k n).out = s.out := rfl
@[simp] theorem State.addWait_free (s : State) (k n : Nat) : (s.addWait k n).free = s.free := rfl

/-! ### State.setOtherSlot changes flash alone -/

@[simp] theorem State.setOtherSlot_pending (s : State) (img : List Byte) : (s.setOtherSlot img).pending = s.pending := rfl
@[simp] theorem State.setOtherSlot_queues (s : State) (img : List Byte) : (s.setOtherSlot img).queues = s.queues := rfl
@[simp] theorem State.setOtherSlot_plans (s : State) (img : List Byte) : (s.setOtherSlot img).plans = s.plans := rfl
@[simp] theorem State.setOtherSlot_graph (s : State) (img : List Byte) : (s.setOtherSlot img).graph = s.graph := rfl
@[simp] theorem State.setOtherSlot_scatters (s : State) (img : List Byte) : (s.setOtherSlot img).scatters = s.scatters := rfl
@[simp] theorem State.setOtherSlot_matrix (s : State) (img : List Byte) : (s.setOtherSlot img).matrix = s.matrix := rfl
@[simp] theorem State.setOtherSlot_num (s : State) (img : List Byte) : (s.setOtherSlot img).num = s.num := rfl
@[simp] theorem State.setOtherSlot_vec (s : State) (img : List Byte) : (s.setOtherSlot img).vec = s.vec := rfl
@[simp] theorem State.setOtherSlot_embed (s : State) (img : List Byte) : (s.setOtherSlot img).embed = s.embed := rfl
@[simp] theorem State.setOtherSlot_update (s : State) (img : List Byte) : (s.setOtherSlot img).update = s.update := rfl
@[simp] theorem State.setOtherSlot_link (s : State) (img : List Byte) : (s.setOtherSlot img).link = s.link := rfl
@[simp] theorem State.setOtherSlot_coll (s : State) (img : List Byte) : (s.setOtherSlot img).coll = s.coll := rfl
@[simp] theorem State.setOtherSlot_halt (s : State) (img : List Byte) : (s.setOtherSlot img).halt = s.halt := rfl
@[simp] theorem State.setOtherSlot_gddr (s : State) (img : List Byte) : (s.setOtherSlot img).gddr = s.gddr := rfl
@[simp] theorem State.setOtherSlot_mem (s : State) (img : List Byte) : (s.setOtherSlot img).mem = s.mem := rfl
@[simp] theorem State.setOtherSlot_ridges (s : State) (img : List Byte) : (s.setOtherSlot img).ridges = s.ridges := rfl
@[simp] theorem State.setOtherSlot_power (s : State) (img : List Byte) : (s.setOtherSlot img).power = s.power := rfl
@[simp] theorem State.setOtherSlot_health (s : State) (img : List Byte) : (s.setOtherSlot img).health = s.health := rfl
@[simp] theorem State.setOtherSlot_streams (s : State) (img : List Byte) : (s.setOtherSlot img).streams = s.streams := rfl
@[simp] theorem State.setOtherSlot_fuses (s : State) (img : List Byte) : (s.setOtherSlot img).fuses = s.fuses := rfl
@[simp] theorem State.setOtherSlot_boot (s : State) (img : List Byte) : (s.setOtherSlot img).boot = s.boot := rfl
@[simp] theorem State.setOtherSlot_sec (s : State) (img : List Byte) : (s.setOtherSlot img).sec = s.sec := rfl
@[simp] theorem State.setOtherSlot_host (s : State) (img : List Byte) : (s.setOtherSlot img).host = s.host := rfl
@[simp] theorem State.setOtherSlot_mgt (s : State) (img : List Byte) : (s.setOtherSlot img).mgt = s.mgt := rfl
@[simp] theorem State.setOtherSlot_trip (s : State) (img : List Byte) : (s.setOtherSlot img).trip = s.trip := rfl
@[simp] theorem State.setOtherSlot_out (s : State) (img : List Byte) : (s.setOtherSlot img).out = s.out := rfl
@[simp] theorem State.setOtherSlot_free (s : State) (img : List Byte) : (s.setOtherSlot img).free = s.free := rfl

/-! ### State.sendSlots changes link and out alone -/

@[simp] theorem State.sendSlots_pending (s : State) (p : Nat) (ls : List Nat) (f : CtlSlot → CtlSlot) : (s.sendSlots p ls f).pending = s.pending := by unfold State.sendSlots; split <;> rfl
@[simp] theorem State.sendSlots_queues (s : State) (p : Nat) (ls : List Nat) (f : CtlSlot → CtlSlot) : (s.sendSlots p ls f).queues = s.queues := by unfold State.sendSlots; split <;> rfl
@[simp] theorem State.sendSlots_plans (s : State) (p : Nat) (ls : List Nat) (f : CtlSlot → CtlSlot) : (s.sendSlots p ls f).plans = s.plans := by unfold State.sendSlots; split <;> rfl
@[simp] theorem State.sendSlots_graph (s : State) (p : Nat) (ls : List Nat) (f : CtlSlot → CtlSlot) : (s.sendSlots p ls f).graph = s.graph := by unfold State.sendSlots; split <;> rfl
@[simp] theorem State.sendSlots_scatters (s : State) (p : Nat) (ls : List Nat) (f : CtlSlot → CtlSlot) : (s.sendSlots p ls f).scatters = s.scatters := by unfold State.sendSlots; split <;> rfl
@[simp] theorem State.sendSlots_matrix (s : State) (p : Nat) (ls : List Nat) (f : CtlSlot → CtlSlot) : (s.sendSlots p ls f).matrix = s.matrix := by unfold State.sendSlots; split <;> rfl
@[simp] theorem State.sendSlots_num (s : State) (p : Nat) (ls : List Nat) (f : CtlSlot → CtlSlot) : (s.sendSlots p ls f).num = s.num := by unfold State.sendSlots; split <;> rfl
@[simp] theorem State.sendSlots_vec (s : State) (p : Nat) (ls : List Nat) (f : CtlSlot → CtlSlot) : (s.sendSlots p ls f).vec = s.vec := by unfold State.sendSlots; split <;> rfl
@[simp] theorem State.sendSlots_embed (s : State) (p : Nat) (ls : List Nat) (f : CtlSlot → CtlSlot) : (s.sendSlots p ls f).embed = s.embed := by unfold State.sendSlots; split <;> rfl
@[simp] theorem State.sendSlots_update (s : State) (p : Nat) (ls : List Nat) (f : CtlSlot → CtlSlot) : (s.sendSlots p ls f).update = s.update := by unfold State.sendSlots; split <;> rfl
@[simp] theorem State.sendSlots_coll (s : State) (p : Nat) (ls : List Nat) (f : CtlSlot → CtlSlot) : (s.sendSlots p ls f).coll = s.coll := by unfold State.sendSlots; split <;> rfl
@[simp] theorem State.sendSlots_halt (s : State) (p : Nat) (ls : List Nat) (f : CtlSlot → CtlSlot) : (s.sendSlots p ls f).halt = s.halt := by unfold State.sendSlots; split <;> rfl
@[simp] theorem State.sendSlots_gddr (s : State) (p : Nat) (ls : List Nat) (f : CtlSlot → CtlSlot) : (s.sendSlots p ls f).gddr = s.gddr := by unfold State.sendSlots; split <;> rfl
@[simp] theorem State.sendSlots_mem (s : State) (p : Nat) (ls : List Nat) (f : CtlSlot → CtlSlot) : (s.sendSlots p ls f).mem = s.mem := by unfold State.sendSlots; split <;> rfl
@[simp] theorem State.sendSlots_ridges (s : State) (p : Nat) (ls : List Nat) (f : CtlSlot → CtlSlot) : (s.sendSlots p ls f).ridges = s.ridges := by unfold State.sendSlots; split <;> rfl
@[simp] theorem State.sendSlots_power (s : State) (p : Nat) (ls : List Nat) (f : CtlSlot → CtlSlot) : (s.sendSlots p ls f).power = s.power := by unfold State.sendSlots; split <;> rfl
@[simp] theorem State.sendSlots_health (s : State) (p : Nat) (ls : List Nat) (f : CtlSlot → CtlSlot) : (s.sendSlots p ls f).health = s.health := by unfold State.sendSlots; split <;> rfl
@[simp] theorem State.sendSlots_streams (s : State) (p : Nat) (ls : List Nat) (f : CtlSlot → CtlSlot) : (s.sendSlots p ls f).streams = s.streams := by unfold State.sendSlots; split <;> rfl
@[simp] theorem State.sendSlots_fuses (s : State) (p : Nat) (ls : List Nat) (f : CtlSlot → CtlSlot) : (s.sendSlots p ls f).fuses = s.fuses := by unfold State.sendSlots; split <;> rfl
@[simp] theorem State.sendSlots_flash (s : State) (p : Nat) (ls : List Nat) (f : CtlSlot → CtlSlot) : (s.sendSlots p ls f).flash = s.flash := by unfold State.sendSlots; split <;> rfl
@[simp] theorem State.sendSlots_boot (s : State) (p : Nat) (ls : List Nat) (f : CtlSlot → CtlSlot) : (s.sendSlots p ls f).boot = s.boot := by unfold State.sendSlots; split <;> rfl
@[simp] theorem State.sendSlots_sec (s : State) (p : Nat) (ls : List Nat) (f : CtlSlot → CtlSlot) : (s.sendSlots p ls f).sec = s.sec := by unfold State.sendSlots; split <;> rfl
@[simp] theorem State.sendSlots_host (s : State) (p : Nat) (ls : List Nat) (f : CtlSlot → CtlSlot) : (s.sendSlots p ls f).host = s.host := by unfold State.sendSlots; split <;> rfl
@[simp] theorem State.sendSlots_mgt (s : State) (p : Nat) (ls : List Nat) (f : CtlSlot → CtlSlot) : (s.sendSlots p ls f).mgt = s.mgt := by unfold State.sendSlots; split <;> rfl
@[simp] theorem State.sendSlots_trip (s : State) (p : Nat) (ls : List Nat) (f : CtlSlot → CtlSlot) : (s.sendSlots p ls f).trip = s.trip := by unfold State.sendSlots; split <;> rfl
@[simp] theorem State.sendSlots_free (s : State) (p : Nat) (ls : List Nat) (f : CtlSlot → CtlSlot) : (s.sendSlots p ls f).free = s.free := by unfold State.sendSlots; split <;> rfl

/-! ### State.sendCells changes link and out alone -/

@[simp] theorem State.sendCells_pending (s : State) (p : Nat) (cells : List SentCell) : (s.sendCells p cells).pending = s.pending := by unfold State.sendCells; split <;> rfl
@[simp] theorem State.sendCells_queues (s : State) (p : Nat) (cells : List SentCell) : (s.sendCells p cells).queues = s.queues := by unfold State.sendCells; split <;> rfl
@[simp] theorem State.sendCells_plans (s : State) (p : Nat) (cells : List SentCell) : (s.sendCells p cells).plans = s.plans := by unfold State.sendCells; split <;> rfl
@[simp] theorem State.sendCells_graph (s : State) (p : Nat) (cells : List SentCell) : (s.sendCells p cells).graph = s.graph := by unfold State.sendCells; split <;> rfl
@[simp] theorem State.sendCells_scatters (s : State) (p : Nat) (cells : List SentCell) : (s.sendCells p cells).scatters = s.scatters := by unfold State.sendCells; split <;> rfl
@[simp] theorem State.sendCells_matrix (s : State) (p : Nat) (cells : List SentCell) : (s.sendCells p cells).matrix = s.matrix := by unfold State.sendCells; split <;> rfl
@[simp] theorem State.sendCells_num (s : State) (p : Nat) (cells : List SentCell) : (s.sendCells p cells).num = s.num := by unfold State.sendCells; split <;> rfl
@[simp] theorem State.sendCells_vec (s : State) (p : Nat) (cells : List SentCell) : (s.sendCells p cells).vec = s.vec := by unfold State.sendCells; split <;> rfl
@[simp] theorem State.sendCells_embed (s : State) (p : Nat) (cells : List SentCell) : (s.sendCells p cells).embed = s.embed := by unfold State.sendCells; split <;> rfl
@[simp] theorem State.sendCells_update (s : State) (p : Nat) (cells : List SentCell) : (s.sendCells p cells).update = s.update := by unfold State.sendCells; split <;> rfl
@[simp] theorem State.sendCells_coll (s : State) (p : Nat) (cells : List SentCell) : (s.sendCells p cells).coll = s.coll := by unfold State.sendCells; split <;> rfl
@[simp] theorem State.sendCells_halt (s : State) (p : Nat) (cells : List SentCell) : (s.sendCells p cells).halt = s.halt := by unfold State.sendCells; split <;> rfl
@[simp] theorem State.sendCells_gddr (s : State) (p : Nat) (cells : List SentCell) : (s.sendCells p cells).gddr = s.gddr := by unfold State.sendCells; split <;> rfl
@[simp] theorem State.sendCells_mem (s : State) (p : Nat) (cells : List SentCell) : (s.sendCells p cells).mem = s.mem := by unfold State.sendCells; split <;> rfl
@[simp] theorem State.sendCells_ridges (s : State) (p : Nat) (cells : List SentCell) : (s.sendCells p cells).ridges = s.ridges := by unfold State.sendCells; split <;> rfl
@[simp] theorem State.sendCells_power (s : State) (p : Nat) (cells : List SentCell) : (s.sendCells p cells).power = s.power := by unfold State.sendCells; split <;> rfl
@[simp] theorem State.sendCells_health (s : State) (p : Nat) (cells : List SentCell) : (s.sendCells p cells).health = s.health := by unfold State.sendCells; split <;> rfl
@[simp] theorem State.sendCells_streams (s : State) (p : Nat) (cells : List SentCell) : (s.sendCells p cells).streams = s.streams := by unfold State.sendCells; split <;> rfl
@[simp] theorem State.sendCells_fuses (s : State) (p : Nat) (cells : List SentCell) : (s.sendCells p cells).fuses = s.fuses := by unfold State.sendCells; split <;> rfl
@[simp] theorem State.sendCells_flash (s : State) (p : Nat) (cells : List SentCell) : (s.sendCells p cells).flash = s.flash := by unfold State.sendCells; split <;> rfl
@[simp] theorem State.sendCells_boot (s : State) (p : Nat) (cells : List SentCell) : (s.sendCells p cells).boot = s.boot := by unfold State.sendCells; split <;> rfl
@[simp] theorem State.sendCells_sec (s : State) (p : Nat) (cells : List SentCell) : (s.sendCells p cells).sec = s.sec := by unfold State.sendCells; split <;> rfl
@[simp] theorem State.sendCells_host (s : State) (p : Nat) (cells : List SentCell) : (s.sendCells p cells).host = s.host := by unfold State.sendCells; split <;> rfl
@[simp] theorem State.sendCells_mgt (s : State) (p : Nat) (cells : List SentCell) : (s.sendCells p cells).mgt = s.mgt := by unfold State.sendCells; split <;> rfl
@[simp] theorem State.sendCells_trip (s : State) (p : Nat) (cells : List SentCell) : (s.sendCells p cells).trip = s.trip := by unfold State.sendCells; split <;> rfl
@[simp] theorem State.sendCells_free (s : State) (p : Nat) (cells : List SentCell) : (s.sendCells p cells).free = s.free := by unfold State.sendCells; split <;> rfl

end Sys2Proof.Machine
end

