-- ==== Sys2Proof/Laws/Frame.lean ====
section
/-! SUPPORT. What the shared operations can do, said once: the frame in which a command runs, what follows every command, and the canonical form of memory through reads, writes and their counts. -/
namespace Sys2Proof.Machine

/-! ### The frame of a command -/

/-- A command that is not ready to start changes nothing. -/
theorem State.runCmd_waits {s : State} {i : OpInfo} {id : Nat} {e : State → Ctx → State × Option Result} (h : s.startable id i.code = none) : s.runCmd i id e = s := by
  simp only [State.runCmd, h]

/-- A command that fails a check ends with that check's result. -/
theorem State.runCmd_fails {s : State} {i : OpInfo} {id : Nat} {e : State → Ctx → State × Option Result} {k : Cmd} {r : Result}
    (h : s.startable id i.code = some k) (hr : i.check s (s.ctxOf k) = some r) : s.runCmd i id e = s.endCmd id r := by
  simp only [State.runCmd, h, hr]

/-- A ready command whose effect gives a result ends with it. -/
theorem State.runCmd_ends {s : State} {i : OpInfo} {id : Nat} {e : State → Ctx → State × Option Result} {c : Ctx} {u : State} {r : Result}
    (h : Ready s i id c) (he : e (s.begun id) c = (u, some r)) : s.runCmd i id e = u.endCmd id r := by
  obtain ⟨k, h1, rfl, h3⟩ := h
  simp only [State.runCmd, h1, h3]
  rw [show s.setStage id .running = s.begun id from rfl, he]

/-- A ready command whose effect gives no result runs on. -/
theorem State.runCmd_runs {s : State} {i : OpInfo} {id : Nat} {e : State → Ctx → State × Option Result} {c : Ctx} {u : State}
    (h : Ready s i id c) (he : e (s.begun id) c = (u, none)) : s.runCmd i id e = u := by
  obtain ⟨k, h1, rfl, h3⟩ := h
  simp only [State.runCmd, h1, h3]
  rw [show s.setStage id .running = s.begun id from rfl, he]

/-- The number in a ready command's frame is the command's own. -/
theorem Ready.ctx_id {s : State} {i : OpInfo} {id : Nat} {c : Ctx} (h : Ready s i id c) : c.id = id := by
  obtain ⟨k, h1, rfl, _⟩ := h
  simp only [State.startable] at h1
  split at h1
  · rename_i k' hk
    split at h1
    · cases h1
      have := List.find?_some hk
      exact beq_iff_eq.mp this
    · cases h1
  · cases h1

/-- An arm that runs a ready command whose effect gives a result ends the command with it. -/
theorem Ready.ends {i : Instr} {s : State} {id : Nat} {info : OpInfo} {c : Ctx} {e : State → Ctx → State × Option Result} {u : State} {r : Result}
    (h : Ready s info id c) (hx : exec i s = .next (s.settle (s.runCmd info id e))) (he : e (s.begun id) c = (u, some r)) : Ends i s id r u := by
  unfold Ends Runs; rw [hx, State.runCmd_ends h he]

/-- An arm that runs a ready command whose effect gives no result leaves that effect's state. -/
theorem Ready.runs {i : Instr} {s : State} {id : Nat} {info : OpInfo} {c : Ctx} {e : State → Ctx → State × Option Result} {u : State}
    (h : Ready s info id c) (hx : exec i s = .next (s.settle (s.runCmd info id e))) (he : e (s.begun id) c = (u, none)) : Runs i s u := by
  unfold Runs; rw [hx, State.runCmd_runs h he]

/-- Operands read without poison or an uncorrectable word leave no status. -/
theorem readStatus_good {r : ReadRes} (h : r.good = true) : readStatus r = none := by
  unfold readStatus
  simp only [ReadRes.good, Bool.and_eq_true, List.isEmpty_iff] at h
  simp [h]

/-- An arm that runs a ready vector command commits what the command computes. -/
theorem Ready.commits {i : Instr} {s : State} {id : Nat} {info : OpInfo} {c : Ctx} {e : State → Ctx → State × Option Result} {reads : List (Nat × Nat)} {o : VecOut}
    (h : Ready s info id c) (hx : exec i s = .next (s.settle (s.runCmd info id e))) (he : ∃ outs, e (s.begun id) c = (s.begun id).runVec c reads outs o) : Commits i s id c reads o := by
  obtain ⟨outs, he⟩ := he
  intro w hg hf hw hs
  have hr : readStatus ((s.begun id).readAll reads) = none := readStatus_good hg
  refine h.ends hx ?_
  subst hw
  rw [he]; unfold State.runVec
  simp only [hr, hf, hs]

/-! ### What follows every command -/

/-- A settled state has the queue of the state before. -/
@[simp] theorem State.settled_pending (s u : State) : (s.settled u).pending = s.pending := rfl

@[simp] theorem State.settle_pending (s u : State) : (s.settle u).pending = s.pending := by
  unfold State.settle; split <;> rfl

/-- While reset is asserted a command that leaves it asserted changes nothing. -/
theorem State.settle_reset {s u : State} (h : s.boot.inReset = true) (hu : u.boot.inReset = true) : s.settle u = s := by
  unfold State.settle; rw [h, hu]; rfl

/-- Out of reset a command's effect is settled. -/
theorem State.settle_live {s u : State} (h : s.boot.inReset = false) : s.settle u = s.settled u := by
  unfold State.settle; rw [h]; rfl

/-- MGT_ALERT_N takes no part in the attention bits. -/
@[simp] theorem State.pullAlert_attention (s : State) : s.pullAlert.attentionUnmasked = s.attentionUnmasked := by
  unfold State.pullAlert; split <;> rfl

/-- A run of operations of which each changes nothing changes nothing. -/
theorem foldl_same {α β : Type} {f : β → α → β} {b : β} (xs : List α) (h : ∀ x ∈ xs, f b x = b) : xs.foldl f b = b := by
  induction xs with
  | nil => rfl
  | cons x xs ih => rw [List.foldl_cons, h x (by simp)]; exact ih (fun y hy => h y (by simp [hy]))

theorem State.calm.quarantine {u : State} (h : u.calm) : u.serveQuarantine = u := by
  unfold State.serveQuarantine; rw [h.noFlag]; split <;> rfl

theorem State.calm.register {u : State} (h : u.calm) : u.leaveRegister = u := by
  unfold State.leaveRegister
  split
  · rfl
  · rw [List.map_congr_left h.modes, List.map_id']

theorem State.calm.barrier {u : State} (h : u.calm) : u.serveBarrier = u := by
  have a : u.reachBoundary = u := by unfold State.reachBoundary; rw [h.noStep]
  have b : u.takeEarly = u := by unfold State.takeEarly; rw [h.noBarrier]
  have c : u.climb = u := by unfold State.climb; rw [h.noStep]
  have d : u.finishAgree = u := by unfold State.finishAgree; rw [h.noStep]
  unfold State.serveBarrier; rw [a, b, c, d]

theorem State.calm.park {u : State} (h : u.calm) : u.servePark = u := by unfold State.servePark; rw [h.noPark]; rfl

theorem State.calm.auth {u : State} (h : u.calm) : u.serveAuth = u := by
  refine foldl_same _ fun p _ => ?_
  unfold State.beginAuth
  split
  · rfl
  · rename_i x hx
    refine if_pos ?_
    by_cases e : x.state = .auth
    · exact .inr (h.auths x (List.mem_of_find?_eq_some hx) e)
    · exact .inl e

theorem State.calm.posts {u : State} (h : u.calm) : u.servePosts = u := by
  unfold State.servePosts
  rw [show u.out.sent.length - u.link.posted + 65 = (u.out.sent.length - u.link.posted + 64) + 1 from rfl]
  unfold State.postAll
  rw [List.getElem?_eq_none h.posted]

theorem State.calm.noSlots {u : State} (h : u.calm) : u.serveSlots = u := by
  have : u.link.ports.filter Port.slotDue = [] := List.filter_eq_nil_iff.mpr (fun x hx => by simp [h.slots x hx])
  unfold State.serveSlots; rw [this]; rfl

/-- On a chip with nothing due, what follows every command has nothing to do. -/
theorem State.calm.served {u : State} (h : u.calm) : u.serveQuarantine.leaveRegister.serveBarrier.serveAuth.servePosts.servePark.serveSlots = u := by
  rw [h.quarantine, h.register, h.barrier, h.auth, h.posts, h.park, h.noSlots]

/-! ### Reads and writes keep memory's canonical form -/

/-- A telemetry record is written as whole words. -/
theorem State.telem_wf {s : State} (h : s.mem.wf = true) (ty island action cause : Nat) (body : List Byte) : (s.telem ty island action cause body).mem.wf = true := by
  unfold State.telem
  split
  · exact h
  · rename_i base n _ mask _
    dsimp only
    generalize (if s.health.head.toNat % (2 ^ n / 32) + (1 + body.length / 32) ≤ 2 ^ n / 32 then 0 else 2 ^ n / 32 - s.health.head.toNat % (2 ^ n / 32)) = pad
    split
    · exact h
    · split
      · exact h
      · refine Memory.putWords_wf ?_ _ _
        split
        · exact h
        · exact Memory.putWords_wf h _ _

theorem State.decision_wf {s : State} (h : s.mem.wf = true) (p sub : Nat) (vs : List Nat) (action cause : Nat) : (s.decision p sub vs action cause).mem.wf = true :=
  State.telem_wf h _ _ _ _ _

theorem State.chooseRow_wf {s : State} (h : s.mem.wf = true) (p ch row : Nat) : (s.chooseRow p ch row).mem.wf = true := by
  unfold State.chooseRow
  split
  · exact h
  · split
    · exact State.decision_wf h _ _ _ _ _
    · split
      · exact h
      · split
        · exact h
        · exact State.decision_wf (by exact h) _ _ _ _ _

theorem State.countRow_wf {s : State} (h : s.mem.wf = true) (p ch row : Nat) : (s.countRow p ch row).mem.wf = true := by
  unfold State.countRow
  split
  · exact h
  · dsimp only
    split
    · exact State.chooseRow_wf (by exact h) _ _ _
    · exact h

theorem State.flagBank_wf {s : State} (h : s.mem.wf = true) (ph b : Nat) : (s.flagBank ph b).mem.wf = true := by
  unfold State.flagBank
  dsimp only
  split
  · exact State.decision_wf (by exact h) _ _ _ _ _
  · split
    · exact h
    · exact State.decision_wf (by exact h) _ _ _ _ _

/-- The counts that follow from a word leave memory canonical. -/
theorem State.noteCorrected_wf {s : State} (h : s.mem.wf = true) (wa : Nat) : (s.noteCorrected wa).mem.wf = true := by
  unfold State.noteCorrected
  split
  · exact State.countRow_wf (by exact h) _ _ _
  · split
    · dsimp only
      split
      · exact State.flagBank_wf (by exact h) _ _
      · exact h
    · exact h

theorem State.noteUncorr_wf {s : State} (h : s.mem.wf = true) (wa : Nat) : (s.noteUncorr wa).mem.wf = true := by
  unfold State.noteUncorr
  split
  · exact State.chooseRow_wf (by exact h) _ _ _
  · split
    · exact State.flagBank_wf (by exact h) _ _
    · exact h

theorem State.notePoisoned_wf {s : State} (h : s.mem.wf = true) (wa : Nat) : (s.notePoisoned wa).mem.wf = true := by
  unfold State.notePoisoned
  dsimp only
  split
  · exact h
  · split <;> exact h

/-- A run of operations that each keep the canonical form keeps it. -/
theorem foldl_wf {α : Type} {f : State → α → State} (hf : ∀ (s : State) (x : α), s.mem.wf = true → (f s x).mem.wf = true) (xs : List α) {s : State} (h : s.mem.wf = true) :
    (xs.foldl f s).mem.wf = true := by
  induction xs generalizing s with
  | nil => exact h
  | cons x xs ih => exact ih (hf s x h)

/-- Everything that a read leaves behind. -/
theorem State.noteRead_wf {s : State} (h : s.mem.wf = true) (cls a n : Nat) : (s.noteRead cls a n).mem.wf = true := by
  unfold State.noteRead
  refine foldl_wf (fun s x hs => State.noteUncorr_wf hs x) _ (foldl_wf (fun s x hs => State.notePoisoned_wf hs x) _ (foldl_wf ?_ _ ?_))
  · intro s x hs
    exact State.noteCorrected_wf (Memory.repair_wf hs x) x
  · exact State.access_wf h _ _ _ _

theorem State.noteReads_wf {s : State} (h : s.mem.wf = true) (cls : Nat) (rs : List (Nat × Nat)) : (s.noteReads cls rs).mem.wf = true :=
  foldl_wf (fun _ x hs => State.noteRead_wf hs cls x.1 x.2) rs h

/-- A write by a command. -/
theorem State.store_wf {s : State} (h : s.mem.wf = true) (cls a : Nat) (bs : List Byte) : (s.store cls a bs).1.mem.wf = true := by
  unfold State.store
  refine foldl_wf (fun s x hs => State.noteUncorr_wf hs x) _ (foldl_wf (fun s x hs => State.notePoisoned_wf hs x) _ (foldl_wf (fun s x hs => State.noteCorrected_wf hs x) _ ?_))
  exact State.access_wf (s := { s with mem := (s.mem.write a bs).1 }) (Memory.write_wf h a bs) _ _ _ _

/-- Several writes in order. -/
theorem State.storeAll_wf {s : State} (h : s.mem.wf = true) (cls : Nat) (ws : List (Nat × List Byte)) : (s.storeAll cls ws).1.mem.wf = true := by
  unfold State.storeAll
  have key : ∀ (acc : State × WriteRes), acc.1.mem.wf = true →
      (ws.foldl (fun acc w => let r := acc.1.store cls w.1 w.2; (r.1, acc.2.append r.2)) acc).1.mem.wf = true := by
    induction ws with
    | nil => exact fun _ ha => ha
    | cons w ws ih => exact fun acc ha => ih _ (State.store_wf ha cls w.1 w.2)
  exact key _ h

/-- Output ranges marked poisoned. -/
theorem State.poisonRanges_wf {s : State} (h : s.mem.wf = true) (cls : Nat) (rs : List (Nat × Nat)) : (s.poisonRanges cls rs).mem.wf = true :=
  foldl_wf (fun s x hs => State.access_wf (s := { s with mem := s.mem.poison x.1 x.2 }) (Memory.poison_wf hs x.1 x.2) _ _ _ _) rs h

end Sys2Proof.Machine
end

