-- ==== Sys2Proof/Machine/Mesh.lean ====
section
/-! DEFINITION. The mesh of cols (R12, R13): where each block attaches, the path of a packet, the hops it takes, and the islands of the clocks (R14). -/
namespace Sys2Proof.Machine

/-- The blocks that attach to cols (R12): physical ridges, pairs of memory ports, pairs of cache slices, link groups, and the islands at the corners. -/
inductive MeshBlock where
  | ridge (r : Nat)
  | memPair (k : Nat)
  | slicePair (k : Nat)
  | linkGroup (g : Nat)
  | control
  | management
  | host
  deriving DecidableEq, Repr, Inhabited

/-- The channels of the mesh, the urgent one first at every col (R13). -/
inductive MeshChannel where
  | urgent | request | response
  deriving DecidableEq, Repr, Inhabited

/-- The memory-facing rows y = 1 to 8 of a side of the grid, from the first pair of memory ports and the first pair of slices of that side: three pairs of ports, two pairs of slices, three pairs of ports. -/
def sideBlock (pair slices y : Nat) : MeshBlock :=
  if y ≤ 3 then .memPair (pair + (y - 1)) else if y ≤ 5 then .slicePair (slices + (y - 4)) else .memPair (pair + (y - 3))

/-- The block at a col (R12). -/
def blockAt (x y : Nat) : Option MeshBlock :=
  if 9 < x ∨ 9 < y then none
  else if y = 0 ∧ (x = 0 ∨ x = 9) then some .control
  else if y = 9 ∧ x = 0 then some .management
  else if y = 9 ∧ x = 9 then some .host
  else if y = 0 then some (.linkGroup (x - 1))
  else if y = 9 then some (.linkGroup (7 + x))
  else if x = 0 then some (sideBlock 0 0 y)
  else if x = 9 then some (sideBlock 6 2 y)
  else some (.ridge (8 * (y - 1) + (x - 1)))

/-- The numbers from one coordinate towards another, the first left out. -/
def along (a b : Nat) : List Nat := if a ≤ b then (List.range (b - a)).map (fun i => a + 1 + i) else (List.range (a - b)).map (fun i => a - 1 - i)

/-- The cols that a packet crosses after its own: first along x, then along y (R13). -/
def meshPath (src dst : Nat × Nat) : List (Nat × Nat) := (along src.1 dst.1).map (fun x => (x, src.2)) ++ (along src.2 dst.2).map (fun y => (dst.1, y))

/-- The hops between two cols. -/
def meshHops (src dst : Nat × Nat) : Nat := (meshPath src dst).length

/-- The island number of a block's clock in a timestamp (R14); pairs of ports have two, from the first port on; slices run on the cols' clock. The host interface has no island of its own. -/
def islandOf : MeshBlock → Option Nat
  | .ridge r => some r
  | .memPair k => some (67 + 2 * k)
  | .slicePair _ => some 64
  | .linkGroup g => some (91 + g)
  | .control => some 65
  | .management => some 66
  | .host => none

end Sys2Proof.Machine
end

