-- ==== Sys2Proof/WellFormed.lean ====
section
/-! DEFINITION. Which commands are well-formed: every operand that the manual gives a width, a count or a range lies in it. A command outside it is nothing that a bus, a link or a timer can bring; exec gives it a
meaning all the same, and no meaning rests on this check. -/
namespace Sys2Proof

/-- A rank, a chip ID, a tenure: 16 bits. A TAG: 32 bits. -/
def isRank (n : Nat) : Bool := decide (n < 2 ^ 16)
def isTag (n : Nat) : Bool := decide (n < 2 ^ 32)

/-- A row of an embedding table: an 8-bit table ID and a 48-bit key. -/
def isRow (table key : Nat) : Bool := decide (table < 256) && decide (key < 2 ^ 48)

/-- A link port, a lane or a physical ridge: 0 to 63. A GDDR-7 port: 0 to 23. -/
def isPort (n : Nat) : Bool := decide (n < 64)
def isMemPort (n : Nat) : Bool := decide (n < 24)

/-- The field widths of an expansion request (R93). -/
def ExpReq.wf (r : ExpReq) : Bool :=
  decide (r.node < 2 ^ 48) && decide (r.hop < 256) && decide (r.kind ≤ 5) && decide (r.fanOut < 2 ^ 16) && decide (r.shard < 256) && isTag r.step && decide (r.key < 2 ^ 64) && isTag r.stream && isTag r.tag

/-- Of a path-log entry (R89) and an expansion response (R95). -/
def PathEntry.wf (e : PathEntry) : Bool := decide (e.node < 2 ^ 48) && decide (e.edgeType < 2 ^ 16) && isTag e.parentPos && isTag e.edgePos
def ExpResp.wf (r : ExpResp) : Bool := isTag r.tag && decide (r.detail < 256) && decide (r.entries.length ≤ 256) && r.entries.all PathEntry.wf

/-- Of a row request and its response (R114, R115). -/
def RowReq.wf (r : RowReq) : Bool := decide (r.node < 2 ^ 48) && decide (r.ftable < 256) && isTag r.step && isTag r.tag
def RowResp.wf (r : RowResp) : Bool := isTag r.tag && decide (r.count < 2 ^ 16) && decide (r.detail < 256)

/-- Of a lookup request and its response (R282, R283). -/
def LookupReq.wf (r : LookupReq) : Bool := isRow r.table r.key && isRank r.tenure && decide (r.pool < 256) && isTag r.step && isTag r.tag && r.via.all isRank
def LookupResp.wf (r : LookupResp) : Bool := isTag r.tag && decide (r.count < 2 ^ 16) && decide (r.detail < 256) && isRank r.owner && isRank r.tenure && r.via.all isRank

/-- Of a contribution (R289). -/
def Contribution.wf (c : Contribution) : Bool := isRow c.table c.key && decide (c.kind ≤ 2) && isRank c.tenure && isRank c.origin && isTag c.seq

/-- Of a flag (R381). -/
def Flag.wf (f : Flag) : Bool := isRank f.src && isTag f.step && decide (f.kind ≤ 3) && isRank f.slowRank

/-- Of a piece of a collective (R375): whole 32-byte units but for the last. -/
def Piece.wf (p : Piece) : Bool :=
  isRank p.src && isRank p.dest && decide (1 ≤ p.proto) && decide (p.proto ≤ 3) && isTag p.step && decide (p.dim < 4) && decide (p.queue < 8) && isRank p.collId && decide (p.offset < 2 ^ 37)
    && decide (p.data.length ≤ 2 ^ 20)

/-- Of a halt cell (R387). -/
def HaltCell.wf (c : HaltCell) : Bool := isRank c.src && decide (c.hops < 128) && isRank c.origin

/-- Of a packet (R344): its payload fills ceil(BYTES / 32) words of 36 symbols. -/
def Packet.wf (p : Packet) : Bool :=
  isRank p.dest && isRank p.src && decide (p.vc < 8) && decide (p.hops < 128) && decide (p.bytes ≤ 4096) && isRank p.batch && isRank p.part && isRank p.proto && decide (p.inline.length ≤ 13)
    && decide (p.words.length = (p.bytes + 31) / 32) && p.words.all (fun w => decide (w.length = 36))

/-- Of a control slot (R342). -/
def CtlSlot.wf (c : CtlSlot) : Bool :=
  decide (c.lane < 256) && decide (c.width < 256) && decide (c.state < 256) && isTag c.ackSeq && isTag c.nakSeq && decide (c.credit.length = 12) && c.credit.all (fun n => decide (n < 256))
    && decide (c.lost < 256) && decide (c.switchIn < 256)

/-- Of a handshake (R338): a port, a width code, and lists of at most eight lanes. -/
def TrainResult.wf (r : TrainResult) : Bool :=
  isRank r.peerId && isPort r.peerPort && decide (r.peerWidth ≤ 4) && decide (r.peerFit.length ≤ 8) && decide (r.corrected.length ≤ 8) && decide (r.uncorrectable.length ≤ 8) && decide (r.inverted.length ≤ 8)

/-- A command is well-formed. -/
def Instr.wf : Instr → Bool
  | .sysNop _ => true
  | .sysQueueCreate _ => true
  | .sysQueueDelete _ => true
  | .sysQueueFlush _ => true
  | .sysInfo _ => true
  | .sysDeadlines _ => true
  | .planLoad _ => true
  | .planUnload _ => true
  | .stepRun _ => true
  | .planBarrier _ => true
  | .planAgree _ => true
  | .graphShardSet _ => true
  | .graphShardClear _ => true
  | .graphJob _ => true
  | .graphSample _ => true
  | .graphAliasRebuild _ => true
  | .graphAliasConfig _ => true
  | .graphAliasStatus _ => true
  | .graphFeatureSet _ => true
  | .graphFeatureClear _ => true
  | .graphGather _ => true
  | .graphAggregate _ => true
  | .graphAggregateBwd _ => true
  | .graphScatter _ => true
  | .matrixAccOpen _ => true
  | .matrixAccClose _ => true
  | .matrixAccDiscard _ => true
  | .matrixAccStatus _ => true
  | .matrixMatmul _ => true
  | .cfgWide _ => true
  | .cfgScalePool _ => true
  | .cfgRatioSet _ => true
  | .cfgNumRead _ => true
  | .vecMap _ => true
  | .vecReduce _ => true
  | .vecNorm _ => true
  | .vecNormBwd _ => true
  | .vecSoftmax _ => true
  | .vecLoss _ => true
  | .vecDropout _ => true
  | .vecInit _ => true
  | .vecRandomBits _ => true
  | .vecGumbel _ => true
  | .funcApply _ => true
  | .funcDeriv _ => true
  | .funcLoadPair _ => true
  | .funcClearPair _ => true
  | .funcReadPair _ => true
  | .vecRngSeed _ => true
  | .sparseMatmul _ => true
  | .sparseAccOpen _ => true
  | .sparseSkim _ => true
  | .sparseExpand _ => true
  | .sparseCheck _ => true
  | .embedTableSet _ => true
  | .embedTableClear _ => true
  | .embedPolicy _ => true
  | .embedLookup _ => true
  | .embedLookupBwd _ => true
  | .embedApply _ => true
  | .updateShardSet _ => true
  | .updateShardClear _ => true
  | .updateHyperTable _ => true
  | .updateStepSet _ => true
  | .updateRun _ => true
  | .cfgLinkPorts _ => true
  | .cfgLinkRoute _ => true
  | .cfgLinkRanks _ => true
  | .cfgLinkPolicy _ => true
  | .cfgLinkRetrain _ => true
  | .collConfig _ => true
  | .collReduceScatter _ => true
  | .collAllGather _ => true
  | .collAllReduce _ => true
  | .collAllToAll _ => true
  | .memInfo _ => true
  | .memShare _ => true
  | .memPolicy _ => true
  | .memRemapRead _ => true
  | .memRetrain _ => true
  | .memCacheSplit _ => true
  | .memCacheFlush _ => true
  | .memStackArea _ => true
  | .memCopy _ => true
  | .memFill _ => true
  | .memAtomic _ => true
  | .powerCap _ => true
  | .powerClock _ => true
  | .powerHint _ => true
  | .healthPolicy _ => true
  | .healthTest _ => true
  | .healthClearHalt _ _ => true
  | .healthRetire _ => true
  | .telemRing _ => true
  | .telemCounters _ => true
  | .ctxSize _ => true
  | .ctxSave _ => true
  | .ctxRestore _ => true
  | .cfgStaezRead _ => true
  | .cfgStaezWrite _ => true
  | .cfgCairnRead _ => true
  | .cfgBootClear _ => true
  | .secCertRead _ => true
  | .secQuote _ => true
  | .secExtend _ => true
  | .secImageWrite _ => true
  | .secImageStatus _ => true
  | .secFuseCommit _ => true
  | .secCustomerKey _ => true
  | .secDebugChallenge _ => true
  | .secDebugUnlock _ => true
  | .jtagDebugUnlock _ => true
  | .jtagChipReset => true
  | .hstSqDoorbell q _ => decide (q < 64)
  | .takePacket q => decide (q < 64)
  | .deferredStart _ => true
  | .commandComplete _ _ => true
  | .commandDeadline _ => true
  | .popReply q offset length => decide (q < 64) && decide (offset + length ≤ 0x1000)
  | .rqStall q => decide (q < 64)
  | .responseCoalesceTimer q => decide (q < 64)
  | .stepBegin => true
  | .planEntryStart _ => true
  | .planEntryComplete _ => true
  | .stepDeadline => true
  | .hopComplete _ => true
  | .batchSendTimer owner => isRank owner
  | .expansionRequest src r => isRank src && r.wf
  | .expansionResponse src r => isRank src && r.wf
  | .rowRequest src rs => isRank src && rs.all RowReq.wf
  | .rowResponse src r => isRank src && r.wf
  | .lookupRequest src rs => isRank src && rs.all LookupReq.wf
  | .lookupResponse src r => isRank src && r.wf
  | .contributionReceive src c => isRank src && c.wf
  | .contributionAck src tag _ => isRank src && isTag tag
  | .scatterBarrierPass => true
  | .updateBarrierPass => true
  | .subscriptionRequest src table key => isRank src && isRow table key
  | .migrationCopy m => isRank m.src && isRow m.table m.key && isRank m.tenure
  | .migrationAck src table key _ => isRank src && isRow table key
  | .relocationNotice r => isRow r.table r.key && isRank r.owner && isRank r.tenure
  | .replicaRefresh src table key tenure _ => isRank src && isRow table key && isRank tenure
  | .stepBoundary => true
  | .barrierDeadline => true
  | .barrierFlagReceive f _ => f.wf
  | .collPieceReceive p => p.wf
  | .collEntryTransferStart _ => true
  | .collComplete _ _ => true
  | .haltCellReceive port c => isPort port && c.wf
  | .hstHaltReq _ => true
  | .aliasRebuildFinish shard => decide (shard < 256)
  | .aliasRebuildFail shard _ => decide (shard < 256)
  | .domainOnDone ridge => isPort ridge
  | .matrixDomainIdleOff ridge => isPort ridge
  | .cellReceive lane seq symbols => isPort lane && decide (seq < 2 ^ 32) && decide (symbols.length = 36)
  | .controlSlotReceive slotLane c => isPort slotLane && c.wf
  | .replayTimer port => isPort port
  | .laneLossOfLock lane => isPort lane
  | .widthSwitch port => isPort port
  | .restripeDone port => isPort port
  | .laneMarginal lane _ _ _ => isPort lane
  | .laneRejoin t => isPort t.lane
  | .packetReceive port p => isPort port && p.wf
  | .escapeWait port vc => isPort port && decide (vc < 8)
  | .batchReassembled src vc tag => isRank src && decide (vc < 8) && isRank tag
  | .cablePresenceChange group _ => decide (group < 16)
  | .trainingAttempt port => isPort port
  | .trainingComplete port r => isPort port && r.wf
  | .trainingDeadline port => isPort port
  | .trainingRetryTimer port => isPort port
  | .authMessageReceive port _ => isPort port
  | .authTimeout port => isPort port
  | .gatewayAck chip tag _ _ => isRank chip && isTag tag
  | .gatewayReadData chip tag _ _ _ _ => isRank chip && isTag tag
  | .paceTagTick _ => true
  | .estimatorTick _ => true
  | .calibrationTick _ _ _ _ _ => true
  | .governorTick => true
  | .railSettled => true
  | .droopDetect ridge => isPort ridge
  | .droopStretchEnd ridge => isPort ridge
  | .guardWindow _ _ => true
  | .junctionSensorRead readings => decide (readings.length ≤ 168)
  | .thermalTrip sensor _ => decide (sensor < 168)
  | .tripPowerOff => true
  | .railFault => true
  | .refclkLoss => true
  | .stewardHeartbeatTimeout => true
  | .memTempRead port _ => isMemPort port
  | .memTimingSample port _ => isMemPort port
  | .memPortRetrainDone port _ _ => isMemPort port
  | .memWriteBatchSend channel => decide (channel < 96)
  | .addBufferEvict port _ => isMemPort port
  | .memorySideAdd _ r => decide (r.addr % 32 = 0) && decide (r.addends.length = 32)
  | .sliceAtomic _ _ => true
  | .rowRemap port => isMemPort port
  | .remapFlashWrite => true
  | .gddrScrub port channel _ => isMemPort port && decide (channel < 4)
  | .scratchPatrol ridge _ => isPort ridge
  | .cachePatrol slice _ => decide (slice < 8)
  | .quarantineCopyDone => true
  | .selfTestDone _ _ => true
  | .imageWriteDone _ => true
  | .flashSectorEraseDone => true
  | .hstTelemTail _ => true
  | .iiqWrite _ data _ _ => decide (data.length = 32) || decide (data.length = 36)
  | .iiqRead _ => true
  | .iiqFlush _ => true
  | .windowRead offset length => decide (offset + length ≤ 0x20000000)
  | .windowWrite offset data => decide (offset + data.length ≤ 0x20000000)
  | .hstReset _ => true
  | .serviceLocateWrite _ => true
  | .parkCancel => true
  | .mailboxGo _ => true
  | .mailboxDone _ _ => true
  | .rcRead offset length => decide (offset + length ≤ 0x400000)
  | .registerWrite offset data => decide (offset + data.length ≤ 0x400000)
  | .configRequest r => decide (r.offset < 4096) && decide (r.offset % 4 = 0)
  | .d3hotEntry => true
  | .d0Return => true
  | .mgtId => true
  | .mgtBoot => true
  | .mgtTemp => true
  | .mgtPower => true
  | .mgtBoardCap _ _ _ => true
  | .mgtEstop _ _ => true
  | .mgtReset _ _ => true
  | .mgtLocate _ _ _ => true
  | .mgtAttn _ _ _ => true
  | .mgtAttnMask _ _ _ => true
  | .mgtBootClear data _ => decide (data.length = 3)
  | .mgtStaezData _ data _ => decide (data.length = 16)
  | .mgtStaezCommit _ _ => true
  | .mgtStaezStatus => true
  | .mgtCairnLast => true
  | .mgtCairnLastHi => true
  | .mgtAlertRelease => true
  | .buttonPress => true
  | .buttonRelease _ => true
  | .buttonHold => true
  | .ledShift => true
  | .powerOnReset => true
  | .pcieReset => true
  | .resetRelease => true
  | .bootStepStart _ => true
  | .bootStepEnd _ _ => true
  | .bootStepTimeout _ => true
  | .bootPolicyReset => true
  | .bootWatchdog => true
  | .coreFault => true
  | .iiqPointerSync _ _ => true
  | .droopCleared => true
  | .smbusClockTimeout => true
  | .mgtStaezWriteDone => true
  | .subscriptionRefused src table key => isRank src && isRow table key
  | .unsubscribe src table key => isRank src && isRow table key

end Sys2Proof
end

