-- ==== Sys2Proof/Tests/Slice0.lean ====
section
/-! SUPPORT. Checks of the model on small fixed inputs: ill-formed commands refused, worked examples of the manual, and for every statement a concrete state and operands that meet its hypotheses together. -/
set_option Elab.async false

namespace Sys2Proof.Tests
open Sys2Proof Sys2Proof.Machine

/-- A packet of n bytes with an opcode, its PARAM_LENGTH, and fields given as offset, bytes and value. -/
def pkt (code n : Nat) (fs : List (Nat × Nat × Nat)) : List Byte :=
  fs.foldl (fun p f => splice p f.1 (toLE f.2.1 f.2.2)) (splice (splice (zeros n) 0 (toLE 4 (code + 0x1000000))) 8 (toLE 4 (n - 64)))

/-- Eight ridges, two memory ports, READY. -/
def sBase : State :=
  { State.reset with
    boot := { State.reset.boot with inReset := false, state := .ready }
    ridges := (List.range 8).map (fun i => { Ridge.blank i with enabled := true, registerMode := false })
    gddr := { State.reset.gddr with ports := (List.range 2).map (fun i => { MemPort.blank i with present := true }) } }

/-- The base state with commands in flight. -/
def withCmds (s : State) (cs : List Cmd) : State := { s with queues := { s.queues with cmds := cs, nextId := 100 } }

/-- The frame of a command in flight. -/
def ctxAt (s : State) (id : Nat) : Ctx := s.ctxOf ((s.cmd? id).getD default)

/-- Whether the command 1 of a state is ready, with a further condition on its frame. -/
def met (s : State) (i : OpInfo) (h : Ctx → Bool := fun _ => true) : Bool :=
  match s.startable 1 i.code with
  | some k => (i.check s (s.ctxOf k)).isNone && h (s.ctxOf k)
  | none => false

/-- What met decides: some frame meets the hypothesis that the command is ready, and the further condition. -/
theorem met_ready {s : State} {i : OpInfo} {h : Ctx → Bool} (w : met s i h = true) : ∃ c, Ready s i 1 c ∧ h c = true := by
  unfold met at w
  cases hs : s.startable 1 i.code with
  | none => simp [hs] at w
  | some k =>
    simp only [hs, Bool.and_eq_true] at w
    exact ⟨s.ctxOf k, ⟨k, hs, rfl, by simpa using w.1⟩, w.2⟩

/-- Command 1 has ended, with a result that passes a test, after a command row. -/
def ends (i : Instr) (s : State) (p : Result → Bool := fun r => r.status == stOK) : Bool :=
  match exec i s with
  | .next t => (t.cmd? 1).any (fun c => match c.stage with
    | .ended r => p r
    | _ => false)
  | _ => false

/-- The base state with one packet taken from queue 0, as command 1. -/
def sCmd (p : List Byte) : State := withCmds sBase [⟨1, .queue 0, p, .taken, 0⟩]

/-- Such a state changed. -/
def sOn (f : State → State) (p : List Byte) : State := withCmds (f sBase) [⟨1, .queue 0, p, .taken, 0⟩]

/-- Two queues beside which a command may be created or deleted. -/
def withQueues (s : State) : State :=
  { s with queues := { s.queues with
      subs := [⟨0, 12, 0, 0, false, 0, false, 0, false, none⟩, ⟨3, 12, 4096, 4, false, 0, false, 0, false, none⟩]
      resps := [⟨0, 12, 8192, false, 1, 0, [], 0, 0⟩, ⟨4, 12, 12288, false, 1, 0, [], 0, 0⟩] } }

/-- Bytes written to memory. -/
def withMem (ws : List (Nat × List Byte)) (s : State) : State := { s with mem := { s.mem with cells := ws.foldl (fun cs w => cellWrite cs w.1 w.2) s.mem.cells } }

/-- Bytes given as fields of a record of n bytes. -/
def rec (n : Nat) (fs : List (Nat × Nat × Nat)) : List Byte := fs.foldl (fun p f => splice p f.1 (toLE f.2.1 f.2.2)) (zeros n)

/-- A plan of one branch with the given entries as a step runs it for command 9. -/
def planWith (es : List PlanEntry) : Plan := ⟨7, 64, [], 0, [⟨1, 0, List.range 8⟩], es⟩
def runWith (es : List PlanEntry) (st : List EntryState) : StepRun := ⟨9, planWith es, 1000, st, 0, 0, 0, none, false, false, []⟩
def withStep (es : List PlanEntry) (st : List EntryState) (s : State) : State := { s with plans := { s.plans with store := [planWith es], step := some (runWith es st) } }

/-- A step-level entry. -/
def entryOf (p : List Byte) : PlanEntry := ⟨0xFF, 0, 0, none, none, false, p⟩

/-- Command 1 as entry 0 of a running step. -/
def sPlan (p : List Byte) : State := withCmds (withStep [entryOf p] [.running 1] sBase) [⟨1, .plan 0, p, .taken, 0⟩]

/-- A job of one chip. -/
def withJob (n : Nat) (s : State) : State := { s with graph := { s.graph with job := some (n, 0), ranks := some (List.range n) } }

/-! ### SYS, PLAN, STEP -/


theorem test_sysNop : met (sCmd (pkt 0x0001 64 [])) sysNopInfo = true := by decide +kernel
theorem test_sysInfo : met (sCmd (pkt 0x0020 64 [])) sysInfoInfo = true := by decide +kernel
theorem test_sysQueueCreate_sub : met (sOn withQueues (pkt 0x0010 64 [(33, 1, 63), (34, 1, 12), (36, 4, 0x10000)])) sysQueueCreateInfo (fun c => c.f 32 1 == 0) = true := by decide +kernel
theorem test_sysQueueCreate_resp : met (sOn withQueues (pkt 0x0010 64 [(32, 1, 1), (33, 1, 1), (34, 1, 20), (35, 1, 1), (36, 4, 0x700000), (40, 2, 256)])) sysQueueCreateInfo (fun c => c.f 32 1 == 1) = true := by decide +kernel
theorem test_sysQueueDelete_resp : met (sOn withQueues (pkt 0x0011 64 [(32, 1, 1), (33, 1, 4)])) sysQueueDeleteInfo (fun c => c.f 32 1 == 1) = true := by decide +kernel
def sDelete (other : Nat) : State := withCmds (withQueues sBase) [⟨1, .queue 0, pkt 0x0011 64 [(33, 1, 3)], .taken, 0⟩, ⟨2, .queue other, pkt 0x0001 64 [], .running, 0⟩]
theorem test_sysQueueDelete_now : met (sDelete 0) sysQueueDeleteInfo (fun c => c.f 32 1 == 0 && ((sDelete 0).begun 1).queues.cmds.all (fun d => d.src != .queue (c.f 33 1) || d.id == c.id)) = true := by decide +kernel
theorem test_sysQueueDelete_waits : met (sDelete 3) sysQueueDeleteInfo (fun c => c.f 32 1 == 0 && ((sDelete 3).begun 1).queues.cmds.any (fun d => d.src == .queue (c.f 33 1) && d.id != c.id)) = true := by decide +kernel
theorem test_sysQueueFlush_resp : met (sOn withQueues (pkt 0x0012 64 [(32, 1, 1), (33, 1, 0)])) sysQueueFlushInfo (fun c => c.f 32 1 == 1) = true := by decide +kernel
theorem test_sysQueueFlush_sub : met (sOn withQueues (pkt 0x0012 64 [(33, 1, 3)])) sysQueueFlushInfo (fun c => c.f 32 1 == 0 && ((withQueues sBase).sub? (c.f 33 1)).isSome) = true := by decide +kernel
theorem test_sysDeadlines : met (sCmd (pkt 0x0030 96 ((deadlineMaxima.zipIdx).map (fun (v, i) => (32 + 4 * i, 4, v))))) sysDeadlinesInfo = true := by decide +kernel
/-- A plan image of one entry: a scatter barrier. -/
def barrierImage : List Byte :=
  let body := rec 64 [(0, 4, 0x4E4C5054), (4, 2, 1), (6, 1, 1), (8, 4, 1), (12, 4, 160), (32, 1, 1)] ++ rec 16 [(0, 1, 0xFF), (8, 4, 64)] ++ pkt 0xF020 64 [] ++ zeros 16
  splice body 16 (toLE 4 (crc32 body))
def sLoad : State := sOn (withMem [(gddrBase, barrierImage)]) (pkt 0xF001 64 [(32, 8, gddrBase), (40, 4, 160), (44, 1, 63)])
theorem test_planLoad : met sLoad planLoadInfo (fun c => decide ((sLoad.read (c.f 32 8) (c.f 40 4)).good = true ∧ headerOk (sLoad.read (c.f 32 8) (c.f 40 4)).data sLoad.E = true ∧
  ((sLoad.begun 1).scanImage (sLoad.read (c.f 32 8) (c.f 40 4)).data).isRight = true ∧ sLoad.storeUsed (c.f 44 1) + 160 ≤ 32 * 2 ^ 20 ∧ sLoad.planRunning (c.f 44 1) = false)) = true := by decide +kernel
def sUnload : State := withCmds (withStep [] [] sBase) [⟨1, .queue 0, pkt 0xF002 64 [(32, 1, 7)], .taken, 0⟩]
theorem test_planUnload : met (sCmd (pkt 0xF002 64 [(32, 1, 63)])) planUnloadInfo (fun c => decide ((sCmd (pkt 0xF002 64 [(32, 1, 63)])).planRunning (c.f 32 1) = false)) = true := by decide +kernel
theorem test_planUnload_busy : met sUnload planUnloadInfo (fun c => decide (sUnload.planRunning (c.f 32 1) = true)) = true := by decide +kernel
def sRun (parked : Bool) : State :=
  let s := withJob 1 sBase
  withCmds { s with plans := { s.plans with store := [planWith []] }, host := { s.host with parked := parked } } [⟨1, .queue 0, pkt 0xF010 64 [(32, 1, 7)], .taken, 0⟩]
theorem test_stepRun : ∀ b, met (sRun b) stepRunInfo (fun c => decide ((∃ p ∈ (sRun b).plans.store, p.id = c.f 32 1) ∧ (sRun b).jobReady = true ∧ (sRun b).host.parked = b)) = true := by decide +kernel
theorem test_planBarrier : met (sPlan (pkt 0xF020 64 [(32, 1, 1)])) planBarrierInfo (fun c => decide ((sPlan (pkt 0xF020 64 [(32, 1, 1)])).barrierHeld 1 = false ∧ c.inPlan = true ∧ c.f 32 1 = 1)) = true := by decide +kernel
theorem test_planBarrier_scatter : met (sPlan (pkt 0xF020 64 [])) planBarrierInfo (fun c => decide ((sPlan (pkt 0xF020 64 [])).barrierHeld 1 = false ∧ c.inPlan = true ∧ c.f 32 1 = 0)) = true := by decide +kernel
/-- A barrier or an agreement submitted directly may start, and passes the checks of its packet. -/
def refusedDirect (i : OpInfo) : Bool := let s := sCmd (pkt i.code 64 []); (s.startable 1 i.code).any (fun k => !s.barrierHeld 1 && !(s.ctxOf k).inPlan && (i.staticCheck k.pkt).isNone)
theorem test_planBarrier_direct : refusedDirect planBarrierInfo = true := by decide +kernel
theorem test_planAgree : met (sPlan (pkt 0xF021 64 [(32, 8, 2 ^ 64 - 1)])) planAgreeInfo (fun c => decide ((sPlan (pkt 0xF021 64 [(32, 8, 2 ^ 64 - 1)])).barrierHeld 1 = false ∧ c.inPlan = true)) = true := by decide +kernel
theorem test_planAgree_direct : refusedDirect planAgreeInfo = true := by decide +kernel
/-- A shard of 2 nodes and 1 edge at the bottom of GDDR-7, with its alias tables. -/
def shard0 (flags : Nat) : Shard := ⟨5, bitAt flags 0, bitAt flags 1, bitAt flags 2, 2, gddrBase, gddrBase + 64, gddrBase + 128, gddrBase + 192, gddrBase + 256, 1, false, false, .idle⟩
def shardDesc : List Byte := rec 64 [(0, 4, 0x44524853), (4, 2, 1), (6, 1, 3), (7, 1, 5), (8, 4, 2), (16, 8, gddrBase), (24, 8, gddrBase + 64), (32, 8, gddrBase + 128), (40, 8, gddrBase + 192), (48, 8, gddrBase + 256), (56, 8, 1)]
def graphMem : List (Nat × List Byte) := [(gddrBase, toLE 8 0 ++ toLE 8 1 ++ toLE 8 1), (gddrBase + 320, shardDesc)]
def sShardSet : State := sOn (withMem graphMem) (pkt 0x2001 64 [(32, 8, gddrBase + 320)])
theorem test_graphShardSet : met sShardSet graphShardSetInfo (fun c => decide (shardOf (sShardSet.read (c.f 32 8) 64).data = shard0 3 ∧
  (sShardSet.readAll [(c.f 32 8, 64), ((shard0 3).offsets, 8), ((shard0 3).offsets + 8 * (shard0 3).nodes, 8)]).good = true ∧
  leNat (sShardSet.read (shard0 3).offsets 8).data = 0 ∧ leNat (sShardSet.read ((shard0 3).offsets + 8 * (shard0 3).nodes) 8).data = (shard0 3).edges)) = true := by decide +kernel
/-- The base state with a shard whose alias table is in a state of rebuild. -/
def withShard (x : Shard) (s : State) : State := { s with graph := { s.graph with shards := [x] } }
theorem test_graphShardClear : met (sOn (withShard (shard0 0)) (pkt 0x2002 64 [(32, 1, 5)])) graphShardClearInfo = true := by decide +kernel
theorem test_graphJob : met (sCmd (pkt 0x2003 64 [(32, 4, 65536), (36, 4, 65535)])) graphJobInfo = true := by decide +kernel
theorem test_graphAliasConfig : met (sCmd (pkt 0x2021 64 [(32, 1, 10)])) graphAliasConfigInfo = true := by decide +kernel
theorem test_graphAliasRebuild : met (sOn (withShard (shard0 3)) (pkt 0x2020 64 [(32, 1, 5)])) graphAliasRebuildInfo = true := by decide +kernel
def sStatus (r : Rebuild) : State := sOn (withShard { shard0 3 with rebuild := r }) (pkt 0x2022 64 [(32, 1, 5)])
theorem test_graphAliasStatus : [Rebuild.idle, .waiting, .failed 2, .running 1 2, .running 2 0].all (fun r => met (sStatus r) graphAliasStatusInfo (fun c => decide (((sStatus r).shard? (c.f 32 1)).map (·.rebuild) = some r))) = true := by decide +kernel
def ftableDesc : List Byte := rec 64 [(0, 4, 0x54414546), (4, 2, 1), (6, 1, 2), (7, 1, 63), (8, 4, 2), (12, 2, 4096), (16, 8, gddrBase), (24, 8, 8192)]
def sFeature : State := sOn (withMem [(gddrBase + 0x8000, ftableDesc)]) (pkt 0x2101 64 [(32, 8, gddrBase + 0x8000)])
theorem test_graphFeatureSet : met sFeature graphFeatureSetInfo (fun c => (sFeature.read (c.f 32 8) 64).good) = true := by decide +kernel
theorem test_graphFeatureClear : met (sCmd (pkt 0x2102 64 [(32, 1, 63)])) graphFeatureClearInfo = true := by decide +kernel
/-- A job of one chip with the graph memory and a shard. -/
def sGraph (x : Shard) (p : List Byte) : State := sOn (fun s => withShard x (withMem graphMem (withJob 1 s))) p
def samplePkt (kind : Nat) : List Byte := pkt 0x2010 96 [(32, 1, 5), (33, 1, 1), (34, 1, kind), (36, 2, 1), (44, 4, 1), (48, 8, gddrBase + 0x1000), (56, 8, gddrBase + 0x2000), (64, 8, 1024), (72, 8, 1)]
theorem test_graphSample : met (sGraph (shard0 3) (samplePkt 1)) graphSampleInfo (fun c => decide (((sGraph (shard0 3) (samplePkt 1)).shard? (c.f 32 1)) = some (shard0 3) ∧ waitsForAlias (hopSpec c.pkt) (shard0 3) = false ∧
  ((sGraph (shard0 3) (samplePkt 1)).read (hopFrontier c.pkt) (16 * hopSeeds c.pkt)).good = true ∧ (hopSpec c.pkt).hop = 1)) = true := by decide +kernel
def staleShard (r : Rebuild) : Shard := { shard0 3 with stale := true, rebuild := r }
theorem test_graphSample_waits : [Rebuild.running 1 2, .failed 2].all (fun r => met (sGraph (staleShard r) (samplePkt 1)) graphSampleInfo
  (fun c => decide (c.inPlan = false ∧ waitsForAlias (hopSpec c.pkt) (staleShard r) = true ∧ (staleShard r).rebuildFailed = decide (r = .failed 2)))) = true := by decide +kernel
/-- Hop 2 of a path whose log of hop 1 stands in memory, perhaps in a word that cannot be corrected. -/
def laterPkt : List Byte := pkt 0x2010 96 [(32, 1, 5), (33, 1, 2), (36, 2, 1), (48, 8, gddrBase + 0x1000), (56, 8, gddrBase + 0x2000), (64, 8, 1024)]
def sLater (bad : Bool) : State := sOn (fun s => withShard (shard0 3) (withMem (graphMem ++ [(gddrBase + 0x1000, rec 64 [(0, 4, 0x474C4850), (4, 1, 1)])]) (withJob 1
  { s with mem := { s.mem with errs := if bad then [(gddrBase + 0x1000, [(5, 7), (6, 1)])] else [] } }))) laterPkt
theorem test_graphSample_later : [false, true].all (fun b => met (sLater b) graphSampleInfo (fun c => (hopSpec c.pkt).hop == 2 && !waitsForAlias (hopSpec c.pkt) (shard0 3) && ((sLater b).read (hopFrontier c.pkt) 64).good == !b &&
  (readStatus ((sLater b).read (hopFrontier c.pkt) 64)).isSome == b)) = true := by decide +kernel
def ftable0 : FTable := ⟨3, 0, 4, 8, gddrBase + 0x4000, 32⟩
def withTables (s : State) : State := { s with graph := { s.graph with ftables := [ftable0] } }
def gatherPkt : List Byte := pkt 0x2110 96 [(32, 1, 3), (34, 1, 1), (36, 4, 1), (40, 8, gddrBase + 0x1000), (48, 8, gddrBase + 0x2000), (56, 8, 64)]
def sGather : State := sOn (fun s => withTables (withJob 1 s)) gatherPkt
theorem test_graphGather : met sGather graphGatherInfo (fun c => decide (sGather.ftable? (c.f 32 1) = some ftable0 ∧ gaSource c.pkt = 1)) = true := by decide +kernel
/-- A gather of a path log, perhaps in a word that cannot be corrected. -/
def sGatherLog (bad : Bool) : State := sOn (fun s => withTables (withMem [(gddrBase + 0x1000, rec 64 [(0, 4, 0x474C4850), (4, 1, 1)])] (withJob 1
  { s with mem := { s.mem with errs := if bad then [(gddrBase + 0x1000, [(5, 7), (6, 1)])] else [] } }))) (pkt 0x2110 96 [(32, 1, 3), (40, 8, gddrBase + 0x1000), (48, 8, gddrBase + 0x2000), (56, 8, 64)])
theorem test_graphGather_log : [false, true].all (fun b => met (sGatherLog b) graphGatherInfo (fun c => gaSource c.pkt == 0 && ((sGatherLog b).read (gaList c.pkt) 64).good == !b && (readStatus ((sGatherLog b).read (gaList c.pkt) 64)).isSome == b)) = true := by decide +kernel
def aggPkt (code n : Nat) : List Byte := pkt code n [(33, 1, 1), (35, 1, 1), (36, 2, 8), (38, 1, 5), (48, 8, gddrBase + 0x1000), (56, 8, gddrBase + 0x2000), (80, 8, if code = 0x2121 then gddrBase + 0x3000 else 0)]
theorem test_graphAggregate : met (sGraph (shard0 0) (aggPkt 0x2120 96)) graphAggregateInfo (fun c => decide ((sGraph (shard0 0) c.pkt).agHeadStatus c.pkt = none ∧ (sGraph (shard0 0) c.pkt).agPoisoned c.pkt = false ∧
  ∀ x ∈ (((sGraph (shard0 0) c.pkt).agGroupsOf c.pkt).zipIdx).map (fun (g, i) => (sGraph (shard0 0) c.pkt).agForward c.pkt i g), x.1 = none)) = true := by decide +kernel
theorem test_graphAggregateBwd : met (sGraph (shard0 0) (aggPkt 0x2121 96)) graphAggregateBwdInfo (fun c => decide ((sGraph (shard0 0) c.pkt).agHeadStatus c.pkt = none ∧ (sGraph (shard0 0) c.pkt).agPoisoned c.pkt = false ∧
  ∀ x ∈ (((sGraph (shard0 0) c.pkt).agGroupsOf c.pkt).zipIdx).map (fun (g, i) => (sGraph (shard0 0) c.pkt).agBackward c.pkt i g), x.1 = none)) = true := by decide +kernel
/-- An embedding table of 4 rows of 16 FP32 elements, integer keys, on a job of one chip. -/
def etable0 : ETable := ⟨2, 0, 0, 0, 16, 9, 4, 0, gddrBase + 0x10000, 256, 0, 0, 0⟩
def withETable (s : State) : State := { s with embed := { s.embed with tables := [etable0] } }
def scatterPkt (kind dest : Nat) : List Byte := pkt 0x2130 96 [(32, 1, kind), (33, 1, if kind = 1 then 3 else 0), (34, 1, if kind = 2 then 1 else 2), (36, 2, 16), (38, 1, if kind = 2 then 2 else 0),
  (40, 8, gddrBase + 0x1000), (48, 8, gddrBase + 0x2000), (56, 8, dest), (64, 4, if kind = 2 then 0 else 1), (68, 4, if kind = 2 then 0 else 1)]
/-- A path log of no entry. -/
def emptyLog : List (Nat × List Byte) := [(gddrBase + 0x1000, rec 64 [(0, 4, 0x474C4850), (4, 1, 1)])]
def sScatter (kind dest : Nat) : State := sOn (fun s => withETable (withMem (if kind = 2 then emptyLog else []) (withJob 1 s))) (scatterPkt kind dest)
theorem test_graphScatter : [(0, gddrBase + 0x3000), (0, scratchBase), (1, gddrBase + 0x3000), (2, 0)].all (fun k => met (sScatter k.1 k.2) graphScatterInfo (fun c => decide (c.f 32 1 = k.1 ∧ (inScratch (scDest c.pkt) = decide (k.2 = scratchBase)) ∧
  (scIndex c.pkt = 2 ∨ ((sScatter k.1 k.2).read (scList c.pkt) 64).uncorr = [])))) = true := by decide +kernel
theorem test_graphScatter_merge : [true, false].all (fun b => let s0 := sScatter 2 0; let s : State := { s0 with embed := { s0.embed with policy := { s0.embed.policy with detMerge := b } } }
  met s graphScatterInfo (fun c => (s.etable? (scTable c.pkt)).isSome && c.f 32 1 == 2 && s.embed.policy.detMerge == b)) = true := by decide +kernel
/-- The base state with command 1 running. -/
def sRunning (f : State → State) (p : List Byte) : State := withCmds (f sBase) [⟨1, .queue 0, p, .running, 0⟩]
def parent0 (es : Option (List PathEntry)) : HopParent := ⟨0, 0, 1, true, true, 6, es, none, none⟩
def sHop (es : Option (List PathEntry)) : State := sRunning (fun s => withShard (shard0 3) { s with graph := { s.graph with hops := [⟨1, 0, [parent0 es], 1, false, false⟩] } }) (samplePkt 1)
theorem test_hopComplete : ((sHop (some [])).runningCtx 1).isSome = true ∧ ((sHop (some [])).hop? 1).any (fun h => h.parents.all HopParent.done) = true := by decide +kernel
def expReq (step kind : Nat) (stale : Bool) : ExpReq := ⟨1, 1, kind, 1, 5, stale, step, 0, 0, 6⟩
def sServe (x : Shard) : State := withShard x (withJob 2 sBase)
theorem test_expansionRequest : (sServe (shard0 3)).isHalted = false ∧ (expReq 1 0 false).step = ((sServe (shard0 3)).step32 + 1) % 2 ^ 32 ∧ (expReq 2 0 false).step ≠ ((sServe (shard0 3)).step32 + 1) % 2 ^ 32 ∧ (expReq 2 0 false).step ≠ (sServe (shard0 3)).step32 := by decide +kernel
theorem test_expansionRequest_served : (expReq 0 1 false).step = (sServe (shard0 3)).step32 ∧ (sServe (shard0 3)).shard? (expReq 0 1 false).shard = some (shard0 3) ∧ (shard0 3).stale = false ∧
  (sServe (staleShard .idle)).shard? (expReq 0 1 false).shard = some (staleShard .idle) ∧ (staleShard .idle).stale = true ∧ (staleShard .idle).rebuildFailed = false := by decide +kernel
theorem test_expansionResponse : (sHop none).isHalted = false ∧ ((sHop none).parentOf 0 6).isSome = true ∧ ((sHop none).runningCtx 1).isSome = true := by decide +kernel
theorem test_rowRequest : (RowReq.mk 1 3 false true 1 6).step = (sBase.step32 + 1) % 2 ^ 32 ∧ (RowReq.mk 1 3 false true 0 6).step = sBase.step32 ∧ (RowReq.mk 1 3 false true 2 6).step ≠ sBase.step32 ∧ sBase.isHalted = false := by decide +kernel
def portion0 : Portion := ⟨0, 1, 1, 6, [1], [], false, false, none, none, [], none⟩
def sAwait : State := sRunning (fun s => withTables { s with graph := { s.graph with gathers := [⟨1, 1, [1], false, [portion0]⟩] } }) gatherPkt
theorem test_rowResponse : ∃ g, sAwait.isHalted = false ∧ sAwait.graph.gathers = [g] ∧ g.portions.any (Portion.awaits 1 6) = true ∧ (sAwait.cmd? g.cmd).any (fun c => opcodeOf c.pkt == 0x2110 && (sAwait.ftable? (gaTable c.pkt)).isSome) = true := ⟨⟨1, 1, [1], false, [portion0]⟩, by decide +kernel⟩
theorem test_aliasRebuildFinish : (withShard { shard0 3 with rebuild := .running 2 0 } sBase).shard? 5 = some { shard0 3 with rebuild := .running 2 0 } ∧ (withStep [] [] sBase).stepRunning = true ∧ sBase.stepRunning = false := by decide +kernel
theorem test_aliasRebuildFinish_clauses : [0, 128].all (fun k =>
    let s : State := withShard { shard0 3 with rebuild := .running 2 0 } { sBase with mem := { sBase.mem with errs := if k = 0 then [] else [(gddrBase + k, [(5, 7), (6, 1)])] } }
    ((shard0 3).rebuildReads.all (fun r => (s.read r.1 r.2).uncorr.isEmpty)) == (k == 0)) = true := by decide +kernel
def add0 : AddReq := ⟨gddrBase, .fp32, List.replicate 8 true, zeros 32⟩
def atom0 : AtomReq := ⟨gddrBase, .max, .int32, 5, 0⟩
def sAdds : State := { sBase with scatters := [⟨1, [add0], [atom0], [(1, 6)], false, none⟩] }
theorem test_memorySideAdd : ∃ x, sAdds.scatters.find? (fun x => x.cmd == 1) = some x ∧ add0 ∈ x.adds ∧ (sAdds.read add0.addr 32).good = true ∧ sAdds.mem.pinnedLine add0.addr = false ∧ atom0 ∈ x.atomics ∧
  (sAdds.read atom0.addr (tyBytes atom0.ty)).good = true ∧ atom0.ty ≠ .fp32 :=
  ⟨⟨1, [add0], [atom0], [(1, 6)], false, none⟩, by decide +kernel⟩
/-- The sector of the add lies in a pinned line. -/
def sPinned : State := { sAdds with mem := { sAdds.mem with lines := [⟨0, false, true⟩] } }
theorem test_memorySideAdd_pinned : sPinned.mem.pinnedLine add0.addr = true ∧ (sPinned.read add0.addr 32).good = true := by decide +kernel
def gOut : List (Nat × Nat × Nat) := [(96, 8, gddrBase + 0x5000), (104, 4, 32)]
def openPkt : List Byte := pkt 0x3001 160 ([(32, 1, 15), (36, 4, 1), (40, 4, 1), (92, 2, 64)] ++ gOut)
/-- The hypotheses under which a group opens. -/
def opens (i : OpInfo) (p : List Byte) (closes : Bool) : Bool :=
  let s := sCmd p
  let b := s.begun 1
  met s i (fun c => !s.groupWait 1 && (b.group? c.branch (c.f 32 1)).isNone && !b.wakingOn c (fun p => opensGroup p && !freesGroup p) && !b.stackLacks (b.newGroup c) c.ridges && flagAccClose c.pkt == closes)
theorem test_matrixAccOpen : [false, true].all (fun k => opens matrixAccOpenInfo (if k then splice openPkt 2 [8] else openPkt) k) = true := by decide +kernel
def sparseOpenPkt : List Byte := pkt 0x5002 192 ([(36, 4, 1), (40, 4, 1)] ++ gOut)
theorem test_sparseAccOpen : [false, true].all (fun k => opens sparseAccOpenInfo (if k then splice sparseOpenPkt 2 [8] else sparseOpenPkt) k) = true := by decide +kernel
/-- An open group of one element in slot 4. -/
def group0 (poisoned : Bool) : Group := ⟨none, 4, 1, 1, 12, 1, 64, 0, 0, gddrBase + 0x5000, 32, 0, none, false, poisoned, [0], [[.stack (List.replicate 12 0) 0]]⟩
def sGroup (poisoned on : Bool) (p : List Byte) : State := sOn (fun s => { s with matrix := ⟨[group0 poisoned], []⟩, ridges := s.ridges.map (fun r => { r with matrixOn := on }) }) p
def groupPkt (code slot : Nat) : List Byte := pkt code 64 [(32, 1, slot)]
theorem test_matrixAccClose_poisoned : met (sGroup true true (groupPkt 0x3002 4)) (groupOnly 0x3002) (fun c => decide ((sGroup true true (groupPkt 0x3002 4)).groupWait 1 = false ∧ ((sGroup true true (groupPkt 0x3002 4)).begun 1).groupFor c = some (group0 true))) = true := by decide +kernel
theorem test_matrixAccClose : let s := sGroup false true (groupPkt 0x3002 4)
  met s (groupOnly 0x3002) (fun c => decide (s.groupWait 1 = false ∧ (s.begun 1).groupFor c = some (group0 false) ∧
    ((((s.begun 1).freeGroup (group0 false)).countNonfinite ((group0 false).results.run 0).2).writeGroup c (group0 false) ((group0 false).results.run 0).1).2 = none)) = true := by decide +kernel
theorem test_matrixAccDiscard : let s := sGroup true true (groupPkt 0x3003 4); met s (groupOnly 0x3003) (fun c => decide (s.groupWait 1 = false ∧ (s.begun 1).groupFor c = some (group0 true))) = true := by decide +kernel
theorem test_matrixAccStatus : let s := sGroup true true (groupPkt 0x3004 4); met s (groupOnly 0x3004) (fun c => decide (s.group? c.branch (c.f 32 1) = some (group0 true))) = true := by decide +kernel
theorem test_matrixAccStatus_free : let s := sGroup true true (groupPkt 0x3004 15); met s (groupOnly 0x3004) (fun c => decide (s.group? c.branch (c.f 32 1) = none)) = true := by decide +kernel
/-- A product of 1 × 1 with K 1 into slot 4; flags: 0x10 opens, 0x08 closes. -/
def productPkt (code flags : Nat) : List Byte :=
  splice (pkt code (if code = 0x5001 then 192 else 160) ([(32, 1, 4), (36, 4, 1), (40, 4, 1), (44, 4, 1), (48, 8, gddrBase), (56, 8, gddrBase), (64, 4, 32), (68, 4, 32)] ++ (if flags.testBit 4 then gOut else []))) 2 (toLE 1 flags)
theorem test_matmul_wakes : [(0x3010, matrixMatmulInfo), (0x5001, sparseMatmulInfo)].all (fun k => let s := sGroup false false (productPkt k.1 0); met s k.2 (fun c => decide (s.groupWait 1 = false ∧ mOpens c.pkt = false ∧
  (s.begun 1).groupFor c = some (group0 false) ∧ mM c.pkt = 1 ∧ mN c.pkt = 1 ∧ (s.begun 1).dormant (group0 false) c.ridges ≠ []))) = true := by decide +kernel
theorem test_matmul_runs : [(0x3010, matrixMatmulInfo), (0x5001, sparseMatmulInfo)].all (fun k => [0, 8].all (fun f => let s := sGroup false true (productPkt k.1 f); met s k.2 (fun c => let x := (s.begun 1).productInput c.pkt
  decide (s.groupWait 1 = false ∧ mOpens c.pkt = false ∧ (s.begun 1).groupFor c = some (group0 false) ∧ (s.begun 1).dormant (group0 false) c.ridges = [] ∧ ((s.begun 1).readAll x.reads).good = true ∧ x.poisoned = false ∧ x.failure = none ∧
    flagAccClose c.pkt = decide (f = 8))))) = true := by decide +kernel
def sOpening (code f : Nat) : State := { sGroup false true (productPkt code f) with matrix := ⟨[], []⟩ }
theorem test_matmul_opens : [(0x3010, matrixMatmulInfo), (0x5001, sparseMatmulInfo)].all (fun k => [0x10, 0x18].all (fun f => let s := sOpening k.1 f; met s k.2 (fun c => let b := s.begun 1; let x := (b.openGroup c).productInput c.pkt
  decide (s.groupWait 1 = false ∧ mOpens c.pkt = true ∧ b.openFails c = none ∧ b.dormant (b.newGroup c) c.ridges = [] ∧ ((b.openGroup c).readAll x.reads).good = true ∧ x.poisoned = false ∧ x.failure = none)))) = true := by decide +kernel
/-- An empty curd tensor of one element: descriptor, arrays of zeros. -/
def curdMem : List (Nat × List Byte) := [(gddrBase + 0x1000, rec 64 [(0, 4, 0x44525543), (4, 2, 1), (7, 1, 1), (12, 4, 1), (16, 4, 1), (24, 8, gddrBase + 0x2000), (32, 8, gddrBase + 0x3000)])]
def skimPkt : List Byte := pkt 0x5010 128 [(32, 1, 1), (36, 1, 1), (40, 4, 1), (44, 4, 1), (56, 8, gddrBase), (64, 8, gddrBase + 0x1000)]
theorem test_sparseSkim : let s := sOn (withMem curdMem) skimPkt; met s sparseSkimInfo (fun c => decide ((s.readAll (skTensor c.pkt).reads).good = true ∧
  (((s.begun 1).noteReads 0 (skTensor c.pkt).reads).runSkim c (skJob c.pkt) ((s.begun 1).tensorF32 (skTensor c.pkt)) ((s.begun 1).skimOverlaps c.pkt)).2 = none)) = true := by decide +kernel
def expandPkt : List Byte := pkt 0x5011 64 [(32, 8, gddrBase + 0x1000), (48, 8, gddrBase + 0x4000), (56, 4, 32)]
theorem test_sparseExpand : let s := sOn (withMem curdMem) expandPkt; met s sparseExpandInfo (fun c => decide (s.curdReadStatus (c.f 32 8) = none)) = true := by decide +kernel
theorem test_sparseCheck : let s := sOn (withMem curdMem) (pkt 0x5020 64 [(32, 8, gddrBase + 0x1000)]); met s sparseCheckInfo (fun c => decide (s.curdReadStatus (c.f 32 8) = none)) = true := by decide +kernel
/-- The base state with a step running beside command 1. -/
def sBusy (p : List Byte) : State := withCmds (withStep [] [] sBase) [⟨1, .queue 0, p, .taken, 0⟩]
theorem test_cfgWide : met (sCmd (pkt 0x1101 64 [(32, 1, 3)])) cfgWideInfo = true ∧ met (sBusy (pkt 0x1101 64 [(32, 1, 1)])) cfgWideInfo (fun _ => (sBusy []).stepRunning) = true := by decide +kernel
theorem test_cfgScalePool : met (sCmd (pkt 0x1102 64 [(32, 8, gddrBase), (40, 8, 4096)])) cfgScalePoolInfo = true := by decide +kernel
def ratioPkt : List Byte := pkt 0x1110 64 [(32, 4, 0x33800000), (36, 4, 0x3D000000), (42, 1, 3), (48, 8, gddrBase)]
theorem test_cfgRatioSet : met (sCmd ratioPkt) cfgRatioSetInfo = true ∧ met (sBusy ratioPkt) cfgRatioSetInfo (fun _ => (sBusy []).stepRunning) = true := by decide +kernel
theorem test_cfgNumRead : [(0, 0), (1, 0), (1, 1)].all (fun k => let s := sCmd (pkt 0x1111 64 [(32, 1, k.1), (33, 1, k.2), (40, 8, gddrBase), (48, 4, 4096)]); met s cfgNumReadInfo && ends (.cfgNumRead 1) s) = true := by decide +kernel
def seedPkt : List Byte := pkt 0x4200 64 [(40, 8, 2 ^ 64 - 1)]
theorem test_vecRngSeed : met (sCmd seedPkt) vecRngSeedInfo = true ∧ met (sBusy seedPkt) vecRngSeedInfo (fun _ => (sBusy []).stepRunning) = true := by decide +kernel
/-- A vector command on one FP32 element: x, y, z, save say which operands it names. -/
def vecPkt (code sub : Nat) (x y z save : Bool) (fs : List (Nat × Nat × Nat)) : List Byte :=
  pkt code 160 ([(32, 1, sub), (40, 4, 1), (44, 4, 1), (64, 8, if x then gddrBase else 0), (72, 8, if y then gddrBase + 64 else 0), (80, 8, if z then gddrBase + 128 else 0), (88, 8, gddrBase + 192), (96, 8, if save then gddrBase + 256 else 0),
    (112, 8, 1)] ++ fs)
/-- X holds 3.0. -/
def sVec (p : List Byte) : State := sOn (withMem [(gddrBase, toLE 4 0x40400000)]) p
theorem test_vecMap : let s := sVec (vecPkt 0x4001 0 true true true false [(136, 2, 0x0401)]); met s vecMapInfo && ends (.vecMap 1) s = true := by decide +kernel
theorem test_vecReduce : (List.range 6).all (fun k => let s := sVec (vecPkt 0x4010 k true false false false []); met s vecReduceInfo && ends (.vecReduce 1) s) = true := by decide +kernel
theorem test_vecNorm : (List.range 2).all (fun k => let s := sVec (vecPkt 0x4020 k true true true true [(52, 4, 0x3727C5AC)]); met s vecNormInfo && ends (.vecNorm 1) s) = true := by decide +kernel
theorem test_vecNormBwd : (List.range 3).all (fun k => let s := sVec (vecPkt 0x4021 k true true true true []); met s vecNormBwdInfo && ends (.vecNormBwd 1) s) = true := by decide +kernel
theorem test_vecSoftmax : (List.range 2).all (fun k => let s := sVec (vecPkt 0x4030 k true (k == 0) (k == 1) false []); met s vecSoftmaxInfo (fun c => (s.readAll ((vXTensor c.pkt).reads ++ [(vY c.pkt, 4), (vZ c.pkt, 4)])).good)) = true := by decide +kernel
theorem test_vecLoss : (List.range 2).all (fun k => let s := sVec (vecPkt 0x4040 k true true false true []); met s vecLossInfo (fun c => (s.readAll ((vXTensor c.pkt).reads ++ [(vY c.pkt, 4)])).good)) = true := by decide +kernel
/-- The label 3 of a row of one column (R208). -/
theorem test_vecLoss_label : let s := sOn (withMem [(gddrBase + 64, toLE 4 3)]) (vecPkt 0x4040 0 true true false true []); met s vecLossInfo && ends (.vecLoss 1) s (fun r => r == resOf stIndexRange 0x07 0) = true := by decide +kernel
theorem test_vecDropout : let s := sVec (vecPkt 0x4050 0 true false false false [(52, 4, 0x3F000000)]); met s vecDropoutInfo && ends (.vecDropout 1) s = true := by decide +kernel
theorem test_vecInit : (List.range 2).all (fun k => let s := sVec (vecPkt 0x4051 (2 * k) false false false false [(56, 4, 0x3F800000)]); met s vecInitInfo && ends (.vecInit 1) s) = true := by decide +kernel
theorem test_vecRandomBits : let s := sVec (vecPkt 0x4052 0 false false false false []); met s vecRandomBitsInfo && ends (.vecRandomBits 1) s = true := by decide +kernel
theorem test_vecGumbel : met (sVec (vecPkt 0x4060 0 true false false false [(60, 4, 1)])) vecGumbelInfo (fun c => ((sVec c.pkt).readAll (vXTensor c.pkt).reads).good) = true := by decide +kernel
def sPairs (f : State → State) (code : Nat) (y : Bool) (func : Nat) : State := sOn f (vecPkt code 0 true y false false [(39, 1, func)])
theorem test_funcApply : [0, 7].all (fun k => met (sPairs id 0x4100 false k) funcApplyInfo (fun c => let s := sPairs id 0x4100 false k
  decide (s.pairWait 1 (c.f 39 1) = false ∧ s.pairNamed 1 39 = c.f 39 1 ∧ (s.pair? (c.f 39 1)).isSome = true ∧ (s.readAll (vXTensor c.pkt).reads).good = true))) = true := by decide +kernel
theorem test_funcDeriv : met (sPairs id 0x4101 true 7) funcDerivInfo (fun c => let s := sPairs id 0x4101 true 7
  decide (s.pairWait 1 (c.f 39 1) = false ∧ s.pairNamed 1 39 = c.f 39 1 ∧ (s.pair? (c.f 39 1)).isSome = true ∧ (s.readAll ((vXTensor c.pkt).reads ++ (vOperand c.pkt (vYFmt c.pkt) (vY c.pkt)).reads)).good = true)) = true := by decide +kernel
theorem crcBit_lt {c : Nat} (h : c < 2 ^ 32) : crcBit c < 2 ^ 32 := by
  unfold crcBit
  split
  · exact Nat.xor_lt_two_pow (by omega) (by norm_num)
  · omega

theorem crcByte_lt {c : Nat} (b : Byte) (h : c < 2 ^ 32) : crcByte c b < 2 ^ 32 := by
  unfold crcByte
  have hb : b.toNat < 2 ^ 32 := by have := b.isLt; omega
  have hx : c ^^^ b.toNat < 2 ^ 32 := Nat.xor_lt_two_pow h hb
  exact crcBit_lt (crcBit_lt (crcBit_lt (crcBit_lt (crcBit_lt (crcBit_lt (crcBit_lt (crcBit_lt hx)))))))

theorem crc32_lt (bs : List Byte) : crc32 bs < 2 ^ 32 := by
  have h : ∀ (bs : List Byte) (c : Nat), c < 2 ^ 32 → bs.foldl crcByte c < 2 ^ 32 := by
    intro bs
    induction bs with
    | nil => intro c hc; exact hc
    | cons b bs ih => intro c hc; exact ih _ (crcByte_lt b hc)
  exact Nat.xor_lt_two_pow (h bs _ (by norm_num)) (by norm_num)

theorem leNat_toLE4 {n : Nat} (h : n < 2 ^ 32) : leNat (toLE 4 n) = n := by
  simp only [toLE, leNat, BitVec.toNat_ofNat]
  omega

/-- A pair image of zeros in mode 2 (R209) with a CRC. -/
def pairImage (n : Nat) : List Byte := [0x50, 0x41, 0x49, 0x52, 1, 2] ++ zeros 30 ++ toLE 4 n ++ zeros 24 ++ zeros 8192

theorem pairImage_ok {n : Nat} (hn : n < 2 ^ 32) (h : crc32 (pairImage 0) = n) : pairImageOk (pairImage n) = true := by
  have hw : ∀ k, word32 (pairImage n) (64 + 4 * k) = 0 := by
    intro k
    have hz : ∀ n, leNat (List.replicate n (0 : Byte)) = 0 := by
      intro n
      induction n with
      | zero => rfl
      | succ n ih => simp only [List.replicate_succ, leNat, ih]; rfl
    have hl : ([0x50, 0x41, 0x49, 0x52, 1, 2] ++ zeros 30 ++ toLE 4 n ++ zeros 24 : List Byte).length = 64 := rfl
    unfold word32 field pairImage
    rw [List.drop_append, List.drop_eq_nil_of_le (by rw [hl]; omega), List.nil_append]
    simp only [zeros, List.drop_replicate, List.take_replicate, hz]
    rfl
  have hc : field (pairImage n) 36 4 = n := (rfl : field (pairImage n) 36 4 = leNat (toLE 4 n)).trans (leNat_toLE4 hn)
  have hz : ∀ z : List Byte, splice ([0x50, 0x41, 0x49, 0x52, 1, 2] ++ zeros 30 ++ toLE 4 n ++ zeros 24 ++ z) 36 (zeros 4) = [0x50, 0x41, 0x49, 0x52, 1, 2] ++ zeros 30 ++ toLE 4 0 ++ zeros 24 ++ z := fun _ => rfl
  have hs : splice (pairImage n) 36 (zeros 4) = pairImage 0 := hz _
  have hall : (List.range 2048).all (fun k => f32Finite (word32 (pairImage n) (64 + 4 * k))) = true := by
    rw [List.all_eq_true]
    intro k _
    rw [hw]
    rfl
  unfold pairImageOk
  simp only [hs, hc, h, hall, decide_true, Bool.and_true, pairOfImage]
  have hf : ∀ k m, k + m ≤ 36 → field (pairImage n) k m = field (pairImage 0) k m := by
    intro k m hk
    have ht : (pairImage n).take 36 = (pairImage 0).take 36 := rfl
    have : ∀ a : List Byte, (a.drop k).take m = ((a.take 36).drop k).take m := by
      intro a
      rw [List.drop_take, List.take_take, Nat.min_eq_left (by omega)]
    rw [field, this, ht, ← this, ← field]
  simp only [word32, hf _ _ (by norm_num : 0 + 4 ≤ 36), hf _ _ (by norm_num : 4 + 1 ≤ 36), hf _ _ (by norm_num : 5 + 1 ≤ 36), hf _ _ (by norm_num : 6 + 1 ≤ 36), hf _ _ (by norm_num : 7 + 1 ≤ 36), hf _ _ (by norm_num : 8 + 4 ≤ 36),
    hf _ _ (by norm_num : 12 + 4 ≤ 36), hf _ _ (by norm_num : 16 + 4 ≤ 36), hf _ _ (by norm_num : 20 + 4 ≤ 36), hf _ _ (by norm_num : 24 + 4 ≤ 36), hf _ _ (by norm_num : 28 + 4 ≤ 36), hf _ _ (by norm_num : 32 + 4 ≤ 36)]
  decide +kernel

theorem test_pairImage : ∃ img, pairImageOk img = true := ⟨_, pairImage_ok (crc32_lt _) rfl⟩

def sLoadPair : State := sCmd (pkt 0x4110 64 [(32, 1, 15), (40, 8, gddrBase)])
theorem test_funcLoadPair : met sLoadPair funcLoadPairInfo (fun c => decide (sLoadPair.pairWait 1 (c.f 32 1) = false ∧ sLoadPair.pairInUse (c.f 32 1) = false ∧ sLoadPair.pairNamed 1 32 = c.f 32 1)) = true := by decide +kernel
def sClearPair : State := sCmd (pkt 0x4111 64 [(32, 1, 8)])
theorem test_funcClearPair : met sClearPair funcClearPairInfo (fun c => decide (sClearPair.pairWait 1 (c.f 32 1) = false ∧ sClearPair.pairInUse (c.f 32 1) = false ∧ sClearPair.pairNamed 1 32 = c.f 32 1)) = true := by decide +kernel
def sReadPair (id : Nat) : State := sOn (fun s => { s with vec := { s.vec with pairs := [(15, zeros 8256)] } }) (pkt 0x4112 64 [(32, 1, id), (40, 8, gddrBase)])
theorem test_funcReadPair : [0, 15, 16].all (fun k => met (sReadPair k) funcReadPairInfo (fun c => decide ((sReadPair k).pairWait 1 (c.f 32 1) = false ∧ (sReadPair k).pairNamed 1 32 = c.f 32 1 ∧
  ((sReadPair k).vec.pairs.find? (fun e => e.1 == c.f 32 1)).isSome = decide (k = 15)))) = true := by decide +kernel
def etableDesc : List Byte := rec 64 [(0, 4, 0x4C42454D), (4, 2, 1), (7, 1, 2), (10, 2, 16), (12, 2, 9), (16, 8, 4), (32, 8, gddrBase + 0x10000), (40, 4, 256)]
def sTableSet : State := sOn (fun s => withMem [(gddrBase, etableDesc)] (withJob 1 s)) (pkt 0x6001 64 [(32, 8, gddrBase)])
theorem test_embedTableSet : met sTableSet embedTableSetInfo (fun c => (sTableSet.read (c.f 32 8) 64).good) = true := by decide +kernel
theorem test_embedTableClear : met (sOn withETable (pkt 0x6002 64 [(32, 1, 2)])) embedTableClearInfo = true := by decide +kernel
def policyPkt : List Byte := pkt 0x6003 96 [(32, 1, 15), (33, 2, 1024), (36, 4, 0x40800000), (40, 4, 0x40000000), (44, 4, 0x42000000), (48, 4, 65536), (52, 4, 1048576)]
theorem test_embedPolicy : met (sCmd policyPkt) embedPolicyInfo = true := by decide +kernel
/-- A pooled lookup of one bag of one row. -/
def lookupPkt : List Byte := pkt 0x6010 96 [(32, 1, 2), (33, 1, 1), (34, 1, 1), (36, 4, 1), (40, 8, gddrBase), (48, 8, gddrBase + 64), (56, 8, gddrBase + 128), (64, 8, 64)]
def sLookup : State := sOn (fun s => withETable (withMem [(gddrBase, toLE 4 0 ++ toLE 4 1)] (withJob 1 { s with embed := { s.embed with policy := { s.embed.policy with serveLogSize := 4096 } } }))) lookupPkt
theorem test_embedLookup : met sLookup embedLookupInfo (fun c => let b := sLookup.begun 1; decide (sLookup.etable? (lkTable c.pkt) = some etable0 ∧ (sLookup.read (lkOffsets c.pkt) (4 * (lkBags c.pkt + 1))).good = true ∧ (sLookup.read (b.lkEntryRange c.pkt).1 (b.lkEntryRange c.pkt).2).good = true ∧
  b.logRoom ((((b.lkBagList c.pkt).zipIdx).flatMap (fun (es, i) => b.bagPortions etable0 (lkPool c.pkt) (lkId c.pkt) i es)).foldl (fun n q => n + logCost etable0 (lkPool c.pkt) q.keys.length) 0) = true)) = true := by decide +kernel
def log0 : LookupLog := ⟨2, 3, 1, 1, [1], [portion0], true⟩
def sLookupBwd : State := sOn (fun s => withETable (withJob 1 { s with embed := { s.embed with lookupLogs := [log0] } })) (pkt 0x6011 64 [(32, 1, 2), (33, 1, 3), (36, 4, 1), (40, 8, gddrBase)])
theorem test_embedLookupBwd : met sLookupBwd embedLookupBwdInfo (fun c => decide (sLookupBwd.bwdLog c.pkt = some log0 ∧ sLookupBwd.etable? (c.f 32 1) = some etable0 ∧ (sLookupBwd.read (c.f 40 8) (4 * etable0.width * bwdRows log0)).good = true)) = true := by decide +kernel
/-- A hyperparameter table in which the record of tag 9 has given FLAGS. -/
def withHyper (flags : Nat) (s : State) : State := withMem [(gddrBase + 0x40000 + 32 * 9, rec 32 [(25, 1, flags)])] { s with update := { s.update with hyper := some (gddrBase + 0x40000) } }
def isHyper (frozen : Bool) (r : Result ⊕ Hyper) : Bool := match r with
  | .inr h => h.frozen == frozen
  | .inl _ => false
def sApply (f : Nat) : State := sOn (fun s => withHyper f (withETable (withJob 1 { s with embed := { s.embed with accums := [⟨2, 0, gddrBase + 0x50000, []⟩] } }))) (pkt 0x6020 64 [(32, 1, 2)])
theorem test_embedApply_frozen : met (sApply 1) embedApplyInfo (fun c => isHyper true ((((sApply 1).begun 1).noteHyper c 9).updateChecks c 9 (some 0) 0)) = true ∧ ends (.embedApply 1) (sApply 1) = true := by decide +kernel
theorem test_embedApply : met (sApply 0) embedApplyInfo (fun c => isHyper false ((((sApply 0).begun 1).noteHyper c 9).updateChecks c 9 (some 0) 0)) = true ∧ ends (.embedApply 1) (sApply 0) = true := by decide +kernel
def dshardDesc : List Byte := rec 64 [(0, 4, 0x50445055), (4, 2, 1), (6, 2, 9), (8, 8, 8), (24, 8, gddrBase + 0x20000), (32, 8, gddrBase + 0x30000)]
def dshard0 : DShard := ⟨9, 8, 0, gddrBase + 0x20000, gddrBase + 0x30000, 0, 0⟩
def sDShardSet : State := sOn (withMem [(gddrBase, dshardDesc)]) (pkt 0x7001 64 [(32, 8, gddrBase)])
theorem test_updateShardSet : met sDShardSet updateShardSetInfo (fun c => decide ((sDShardSet.read (c.f 32 8) 64).good = true ∧ dshardOf (sDShardSet.read (c.f 32 8) 64).data 0 = dshard0)) = true := by decide +kernel
theorem test_updateShardClear : met (sCmd (pkt 0x7002 64 [(32, 2, 4095)])) updateShardClearInfo = true := by decide +kernel
theorem test_updateHyperTable : [0, gddrBase].all (fun a => met (sCmd (pkt 0x7003 64 [(40, 8, a)])) updateHyperTableInfo) = true := by decide +kernel
theorem test_updateStepSet : met (sCmd (pkt 0x7004 64 [(40, 8, 2 ^ 64 - 1)])) updateStepSetInfo = true := by decide +kernel
def sUpdate (f : Nat) : State := sOn (fun s => withHyper f { s with update := { s.update with shards := [dshard0] } }) (pkt 0x7010 64 [(32, 2, 9)])
theorem test_updateRun_frozen : met (sUpdate 1) updateRunInfo (fun c => isHyper true ((((sUpdate 1).begun 1).noteHyper c 9).updateChecks c 9 none 0)) = true ∧ ends (.updateRun 1) (sUpdate 1) = true := by decide +kernel
theorem test_updateRun : met (sUpdate 0) updateRunInfo (fun c => isHyper false ((((sUpdate 0).begun 1).noteHyper c 9).updateChecks c 9 none 0)) = true ∧ ends (.updateRun 1) (sUpdate 0) (fun r => r == resIndex 8) = true := by decide +kernel
/-- An owner of rank 0 in a job of two chips with its table. -/
def sOwner : State := withETable (withJob 2 sBase)
def lreq (step key : Nat) : LookupReq := ⟨key, 2, true, 0, 1, step, 0x3F800000, 6, none, false⟩
theorem test_lookupRequest : sOwner.isHalted = false ∧ (lreq 1 0).step = (sOwner.step32 + 1) % 2 ^ 32 ∧ (lreq 2 0).step ≠ (sOwner.step32 + 1) % 2 ^ 32 ∧ (lreq 2 0).step ≠ sOwner.step32 ∧ (lreq 0 3).step = sOwner.step32 ∧
  sOwner.judge etable0 3 0 = .serve (etable0.base + 3 * 256) ∧ sOwner.judge etable0 3 9 = .fail ⟨stTenureStale, 0⟩ ∧ sOwner.etable? 2 = some etable0 := by decide +kernel
/-- An owner that gave row 3 to rank 1 with tenure 1 in the step before. -/
def sGave : State := { sOwner with embed := { sOwner.embed with forwards := [⟨2, 3, 1, 1, 2⟩] } }
theorem test_lookupRequest_forwarded : sGave.judge etable0 3 0 = .forward 1 1 ∧ sGave.isHalted = false := by decide +kernel
def sLookAwait : State := sRunning (fun s => withETable { s with graph := { s.graph with gathers := [⟨1, 1, [1], false, [portion0]⟩] } }) lookupPkt
def look0 : LookupResp := ⟨6, 1, 0, 0, false, none, 1, 0, zeros 64⟩
theorem test_lookupResponse : ∃ g, sLookAwait.isHalted = false ∧ sLookAwait.graph.gathers = [g] ∧ g.portions.any (Portion.awaitsLookup 1 look0) = true ∧ (sLookAwait.cmd? g.cmd).any (fun c => opcodeOf c.pkt == 0x6010 && (sLookAwait.etable? (lkTable c.pkt)).isSome) = true :=
  ⟨⟨1, 1, [1], false, [portion0]⟩, by decide +kernel⟩
/-- A row contribution, and a bag gradient for a portion that the owner served. -/
def con0 (kind key : Nat) : Contribution := ⟨key, 2, kind, 0, 0, 0, List.replicate 16 0⟩
def sServed : State := { sOwner with embed := { sOwner.embed with serveLogs := [⟨1, 2, 6, 1, [3], [0x3F800000], [], [0], none⟩] } }
theorem test_contributionReceive : sOwner.isHalted = false ∧ (con0 0 3).kind ≠ 1 ∧ sOwner.judge etable0 3 (con0 0 3).tenure = .serve (etable0.base + 3 * 256) ∧ (con0 1 6).kind = 1 ∧
  (sServed.useServeLog 1 2 (con0 1 6).key).any (fun x => x.1.tenures.contains (con0 1 6).tenure && x.1.moved.isNone) = true := by decide +kernel
theorem test_contributionAck : ∃ x, sAdds.isHalted = false ∧ sAdds.scatters = [x] ∧ (1, 6) ∈ x.acks := ⟨⟨1, [add0], [atom0], [(1, 6)], false, none⟩, by decide +kernel⟩
theorem test_subscriptionRequest : (sOwner.ownedWeights 2 3).isSome = true ∧ sOwner.forwardOf 2 3 = none ∧ sOwner.embed.migrating = [] ∧ (2, 3, 1) ∉ sOwner.embed.subs ∧ sOwner.ownedWeights 3 0 = none ∧ sOwner.refreshOpen = false := by decide +kernel
/-- In stage 9, when copies may leave. -/
def sStage9 : State := let s := withStep [] [] sOwner; { s with plans := { s.plans with step := s.plans.step.map (fun st => { st with updatePassed := true }) } }
theorem test_subscriptionRequest_open : sStage9.refreshOpen = true ∧ (sStage9.ownedWeights 2 3).isSome = true := by decide +kernel
def replica0 : Replica := ⟨2, 4294967296, 0, zeros 64, [], none⟩
def sReplica (one : Bool) : State := { sOwner with embed := { sOwner.embed with asked := [(2, 5, 1)], replicas := [replica0], migrating := [(2, 3, 1)], policy := { sOwner.embed.policy with oneStale := one } } }
theorem test_replicaRefresh : ∀ b, (2, 5, 1) ∈ (sReplica b).embed.asked ∧ replica0 ∈ (sReplica b).embed.replicas ∧ (sReplica b).embed.policy.oneStale = b := by decide +kernel
theorem test_migrationCopy : etable0.homeRank sOwner.jobN 3 = sOwner.rank ∧ etable0.homeRank sOwner.jobN 4294967296 ≠ sOwner.rank ∧ sOwner.freeGuest etable0 = none ∧ sOwner.etable? 2 = some etable0 := by decide +kernel
theorem test_migrationAck : (2, 3, 1) ∈ (sReplica false).embed.migrating ∧ (sReplica false).rowAddr etable0 3 = some (etable0.base + 3 * 256) := by decide +kernel
def sWords (ws : List Nat) (f : State → State) (p : List Byte) : State := sOn (fun s => f (withMem [(gddrBase, ws.flatMap (toLE 4))] s)) p
theorem test_cfgLinkPorts : met (sCmd (pkt 0x1201 96 [(32, 1, 0x24), (95, 1, 1)])) cfgLinkPortsInfo = true := by decide +kernel
/-- A port of width 4 on lanes 8 to 11 in a state. -/
def port0 (st : PortState) : Port := { (default : Port) with num := 8, cfgWidth := 3, state := st, lanes := [8, 9, 10, 11], peer := 3, attempts := 1, joined := true }
def withPort (x : Port) (s : State) : State := { s with link := { s.link with ports := [x], present := 0xFFFF } }
def routePkt : List Byte := pkt 0x1202 64 [(32, 2, 65535), (36, 4, 1), (40, 8, gddrBase)]
theorem test_cfgLinkRoute : met (sWords [0x88] (withPort (port0 .up)) routePkt) cfgLinkRouteInfo (fun c => ((sWords [0x88] id []).read (c.f 40 8) (4 * c.f 36 4)).good) = true ∧
  met (withCmds (withStep [] [] sBase) [⟨1, .queue 0, routePkt, .taken, 0⟩]) cfgLinkRouteInfo = true := by decide +kernel
def sRanks : State := sWords [0x00020001] (withJob 2) (pkt 0x1203 64 [(40, 8, gddrBase)])
theorem test_cfgLinkRanks : met sRanks cfgLinkRanksInfo (fun c => (sRanks.read (c.f 40 8) (2 * sRanks.jobN)).good) = true := by decide +kernel
def linkPolicyPkt : List Byte := pkt 0x1205 96 [(32, 5, 0x0F0F0F0F0F), (37, 1, 127), (38, 2, 1000), (40, 1, 1), (44, 4, 0x38D1B717), (48, 4, 65535)]
theorem test_cfgLinkPolicy : met (sCmd linkPolicyPkt) cfgLinkPolicyInfo = true ∧ met (sBusy linkPolicyPkt) cfgLinkPolicyInfo (fun _ => (sBusy []).stepRunning) = true := by decide +kernel
theorem test_cfgLinkRetrain : met (sOn (withPort (port0 .up)) (pkt 0x1206 64 [(32, 1, 8), (33, 1, 1)])) cfgLinkRetrainInfo = true := by decide +kernel
/-- The base state with that port. -/
def sPort (st : PortState) (f : Port → Port := id) : State := withPort (f (port0 st)) sBase
theorem test_training : (port0 .training).trying = false ∧ (sPort .training (fun x => { x with attempts := 0 })).port? 8 = some { port0 .training with attempts := 0 } ∧ (sPort .training).portPresent (port0 .training) = true ∧ 1 ≤ (port0 .training).attempts ∧ (port0 .training).attempts < 3 := by decide +kernel
/-- A handshake of a peer of width 4 in which the second lane saw too many corrected words. -/
def train0 : TrainResult := ⟨3, 63, 4, false, List.replicate 8 true, false, [0, 101, 0, 100], [0, 0, 1, 0], List.replicate 8 false⟩
theorem test_trainingComplete : (sPort .training (fun x => { x with trying := true })).port? 8 = some { port0 .training with trying := true } ∧ alignedBlock (port0 .training).configured (widthLanes train0.peerWidth) (TrainResult.bothFit train0 8) = [8] ∧
  alignedBlock (port0 .training).configured (widthLanes train0.peerWidth) (TrainResult.bothFit { train0 with peerFit := [] } 8) = [] := by decide +kernel
def authPort (m : Nat) : Port := { port0 .auth with authMode := m }
theorem test_authTimeout : ∀ m ∈ [1, 2], (withPort (authPort m) sBase).port? 8 = some (authPort m) ∧ (authPort m).state = .auth := by decide +kernel
def sAuth (ready : Bool) (nonce : List Byte) : State := let s := sPort .auth (fun x => { x with nonce := nonce }); { s with sec := { s.sec with keyReady := ready } }
theorem test_authNonce : ∀ b, [[], [1]].all (fun n => (sAuth b n).sec.keyReady == b && (sAuth b n).port? 8 == some { port0 .auth with nonce := n }) = true := by decide +kernel
/-- A word of zeros with its check bytes, and with errors of one and of two symbols. -/
def word0 : List Byte := wordSymbols (zeros 32)
theorem test_cellReceive : (sPort .up).laneOwner 9 = some (port0 .up) ∧ 9 ∈ (port0 .up).lanes ∧ (decodeWord word0).1 = .clean ∧ (decodeWord (word0.set 5 7)).1 = .corrected 5 7 ∧ (decodeWord ((word0.set 5 7).set 6 1)).1 = .uncorrectable := by decide +kernel
theorem test_cellReceive_ahead : (7 : W32) ≠ (port0 .up).expectSeq ∧ seqCovered 7 ((port0 .up).expectSeq - 1) = false ∧ (port0 .up).skew = [] ∧ (port0 .up).nak = none := by decide +kernel
def portNak : Port := { port0 .up with discarding := true, nak := some 3 }
theorem test_cellReceive_discarding : ((withPort portNak sBase).laneOwner 9).any (fun p => p.lanes.contains 9 && p.state == .up && p.nak == some 3) = true ∧ (3 : W32) ≠ 4 ∧ seqCovered 3 4 = true := by decide +kernel
def cell0 : SentCell := ⟨5, word0⟩
def portReplay : Port := { port0 .up with replayBuf := [cell0] }
theorem test_replayTimer : ((withPort portReplay sBase).port? 8).any (fun p => !p.replayBuf.isEmpty && !p.paused && p.state == .up) = true := by decide +kernel
theorem test_widthSwitch : (sPort .up (fun x => { x with narrowTo := some [8, 9], paused := true })).port? 8 = some { port0 .up with narrowTo := some [8, 9], paused := true } := by decide +kernel
theorem test_restripeDone : (sPort .up (fun x => { x with paused := true })).port? 8 = some { port0 .up with paused := true } ∧ (port0 .up).narrowTo = none := by decide +kernel
theorem test_laneMarginal : (f32ToRat (sPort .up).link.policy.marginal * ((10000 : Nat) : Rat) < ((2 : Nat) : Rat)) ∧ (sPort .up).link.policy.uncorrLimit < 17 ∧ (sPort .up).link.policy.pinWidth = false := by decide +kernel
def sRemoved : State := { sPort .up with link := { (sPort .up).link with lanes := [{ Lane.blank 11 with removed := true }] } }
theorem test_laneRejoin : sRemoved.laneOwner 11 = some (port0 .up) ∧ sRemoved.lane? 11 = some { Lane.blank 11 with removed := true } ∧ sRemoved.link.policy.pinWidth = false ∧ 3 * 1000000 < 3000001 := by decide +kernel
/-- A packet to a chip on a virtual channel. -/
def packet0 (dest vc hops : Nat) : Packet := ⟨dest, 3, vc, false, false, true, hops, 0, 0, 0, 1, [], []⟩
theorem test_packetReceive : (packet0 0xFFFF 5 1).dest = (sPort .up).chipId.toNat ∧ fixedVc 5 = true ∧ fixedVc 1 = false ∧ vcOpen false 1 = true ∧ (port0 .up).carries 1 = true ∧ (port0 .up).carries 5 = true := by decide +kernel
def sRoute : State := { sPort .up with link := { (sPort .up).link with routes := [(9, 0x88)] } }
/-- The state in which a packet from port 8 holds its cells. -/
def sHolds (p : Packet) : State := (sRoute.updPort 8 (fun y => { y with whole := y.whole.erase p })).holdCells 8 (Packet.buffer p) (packetCells p)
theorem test_packetReceive_onward : (packet0 9 1 63).dest ≠ sRoute.chipId.toNat ∧ (packet0 9 1 63).hops < sRoute.link.policy.hopLimit ∧ sRoute.link.policy.hopLimit ≤ (packet0 9 1 64).hops ∧ (sHolds (packet0 7 1 63)).egressOf (packet0 7 1 63) = none := by decide +kernel
theorem test_packetReceive_egress : (sHolds (packet0 9 1 63)).egressOf (packet0 9 1 63) = some 8 := by decide +kernel
/-- A batch of one part is whole. -/
def reasm0 : Reasm := { (default : Reasm) with src := 3, vc := 1, tag := 0, parts := [{ (default : BatchPart) with part := 0 }], lastPart := some 0 }
theorem test_batchReassembled : ({ sBase with link := { sBase.link with reasm := [reasm0] } } : State).link.reasm.find? (fun r => r.src == 3 && r.vc == 1 && r.tag == 0 && r.whole) = some reasm0 := by decide +kernel
def sBlocked : State := { sRoute with link := { sRoute.link with ports := [{ port0 .up with egress := [⟨packet0 9 1 2, 8, none, none⟩] }] } }
theorem test_escapeWait : ({ port0 .up with egress := [⟨packet0 9 1 2, 8, none, none⟩] } : Port).blocked 1 = some ⟨packet0 9 1 2, 8, none, none⟩ ∧ sBlocked.egressOf { packet0 9 1 2 with escape := true } = some 8 := by decide +kernel
def collConfigPkt : List Byte := pkt 0x8001 96 [(32, 1, 1), (33, 1, 1), (34, 2, 4), (36, 4, 2), (56, 8, gddrBase), (64, 8, 32768)]
theorem test_collConfig : met (sOn (withJob 2) collConfigPkt) collConfigInfo = true := by decide +kernel
def collPkt (code n : Nat) : List Byte := pkt code 96 [(40, 8, n), (48, 8, gddrBase), (56, 8, gddrBase + 0x1000)]
theorem test_collectives : [(0x8010, 8), (0x8011, 8), (0x8012, 8), (0x8013, 32)].all (fun k => met (sOn (withJob 1) (collPkt k.1 k.2)) (collInfo k.1) && !(sOn (withJob 1) (collPkt k.1 k.2)).collBehind 1) = true := by decide +kernel
def coll0 (started : Bool) (got : List CollGot) : Coll := ⟨1, [], 0, 0, started, [], got, false, none⟩
/-- An all-gather of 8 elements as command 1. -/
def sColl (n : Nat) (j : Coll) : State := sRunning (fun s => { withJob n s with coll := { (withJob n s).coll with dims := [n], jobs := [j] } }) (collPkt 0x8011 8)
theorem test_collStart : (sColl 2 (coll0 false [])).coll? 1 = some (coll0 false []) ∧ ((sColl 2 (coll0 false [])).runningCtx 1).isSome = true ∧ (sColl 2 (coll0 false [])).queueFree (coll0 false []) = true := by decide +kernel
def piece0 (step : Nat) : Piece := ⟨1, 0, 2, step, 0, 0, 0, false, 0, 0, 0, false, zeros 32⟩
theorem test_collPiece : (sColl 2 (coll0 true [])).isHalted = false ∧ (piece0 0).step = (sColl 2 (coll0 true [])).step32 ∧ (piece0 1).step ≠ (sColl 2 (coll0 true [])).step32 ∧
  (sColl 2 (coll0 true [])).coll.jobs.find? (fun j => j.queue == (piece0 0).queue && j.collId == (piece0 0).collId) = some (coll0 true []) := by decide +kernel
/-- A piece that comes before its collective has begun finds room, and finds none beyond the area of the cache when there is no spill. -/
theorem test_collPiece_early : (coll0 false []).started = false ∧ ((sColl 2 (coll0 false [])).reasmRoom (zeros 32)).2 = some none := by decide +kernel
theorem test_collPiece_full : ((sColl 2 (coll0 false [])).reasmRoom (List.replicate (2 ^ 24 + 1) 0)).2 = none := by
  have h : (sColl 2 (coll0 false [])).cachedBytes = 0 ∧ (sColl 2 (coll0 false [])).spillPlace (2 ^ 24 + 1) = none := by decide +kernel
  unfold State.reasmRoom
  rw [List.length_replicate, h.1, h.2, if_neg (by decide)]
/-- The collective is an entry of the running step. -/
def sCollEntry : State := let s := withStep [entryOf (collPkt 0x8011 8)] [.running 1] (sColl 2 (coll0 true [])); withCmds s [⟨1, .plan 0, collPkt 0x8011 8, .running, 0⟩]
theorem test_collPiece_entry : ((sColl 2 (coll0 true [])).cmd? 1).bind Cmd.entry? = none ∧ (sCollEntry.cmd? 1).bind Cmd.entry? = some 0 := by decide +kernel
def collDone : Coll := coll0 true [⟨1, 0, 0, 0, 0, zeros 32⟩]
theorem test_collComplete : let s := sColl 1 collDone; s.coll? 1 = some collDone ∧ s.collSent collDone = true ∧ (s.collEnv (collPkt 0x8011 8)).allHere collDone = true ∧ ends (.collComplete 1 0) s = true := by decide +kernel
theorem test_collComplete_poisoned : ends (.collComplete 1 0) (sColl 1 { collDone with poisoned := true }) (fun r => r == resStatus stPoisoned) = true := by decide +kernel
/-- A chip of a job of two whose port 8 leads to rank 1, halted or not. -/
def sWave (halted : Bool) : State := { withJob 4 (sPort .up) with halt := { sBase.halt with halted := halted } }
theorem test_halt : ∀ b, (sWave b).rankPorts = [8] ∧ (sWave b).halt.halted = b ∧ (sWave b).host.d3hot = false := by decide +kernel
theorem test_memInfo : met (sCmd (pkt 0x9001 64 [(40, 8, gddrBase)])) memInfoInfo = true := by decide +kernel
theorem test_memShare : met (sCmd (pkt 0x9002 64 [(32, 6, 0xFF0101010101)])) memShareInfo = true := by decide +kernel
theorem test_memPolicy : met (sCmd (pkt 0x9003 64 [(32, 3, 0x010002), (36, 4, 86400)])) memPolicyInfo = true := by decide +kernel
theorem test_memRemapRead : met (sCmd (pkt 0x9004 64 [(32, 1, 1), (40, 8, gddrBase)])) memRemapReadInfo (fun c => ((sCmd []).memPort? (c.f 32 1)).isSome) = true := by decide +kernel
theorem test_memRetrain : ∀ b, met ((sCmd (pkt 0x9005 64 [(32, 1, 1)])).updMemPort 1 (fun m => { m with retraining := b })) memRetrainInfo (fun c => (((sCmd []).updMemPort 1 (fun m => { m with retraining := b })).memPort? (c.f 32 1)).any (fun m => m.retraining == b)) = true := by decide +kernel
theorem test_memCacheSplit : met (sCmd (pkt 0x9101 64 [(32, 1, 20)])) memCacheSplitInfo = true := by decide +kernel
theorem test_memCacheFlush : met (sCmd (pkt 0x9102 64 [])) memCacheFlushInfo = true := by decide +kernel
theorem test_memStackArea : met (sCmd (pkt 0x9103 64 [(32, 1, 24)])) memStackAreaInfo = true := by decide +kernel
def copyPkt (n : Nat) : List Byte := pkt 0x9110 64 [(40, 8, gddrBase), (48, 8, gddrBase + 64), (56, 8, n)]
theorem test_memCopy : met (sCmd (copyPkt 64)) memCopyInfo (fun c => ((sCmd []).readAt c (c.f 40 8) (c.f 56 8)).uncorr.isEmpty) = true := by decide +kernel
/-- The second word to be copied cannot be corrected. -/
def sBadWord (p : List Byte) : State := sOn (fun s => { s with mem := { s.mem with errs := [(gddrBase + 32, [(5, 7), (6, 1)])] } }) p
theorem test_memCopy_uncorrected : met (sBadWord (copyPkt 64)) memCopyInfo (fun c => ((sBadWord []).readAt c (c.f 40 8) (c.f 56 8)).uncorr == [gddrBase + 32]) = true := by decide +kernel
def fillPkt : List Byte := pkt 0x9111 96 [(40, 8, gddrBase + 32), (48, 8, 64), (64, 32, 0x0102)]
theorem test_memFill : met (sCmd fillPkt) memFillInfo = true ∧ (sCmd fillPkt).mem.flagged = [] ∧ (sCmd fillPkt).plans.step = none ∧ (sCmd fillPkt).boot.inReset = false := by decide +kernel
def atomicPkt (op ty : Nat) (result : Bool) : List Byte := pkt 0x9120 96 [(32, 1, op), (33, 1, ty), (40, 8, gddrBase), (48, 8, 5), (64, 8, if result then gddrBase + 64 else 0)]
theorem test_memAtomic : [(0, 0), (1, 4), (2, 1), (3, 3)].all (fun k => [false, true].all (fun r => let s := sCmd (atomicPkt k.1 k.2 r); met s memAtomicInfo (fun c => (s.read (c.f 40 8) (tyBytes (atTy c.pkt))).good && atOp c.pkt != .add) && ends (.memAtomic 1) s)) = true := by decide +kernel
theorem test_memAtomic_add : [(4, 0), (4, 2)].all (fun k => [false, true].all (fun r => let s := sCmd (atomicPkt k.1 k.2 r); met s memAtomicInfo (fun c => atOp c.pkt == .add) && ends (.memAtomic 1) s)) = true := by decide +kernel
/-- The base state with memory port 1 changed. -/
def sMem (f : MemPort → MemPort) : State := sBase.updMemPort 1 f
theorem test_memTimingSample : ((sMem (fun m => { m with trainedMargin := 8 })).memPort? 1).any (fun m => !m.retraining && decide (m.trainedMargin / 2 ≤ 4) && decide ((3 : Rat) < m.trainedMargin / 2) && decide (m.trainedMargin / 4 ≤ 2) && decide ((1 : Rat) < m.trainedMargin / 4)) = true := by decide +kernel
theorem test_memPortRetrainDone : ((sMem (fun m => { m with retraining := true })).memPort? 1).any (·.retraining) = true := by decide +kernel
theorem test_memTempRead : ((sMem (fun m => { m with lastTemp := some 110 })).memPort? 1).any (fun m => !m.sensorFault && m.implausible == 0 && plausibleTemp (-40) 140 m.lastTemp (some 110) && plausibleTemp (-40) 140 m.lastTemp (some 104)) = true := by decide +kernel
theorem test_memTempRead_fault : ((sMem (fun m => { m with implausible := 2 })).memPort? 1).any (fun m => !m.sensorFault && m.implausible == 2) = true := by decide +kernel
def sQueued (full pin : Bool) : State := { sMem (fun m => { m with remapQueue := [(3, 7)], remaps := if full then List.replicate 4096 ⟨0, 0, 0⟩ else [] }) with gddr := { (sMem (fun m => { m with remapQueue := [(3, 7)], remaps := if full then List.replicate 4096 ⟨0, 0, 0⟩ else [] })).gddr with pinRemap := pin } }
theorem test_rowRemap : ∀ b, ((sQueued b false).memPort? 1).any (fun m => m.remapQueue == [(3, 7)] && (sQueued b false).rowInUse m 3 7 && (if b then decide (4096 ≤ m.remaps.length) && m.origin 3 7 == 7 else decide (m.remaps.length < 4096))) = true := by decide +kernel
theorem test_rowRemap_pinned : ((sQueued false true).memPort? 1).any (fun m => !m.remapQueue.isEmpty) = true ∧ (sQueued false true).gddr.pinRemap = true := by decide +kernel
def sScrub (errs : List (Nat × Byte)) : State := { sMem id with mem := { (sMem id).mem with errs := if errs.isEmpty then [] else [(gddrBase, errs)] } }
/-- Row 0 of channel 0 of port 0 holds the first line of GDDR-7. -/
theorem test_gddrScrub : [([], WordState.clean), ([(5, 7)], .corrected 5 7), ([(5, 7), (6, 1)], .uncorrectable)].all (fun k => ((sScrub k.1).memPort? 0).any (fun m => !m.retraining && (sScrub k.1).rowInUse m 0 0 && (sScrub k.1).rowErrs 0 0 0 == (if k.1.isEmpty then [] else [gddrBase]) &&
  ((sScrub k.1).mem.readWord gddrBase (cellRead (sScrub k.1).mem.cells gddrBase 32)).1 == k.2)) = true := by decide +kernel
def sScratch (errs : List (Nat × Byte)) : State := { sBase with mem := { sBase.mem with errs := if errs.isEmpty then [] else [(scratchBase, errs)] } }
theorem test_scratchPatrol : [([], WordState.clean), ([(5, 7)], .corrected 5 7), ([(5, 7), (6, 1)], .uncorrectable)].all (fun k => (sScratch k.1).enabled.contains 0 && decide (0 + 1 < scratchWords) && (sScratch k.1).logical 0 == 0 && ((sScratch k.1).mem.readWord scratchBase (cellRead (sScratch k.1).mem.cells scratchBase 32)).1 == k.2) = true := by decide +kernel
theorem test_cachePatrol : 32 * 262143 < sBase.mem.direct * 2 ^ 20 := by decide +kernel
theorem test_powerCap : [(0, 0), (1200, 1150), (450, 500)].all (fun k => met (sCmd (pkt 0xA001 64 [(32, 2, k.1), (34, 2, k.2)])) powerCapInfo) = true := by decide +kernel
theorem test_powerClock : met (sCmd (pkt 0xA002 64 [(32, 1, 48), (33, 1, 132), (34, 1, 3)])) powerClockInfo = true := by decide +kernel
theorem test_powerHint : met (sCmd (pkt 0xA010 64 [(32, 1, 2), (33, 1, 100), (36, 2, 2000), (38, 2, 65535)])) powerHintInfo = true := by decide +kernel
def power0 : Power := sBase.power
theorem test_calibrationTick : power0.ampsBad 500 true = false ∧ power0.calFallback = false ∧ ({ power0 with calBad := 2 } : Power).calBad = 2 ∧ power0.calBad < 2 := by decide +kernel
theorem test_governorTick : power0.hints = [] := by decide +kernel
def sRail (stretching : Bool) : State := { sBase with power := { power0 with raiseTo := some 50, railReported := true, droop := stretching }, ridges := sBase.ridges.map (fun r => { r with stretching := stretching }) }
theorem test_railSettled : ∀ b, (sRail b).power.raiseTo = some 50 ∧ (sRail b).stretching = b ∧ (sRail b).power.droop = b ∧ (sRail b).power.railReported = true ∧ power0.raiseTo = none ∧ power0.railReported = false := by decide +kernel
theorem test_guardWindow : power0.pinGuard = false ∧ ((1 : Rat) / 100 < 2 / 100) ∧ min 25 (power0.guard + 5) ≠ power0.guard ∧ (1 / 1000 : Rat) ≤ 1 / 1000 ∧ ({ power0 with guard := 5 } : Power).guard - 5 ≠ 5 ∧ ({ power0 with pinGuard := true } : Power).pinGuard = true := by decide +kernel
def tripState (pending : Option (Nat × Byte)) : State := { sBase with trip := ⟨false, 0, 0, pending, false⟩ }
theorem test_trip : (tripState none).trip.pending = none ∧ (tripState none).trip.pinLow = false ∧ (tripState (some (167, 112))).trip.pending = some (167, 112) := by decide +kernel
def sWaking (two : Bool) : State := { sBase with ridges := sBase.ridges.map (fun r => { r with waking := r.num == 0 || (two && r.num == 1) }) }
theorem test_domainOnDone : ∀ b, ((sWaking b).updRidge 0 (fun x => if x.waking then { x with matrixOn := true, waking := false } else x)).ridges.any (·.waking) = b := by decide +kernel
def sIdle (used : Bool) : State := { sBase with plans := { sBase.plans with store := if used then [planWith [entryOf (pkt 0x3010 160 [])]] else [] } }
theorem test_matrixDomainIdleOff : (∀ q ∈ (sIdle false).plans.store, q.usesMatrix ((sIdle false).logical 0) = false) ∧ (sIdle false).matrix.groups = [] ∧ (sIdle false).queues.cmds = [] ∧ (∃ q ∈ (sIdle true).plans.store, q.usesMatrix ((sIdle true).logical 0) = true) := by decide +kernel
theorem test_healthPolicy : met (sCmd (pkt 0xB001 64 [(32, 2, 64), (34, 2, 64), (36, 1, 255), (37, 1, 10), (38, 1, 3)])) healthPolicyInfo = true := by decide +kernel
def testPkt (code mask : Nat) : List Byte := pkt 0xB002 64 [(32, 1, code), (40, 8, mask)]
theorem test_healthTest : ((List.range 256).filter intrusive).any (fun k => met (sCmd (testPkt k 255)) healthTestInfo) = true ∧ ((List.range 256).filter continuous).any (fun k => !intrusive k && met (sCmd (testPkt k 0)) healthTestInfo) = true := by decide +kernel
/-- A test of the tree array (code 2) with the ridge-matrix domains on or off. -/
def sTreeTest (on : Bool) : State := sOn (fun s => { s with ridges := s.ridges.map (fun r => { r with matrixOn := on }) }) (testPkt 2 255)
theorem test_healthTest_tree : ∀ b, met (sTreeTest b) healthTestInfo (fun c => testsTree (c.f 32 1) && intrusive (c.f 32 1) && ((sTreeTest b).switchedOff (((sTreeTest b).testRidges c.pkt).map (sTreeTest b).physical)).isEmpty == b) = true := by decide +kernel
def sHalted (cause : Byte) (h : Bool) (p : List Byte) : State := sOn (fun s => { s with halt := { s.halt with halted := h, cause := cause } }) p
def clearPkt : List Byte := pkt 0xB003 64 []
theorem test_healthClearHalt : met (sHalted 9 true clearPkt) (healthClearHaltInfo 100) (fun _ => (sHalted 9 true []).isHalted) = true ∧ met (sHalted 9 false clearPkt) (healthClearHaltInfo 0) (fun _ => !(sHalted 9 false []).isHalted) = true := by decide +kernel
theorem test_healthClearHalt_busy : [((9 : Byte), 99), (10, 100)].all (fun k => met (sHalted k.1 true clearPkt) (healthClearHaltInfo k.2)) = false ∧ firstBreach (reservedBreaches (healthClearHaltInfo 99) clearPkt) = none ∧ ((sHalted 9 true clearPkt).startable 1 0xB003).isSome = true := by decide +kernel
/-- A chip of 53 ridges, the last of them perhaps recorded for retirement. -/
def sRetire (pending : Bool) (cancel : Nat) : State := sOn (fun s => { s with
  ridges := (List.range 53).map (fun i => { Ridge.blank i with enabled := true, registerMode := false })
  flash := { s.flash with retire := { s.flash.retire with ridgesPending := if pending then 2 ^ 52 else 0 } } }) (pkt 0xB004 64 [(32, 1, 52), (33, 1, cancel)])
theorem test_healthRetire : [false, true].all (fun b => [0, 1].all (fun k => met (sRetire b k) healthRetireInfo (fun c => (sRetire b k).flash.retire.ridgesPending.getLsbD ((sRetire b k).physical (c.f 32 1)) == b && bitAt (c.f 33 1) 0 == decide (k = 1)))) = true := by decide +kernel
theorem test_telemRing : [(0, 0, 0), (16, 1024, gddrBase), (30, 1, gddrBase)].all (fun k => met (sCmd (pkt 0xE001 64 [(32, 1, k.1), (34, 2, k.2.1), (40, 8, k.2.2), (48, 8, 31)])) telemRingInfo) = true := by decide +kernel
theorem test_telemCounters : [0, 1].all (fun k => met (sCmd (pkt 0xE002 64 [(33, 1, k), (40, 8, gddrBase)])) telemCountersInfo) = true := by decide +kernel
/-- A self-test of command 1 runs on ridge 0. -/
def sTesting : State := sRunning (fun s => { s with health := { s.health with testing := [(1, 1, [0])] } }) (testPkt 1 1)
theorem test_selfTestDone : sTesting.health.testing.find? (fun t => t.1 == 1) = some (1, 1, [0]) ∧ (sTesting.runningCtx 1).isSome = true ∧ (sTesting.testFailure 1 (.spareRow 0 0 127)).2 = none ∧ (sTesting.testFailure 1 (.unit 0)).2 = some 0x10 := by decide +kernel
def sWriting (a : Bool) : State := { sBase with sec := { sBase.sec with image := .writing (zeros 8) a } }
theorem test_imageWriteDone : ∀ b, (sWriting b).sec.image = .writing (zeros 8) b := by decide +kernel
theorem test_hstTelemTail : sBase.host.d3hot = false := by decide +kernel
theorem test_ctxSize : met (sCmd (pkt 0xC001 64 [(40, 8, gddrBase)])) ctxSizeInfo = true := by decide +kernel
def ctxPkt (code target : Nat) : List Byte := pkt code 64 [(32, 1, target), (34, 2, 7), (36, 4, 6), (40, 8, gddrBase), (48, 8, 65536)]
theorem test_ctxSave : [0, 1].all (fun k => met (sCmd (ctxPkt 0xC002 k)) ctxSaveInfo (fun c => c.f 32 1 == k && ((sCmd []).readAll (sCmd []).imageReads).uncorr.isEmpty)) = true := by decide +kernel
theorem test_ctxRestore : [0, 1].all (fun k => met (sCmd (ctxPkt 0xC003 k)) ctxRestoreInfo (fun c => c.f 32 1 == k && ((sCmd []).readAt c (c.f 40 8) 64).uncorr.isEmpty)) = true := by decide +kernel
def sStream (save : Bool) (n acked : Nat) : State := sRunning (fun s => { s with streams := [⟨1, save, 7, 6, zeros n, acked⟩] }) (ctxPkt (if save then 0xC002 else 0xC003) 1)
theorem test_gatewayAck : (!(sStream true 64 0).isHalted && ((sStream true 64 0).stream? true 7 6).any (fun x => decide (x.image.length ≤ max x.acked (32 * 2)) && decide (max x.acked (32 * 1) < x.image.length))) = true := by decide +kernel
theorem test_gatewayReadData : (!(sStream false 64 128).isHalted && ((sStream false 64 128).stream? false 7 6).any (fun x => decide (32 * 2 = x.image.length) && decide ((x.image ++ zeros 32).length < x.acked))) = true := by decide +kernel

/-! ### CFG and SEC -/

/-- A Staez image with a CHIP_ID, its CRC not formed. -/
def staez0 (chip : Nat) : List Byte := rec 512 [(0, 4, 0x5A454154), (4, 2, 1), (6, 2, 512), (16, 2, chip), (23, 1, 10), (28, 2, 600)]
def staezPkt (code k : Nat) : List Byte := pkt code 64 [(32, 1, k), (40, 8, gddrBase)]
theorem test_cfgStaezRead : [0, 1, 2].all (fun k => met (sCmd (staezPkt 0x1301 k)) cfgStaezReadInfo (fun c => c.f 32 1 == k)) = true := by decide +kernel
def sStaez (chip : Nat) : State := sOn (withMem [(gddrBase, staez0 chip)]) (staezPkt 0x1302 0)
theorem test_cfgStaezWrite : [(7, true), (0xFFFF, false)].all (fun k => met (sStaez k.1) cfgStaezWriteInfo (fun c => let r := (sStaez k.1).readAt c (c.f 40 8) 512; r.good && staezFields false r.data == k.2)) = true := by decide +kernel
theorem test_cfgCairnRead : met (sCmd (pkt 0x1303 64 [(32, 1, 64), (40, 8, gddrBase), (48, 4, 64)])) cfgCairnReadInfo = true := by decide +kernel
theorem test_cfgBootClear : met (sCmd (pkt 0x1304 64 [(32, 2, 1023), (34, 1, 7)])) cfgBootClearInfo = true := by decide +kernel
theorem test_cfgBootClear_over : met (sCmd (pkt 0x1304 64 [(32, 2, 1024), (34, 1, 7)])) cfgBootClearInfo = false := by decide +kernel
theorem test_secCertRead : met (sCmd (pkt 0xD001 64 [(40, 8, gddrBase), (48, 4, 64)])) secCertReadInfo = true := by decide +kernel
/-- The base state with the security state changed. -/
def sSec (f : Sec → Sec) (p : List Byte) : State := sOn (fun s => { s with sec := f s.sec }) p
def quotePkt : List Byte := pkt 0xD002 96 [(32, 1, 255), (40, 8, gddrBase)]
theorem test_secQuote : [true, false].all (fun k => met (sSec (fun x => { x with keyReady := k }) quotePkt) secQuoteInfo (fun _ => (sSec (fun x => { x with keyReady := k }) quotePkt).sec.keyReady == k)) = true := by decide +kernel
theorem test_secExtend : met (sCmd (pkt 0xD003 96 [(64, 4, 9)])) secExtendInfo = true := by decide +kernel
def imagePkt : List Byte := pkt 0xD010 64 [(32, 1, 1), (40, 8, gddrBase), (48, 4, 5121)]
/-- No concrete image is shown to be valid: a signature is checked by a function the model leaves open. -/
theorem test_secImageWrite : met (sCmd imagePkt) secImageWriteInfo (fun c => let r := (sCmd imagePkt).readAt c (c.f 40 8) (c.f 48 4); r.good && !(sCmd imagePkt).imageValid r.data) = true := by decide +kernel
theorem test_secImageStatus : [ImageWrite.idle, .done 5121, .failed 9, .writing (zeros 8) true].all (fun k => met (sSec (fun x => { x with image := k }) (pkt 0xD011 64 [])) secImageStatusInfo (fun _ => (sSec (fun x => { x with image := k }) []).sec.image == k)) = true := by decide +kernel
def sSvn (n : Nat) : State := sOn (fun s => { s with boot := { s.boot with imageSvn := n } }) (pkt 0xD012 64 [(32, 1, 1)])
theorem test_secFuseCommit : [0, 64].all (fun n => met (sSvn n) secFuseCommitInfo (fun _ => decide ((sSvn n).fuses.svn < (sSvn n).boot.imageSvn) == decide (n = 64))) = true := by decide +kernel
def keyPkt : List Byte := pkt 0xD013 64 [(32, 1, 1), (40, 8, gddrBase)]
theorem test_secCustomerKey : met (sCmd keyPkt) secCustomerKeyInfo (fun c => ((sCmd keyPkt).readAt c (c.f 40 8) 1312).good) = true := by decide +kernel
theorem test_secDebugChallenge : met (sCmd (pkt 0xD020 64 [(40, 8, gddrBase)])) secDebugChallengeInfo = true := by decide +kernel
def tokenPkt : List Byte := pkt 0xD021 64 [(40, 8, gddrBase)]
/-- No concrete token is shown to be accepted, for the same reason. -/
theorem test_secDebugUnlock : met (sCmd tokenPkt) secDebugUnlockInfo (fun c => let r := (sCmd tokenPkt).readAt c (c.f 40 8) 2496; r.good && !(sCmd tokenPkt).tokenOk r.data) = true := by decide +kernel
/-- The input of a SEC command lies in a word that cannot be corrected. -/
def sSecBad (p : List Byte) : State := sOn (fun s => { s with mem := { s.mem with errs := [(gddrBase, [(5, 7), (6, 1)])] } }) p
theorem test_sec_unreadable : [(imagePkt, secImageWriteInfo, 5121), (keyPkt, secCustomerKeyInfo, 1312), (tokenPkt, secDebugUnlockInfo, 2496)].all (fun k => met (sSecBad k.1) k.2.1 (fun c => (readStatus ((sSecBad k.1).readAt c (c.f 40 8) k.2.2)).isSome)) = true := by decide +kernel
/-! ### Queues and steps -/

/-- Queues 0 and 3, in D0. -/
def sBell : State := withQueues sBase
/-- On a ring of 128 units whose head is unit 0: the last units that a doorbell may name, the first that lie behind the head, and the first beyond the ring. -/
theorem test_hstSqDoorbell : sBell.host.d3hot = false ∧ sBell.sub? 63 = none ∧ (sBell.sub? 3).any (fun x =>
  [(127, false), (0, true)].all (fun k => decide (k.1 < x.units) && decide ((x.lap k.1 k.2 + 2 * x.units - x.lap x.head x.headWrap) % (2 * x.units) ≤ x.units)) &&
  [(1, true), (127, true)].all (fun k => decide (k.1 < x.units) && decide (x.units < (x.lap k.1 k.2 + 2 * x.units - x.lap x.head x.headWrap) % (2 * x.units))) && decide (x.units ≤ 128)) = true := by decide +kernel
/-- A NOP waits in the ring of queue 0; it names a response queue. -/
def sTake (rq : Nat) : State :=
  let s := withQueues sBase
  { s with queues := { s.queues with memory := cellWrite [] 0 (pkt 0x0001 64 [(12, 4, rq * 2 ^ 26)]), subs := s.queues.subs.map (fun x => if x.num = 0 then { x with tail := 2 } else x) } }
/-- The state as the packet of queue 0 is taken. -/
def sTurn (rq : Nat) : State := { sTake rq with queues := { (sTake rq).queues with turnBase := 0, turnPos := 1, lastServed := 0 } }
theorem test_takePacket : (sTake 4).nextTurn = some (0, 0) ∧ (turnOrder 0).getD 0 0 = 0 ∧ ((sTake 4).sub? 0).isSome = true ∧ ((sTake 4).takeable 0).any (fun p =>
  pktRespQueue p == 4 && ((sTake 4).resp? (pktRespQueue p)).isSome && (sTurn 4).takenStage ((sTurn 4).ctxOf ⟨(sTake 4).queues.nextId, .queue 0, p, .taken, (sTurn 4).replyQueue p⟩) == .taken) = true := by decide +kernel
theorem test_takePacket_missing : (sTake 5).nextTurn = some (0, 0) ∧ ((sTake 5).takeable 0).any (fun p => ((sTake 5).resp? (pktRespQueue p)).isNone && (firstBreach (headerBreaches p)).isNone && (opInfo? (opcodeOf p)).any (fun k => lengthOk k p)) = true := by decide +kernel
/-- A packet for a missing response queue with a wrong HDR_VERSION, an unassigned opcode, a wrong PARAM_LENGTH. -/
def sTakeBad (code n : Nat) (fs : List (Nat × Nat × Nat)) : State :=
  { sTake 5 with queues := { (sTake 5).queues with memory := cellWrite [] 0 (pkt code n ((12, 4, 5 * 2 ^ 26) :: fs)), subs := (sTake 5).queues.subs.map (fun x => { x with tail := n / 32 }) } }
theorem test_takePacket_missing_first : ((sTakeBad 1 64 [(3, 1, 2)]).takeable 0).any (fun p => (firstBreach (headerBreaches p)).isSome) = true ∧ ((sTakeBad 0x0FFF 64 []).takeable 0).any (fun p => (firstBreach (headerBreaches p)).isNone && (opInfo? (opcodeOf p)).isNone) = true ∧
  ((sTakeBad 0x0030 64 []).takeable 0).any (fun p => (firstBreach (headerBreaches p)).isNone && (opInfo? (opcodeOf p)).any (fun k => !lengthOk k p)) = true := by decide +kernel
def sDeferred (running : Bool) : State := let s := if running then withStep [] [] sBase else sBase; withCmds s [⟨1, .queue 0, pkt 0x9110 64 [], .deferred, 0⟩]
theorem test_deferredStart : ∀ b, (sDeferred b).stepRunning = b ∧ ((sDeferred b).cmd? 1).any (fun c => c.stage == .deferred) = true := by decide +kernel
def sEnded (src : Src) (flags : Nat) (r : Result) : State := withCmds (withQueues sBase) [⟨1, src, pkt 0x0001 64 [(7, 1, flags)], .ended r, 0⟩]
theorem test_commandComplete : [(0, resOK), (1, badParam 0 0)].all (fun k => ((sEnded (.queue 0) k.1 k.2).cmd? 1).any (fun c => c.src == .queue 0 && c.stage == .ended k.2)) = true := by decide +kernel
def reply0 : Reply := ⟨0, 0, 1, 0, 0, 0, 7, 0, 0, 5⟩
def sReplies (rs : List Reply) : State := let s := withQueues sBase; { s with queues := { s.queues with resps := [⟨0, 12, 8192, true, 2, 1, rs, 0, 1⟩] } }
theorem test_popReply : [[], [reply0], [reply0, reply0]].all (fun rs => ((sReplies rs).resp? 0).any (fun x => x.replies == rs)) = true ∧ (sReplies []).host.d3hot = false ∧ 0x1000000 + 0x1000 * 0 ≤ 0x1000FE0 ∧ 0x1000FE0 % 32 = 0 := by decide +kernel
theorem test_responseCoalesceTimer : ((sReplies [reply0]).resp? 0).any (fun x => x.irq && !x.replies.isEmpty && x.sinceSignal == 1) = true := by decide +kernel
/-- The reply slots of response queue 4 are all used while a packet for it waits. -/
def sStall (err : Bool) : State :=
  let s := sTake 4
  { s with queues := { s.queues with resps := s.queues.resps.map (fun r => { r with reserved := r.room }), err := { s.queues.err with popSize := err } } }
theorem test_rqStall : ∀ b, (sStall b).stalls 0 = true ∧ (sStall b).queues.err.any = b := by decide +kernel
theorem test_commandDeadline : ((sRunning id (pkt 0x2010 96 [])).cmd? 1).any (fun c => c.stage == .running && decide (opcodeOf c.pkt < 0xF000) && familyOf (opcodeOf c.pkt) != 8) = true := by decide +kernel
/-- A matrix product whose group was never opened waits for nothing and fails its check. -/
theorem test_commandDeadline_check : let s := sCmd (productPkt 0x3010 0); (s.cmd? 1).any (fun c => c.stage == .taken && s.mayStart c && decide (opcodeOf c.pkt < 0xF000) &&
  (((opInfo? (opcodeOf c.pkt)).bind (fun i => i.check s (s.ctxOf c))).or (s.startFails (s.ctxOf c))).isSome) = true := by decide +kernel
def sWaits : State := withCmds { withJob 1 sBase with plans := { sBase.plans with store := [planWith []] } } [⟨1, .queue 0, pkt 0xF010 64 [(24, 8, 1), (32, 1, 7)], .running, 0⟩]
theorem test_stepDeadline : (withStep [] [] sBase).plans.step.isSome = true ∧ sWaits.plans.step = none ∧ sWaits.waitingRun.any (fun c => c.id == 1) = true := by decide +kernel
def isEnds (v : BeginVerdict) : Bool := match v with
  | .ends _ => true
  | _ => false
def isGoes (v : BeginVerdict) : Bool := match v with
  | .goes _ => true
  | _ => false
theorem test_stepBegin : sWaits.stepRunning = false ∧ sWaits.isHalted = false ∧ sWaits.queues.cmds.all (fun k => !sWaits.startsFirst k) = true ∧ sWaits.waitingRun.isSome = true := by decide +kernel
def sVerdict (tag : Nat) (copy : Bool) : State := withCmds { sWaits with mem := { sWaits.mem with copying := if copy then [(0, 0)] else [] } } [⟨1, .queue 0, pkt 0xF010 64 [(24, 8, tag), (32, 1, 7)], .running, 0⟩]
theorem test_stepBegin_verdicts : (sVerdict 0 false).waitingRun.any (fun c => isGoes ((sVerdict 0 false).mayBegin c)) = true ∧ (sVerdict 1 false).waitingRun.any (fun c => isEnds ((sVerdict 1 false).mayBegin c)) = true ∧
  (sVerdict 0 true).waitingRun.any (fun c => (sVerdict 0 true).mayBegin c == .waits) = true := by decide +kernel
/-- An entry that may be skipped on condition bit 63. -/
def skipEntry (pol : Bool) : PlanEntry := { entryOf (pkt 0x0001 64 []) with skip := some (pol, 63), set := some 0 }
theorem test_planEntryStart : [true, false].all (fun b => let st := runWith [skipEntry b] [.waiting]; decide (0 < st.entries.length) && st.entryState 0 == .waiting && st.waitsMet 0 && st.turn 0 && st.stageMet 0 && st.skips? (st.entry 0) == !b &&
  (st.entry 0).skip == some (b, 63) && (st.cond.getLsbD 63 == b) == !b) = true := by decide +kernel
def sOutcome (noted : Bool) (r : Result) : State := withCmds (withStep [{ entryOf (pkt 0x0001 64 []) with noted := noted }] [.running 1] sBase) [⟨1, .plan 0, pkt 0x0001 64 [], .ended r, 0⟩]
theorem test_planEntryComplete : [(true, resOK, false, false), (true, resStatus stPoisoned, true, true), (false, resStatus stPoisoned, true, false)].all (fun k => (sOutcome k.1 k.2.1).plans.step.any (fun st => st.entryState 0 == .running 1 &&
  ((sOutcome k.1 k.2.1).cmd? 1).any (fun c => c.stage == .ended k.2.1) && k.2.1.failed == k.2.2.1 && (noteOf (st.entry 0) k.2.1).isSome == k.2.2.2)) = true := by decide +kernel
/-- A chip of a job of two at a barrier of a kind. -/
def atBar (kind : Nat) (cmd : Option Nat) (passed : Bool) : State :=
  let s := withStep [entryOf (pkt 0xF020 64 [])] [.running 1] (withJob 2 sBase)
  { s with plans := { s.plans with barrier := some ⟨kind, cmd, true, [], false, 0, 0, 0, passed⟩ } }
theorem test_stepBoundary : (atBar 2 none true).plans.step.isSome = true ∧ (atBar 2 none true).plans.barrier.any (fun b => b.passed && b.kind == 2) = true := by decide +kernel
theorem test_barrierPasses : [0, 1].all (fun k => (atBar k (some 1) true).plans.step.isSome && (atBar k (some 1) true).plans.barrier.any (fun b => b.passed && b.cmd == some 1 && b.kind == k)) = true := by decide +kernel
theorem test_barrierDeadline : [none, some 1].all (fun c => (atBar 0 c false).plans.step.isSome && (atBar 0 c false).plans.barrier.any (fun b => !b.passed && b.cmd == c)) = true := by decide +kernel
theorem test_barrierFlagReceive_early : (atBar 0 none true).isHalted = false ∧ (atBar 0 none true).plans.barrier.all (·.passed) = true := by decide +kernel
/-- Rank 0 of a job of n waits for the flags of its children at a barrier. -/
def sTree (n kind : Nat) : State := { atBar kind (some 1) false with graph := { sBase.graph with job := some (n, 0), ranks := some (List.range n) }, coll := { sBase.coll with dims := [n] } }
def flag0 (kind : Nat) : Flag := ⟨1, true, 0, kind, 0, 0, 0⟩
theorem test_barrierFlagReceive : [0, 1].all (fun k => [(2, true), (3, false)].all (fun n => !(sTree n.1 k).isHalted && (sTree n.1 k).plans.barrier.any (fun b => !b.passed) && ((sTree n.1 k).takeFlag (flag0 k)).climb.plans.barrier.any (fun b => b.passed == n.2))) = true := by decide +kernel

/-! ### Inter-island queues, the host, the management bus, boot -/

/-- Queue 0 holds one word, perhaps with errors, as its reader sees it. -/
def sIiq (formed sop : Bool) (errs : List (Nat × Byte)) : State :=
  sBase.updIiq 0 (fun q => { q with producerWords := formed, store := [⟨errs.foldl (fun w e => w.set e.1 (w.getD e.1 0 ^^^ e.2)) word0, sop, true⟩], wptr := 1, wptrAtReader := 1, empty := false })
theorem test_iiqRead : [([], 0), ([(5, 7)], 1), ([(5, 7), (6, 1)], 2)].all (fun k => [(true, false), (true, true), (false, false)].all (fun f => ((sIiq f.1 f.2 k.1).mem.iiqs.find? (fun q => q.num == 0)).any (fun q => !q.empty && q.producerWords == f.1 &&
  q.store.head?.any (fun w => w.sop == f.2 && (match (decodeWord w.symbols).1 with
    | .clean => k.2 == 0
    | .corrected _ _ => k.2 == 1
    | .uncorrectable => k.2 == 2))))) = true := by decide +kernel
theorem test_iiqRead_empty : (sBase.mem.iiqs.find? (fun q => q.num == 0)).any (fun q => q.empty) = true := by decide +kernel
theorem test_rcRead : sBase.host.d3hot = false ∧ bar0SizeOk 0x3FFFFC 4 = true ∧ inMailbox 0x3FFFFC = false ∧ bar0SizeOk 0 4 = true ∧ bar0SizeOk 2 4 = false ∧ bar0SizeOk 0x100001 1 = false ∧ (zeros 4).length = 4 ∧ bar0SizeOk 8 (zeros 16).length = false := by decide +kernel
/-- The memory window at the start of GDDR-7. -/
def sWindow (errs : List (Nat × Byte)) (hi : W32 := BitVec.ofNat 32 (gddrBase / 2 ^ 32)) : State := { sBase with host := { sBase.host with windowLo := 0, windowHi := hi }, mem := { sBase.mem with errs := if errs.isEmpty then [] else [(gddrBase, errs)] } }
/-- The address that the window gives an offset. -/
def windowAt (s : State) (off : Nat) : Nat := s.host.windowHi.toNat * 2 ^ 32 + s.host.windowLo.toNat * 2 ^ 28 + (off - 0x10000000)
theorem test_windowRead : windowAt (sWindow []) 0x10000000 = gddrBase ∧ [([], true), ([(5, 7), (6, 1)], false)].all (fun k => (sWindow k.1).rangeReason gddrBase 8 == none && ((sWindow k.1).read gddrBase 8).uncorr.isEmpty == k.2) = true ∧
  ((sWindow [] 0).rangeReason (windowAt (sWindow [] 0) 0x1FFFFFF8) 8).isSome = true := by decide +kernel
theorem test_windowWrite : (sWindow []).rangeReason (windowAt (sWindow []) 0x1FFFFFF8) (zeros 8).length = none ∧ zeros 8 ≠ [] := by decide +kernel
theorem test_hstReset : ((1 : W32).getLsbD 0 = true) ∧ (1 : W32).toNat / 2 ^ 16 ≠ 0xB007 ∧ sBase.boot.inReset = false ∧ (0xB0070001 : W32).toNat / 2 ^ 16 = 0xB007 := by decide +kernel
def sMbox (busy done : Bool) : State := { sBase with host := { sBase.host with mboxBusy := busy, mboxDone := done } }
theorem test_mailboxGo : (0x80000040 : W32).getLsbD 31 = true ∧ (0x80000040 : W32).toNat % 1024 = 64 ∧ ∀ b d, (sMbox b d).host.mboxBusy = b ∧ (sMbox b d).host.mboxDone = d := by decide +kernel
theorem test_mailboxDone : ((sEnded .mailbox 0 resOK).cmd? 1).any (fun c => c.src == .mailbox && c.stage == .ended resOK) = true := by decide +kernel
def sHost (ended d3 : Bool) : State := { sBase with boot := { sBase.boot with endedOk := if ended then [1, 2, 3, 4] else [] }, host := { sBase.host with d3hot := d3 } }
theorem test_configRequest : 4 ∉ (sHost false false).boot.endedOk ∧ 4 ∈ (sHost true false).boot.endedOk ∧ (sHost true false).host.d3hot = false ∧ ({ write := true, offset := 0x10, value := 0 } : CfgReq).write = true := by decide +kernel
theorem test_d3hot : (sHost true true).host.d3hot = true := by decide +kernel
theorem test_mgtBoardCap : [450, 1200].all (fun n => decide (450 ≤ (BitVec.ofNat 16 n).toNat) && decide ((BitVec.ofNat 16 n).toNat ≤ 1200)) = true ∧ (449 : W16).toNat < 450 ∧ 1200 < (1201 : W16).toNat ∧ (449 : W16) ≠ 0 := by decide +kernel
theorem test_mgtReset : (1 : W16) ≠ 0xB007 := by decide +kernel
theorem test_mgtBootClear : [0xFF, 3, 7].length = 3 ∧ field [0xFF, 3, 7] 0 2 ≤ 1023 ∧ field [0xFF, 3, 7] 2 1 ≤ 7 := by decide +kernel
theorem test_mgtStaezData : (31 : Byte).toNat < 32 ∧ (zeros 16).length = 16 := by decide +kernel
def sStaging (chip : Nat) (w : Option (List Byte)) : State := { sBase with mgt := { sBase.mgt with staging := staez0 chip, stagingWrite := w } }
theorem test_mgtStaezCommit : (sStaging 7 none).mgt.stagingWrite = none ∧ staezFields false (sStaging 7 none).mgt.staging = true ∧ staezFields false (sStaging 0xFFFF none).mgt.staging = false ∧ (sStaging 7 (some (staez0 7))).mgt.stagingWrite.isSome = true := by decide +kernel
def sAttn (a : Bool) : State := { sBase with host := { sBase.host with attention := a }, mgt := { sBase.mgt with mask := 0 } }
theorem test_mgtAlertRelease : ∀ a, (sAttn a).attentionUnmasked = a := by decide +kernel
def sButton (down ignored held : Bool) : State := { sBase with host := { sBase.host with button := down, buttonIgnored := ignored, buttonHeld := held } }
theorem test_button : ∀ d i h, (sButton d i h).host.button = d ∧ (sButton d i h).host.buttonIgnored = i ∧ (sButton d i h).host.buttonHeld = h := by decide +kernel
def sLevel (n : Nat) : State := { sBase with sec := { sBase.sec with level := n } }
theorem test_jtagChipReset : [0, 1, 2].all (fun n => (sLevel n).sec.level == n) = true := by decide +kernel
theorem test_resetRelease : State.reset.boot.inReset = true ∧ openStep State.reset.flash.records = none ∧ sBase.boot.inReset = false := by decide +kernel
/-- Between boot steps, with a failure count of the first step. -/
def sBoot (fails : Nat) : State := { sBase with boot := { sBase.boot with state := .booting, running := false, endedOk := [] }, flash := { sBase.flash with cairn := [⟨0, [{ cairnRec 3 1 0 with outcome := 2, fails := BitVec.ofNat 16 fails }]⟩] } }
theorem test_bootStepStart : [0, 2, 3].all (fun n => (sBoot n).betweenSteps && (sBoot n).nextStep == 1 && failCount (sBoot n).flash.records 1 == n) = true ∧ (sBoot 0).stepPath 1 0 (sBoot 0).flash.records = 0 := by decide +kernel
def sOpen (step : Nat) : State := { sBase with boot := { sBase.boot with state := .booting, running := true, step := step } }
def good0 : BootResult := ⟨true, [], [], [], 0⟩
theorem test_bootStepEnd : (sOpen 5).stepOpen = true ∧ (sOpen 5).boot.step ≠ 7 := by decide +kernel
def sRidges (n : Nat) : State := { sOpen 7 with ridges := (List.range n).map (fun i => { Ridge.blank i with enabled := true }) }
theorem test_bootStepEnd_ridges : (sRidges 52).stepOpen = true ∧ (sRidges 52).boot.step = 7 ∧ 52 ≤ ((sRidges 52).endStep good0).state.boot.ridgeCount ∧ ((sRidges 51).endStep good0).state.boot.ridgeCount < 52 ∧ good0.ok = true := by decide +kernel
theorem test_bootPolicyReset : ({ sBase with boot := { sBase.boot with policyReset := true } } : State).boot.policyReset = true := by decide +kernel

/-! ### Statements over every command -/

theorem test_step_front : ({ sBase with pending := [.mgtTemp] } : State).pending = .mgtTemp :: [] ∧ State.reset.pending = [] := by decide +kernel
theorem test_resetHolds : State.reset.boot.inReset = true ∧ (∃ t, exec .mgtTemp State.reset = .next t) := by exact ⟨by decide +kernel, ⟨_, rfl⟩⟩
theorem test_resets : (∀ img act, sBase.sec.image ≠ .writing img act) ∧ sBase.boot.inReset = false ∧ sBase.host.d3hot = false ∧ (sLevel 1).sec.level ≠ 0 ∧ (∃ t, exec .powerOnReset sBase = .next t) := by
  refine ⟨?_, by decide +kernel, by decide +kernel, by decide +kernel, ⟨_, rfl⟩⟩
  intro img act h
  have : sBase.sec.image = .idle := by decide +kernel
  rw [this] at h
  cases h
theorem test_calm : sBase.calm ∧ (sBase.boot.inReset && sBase.boot.inReset) = false :=
  ⟨⟨by decide +kernel, by decide +kernel, by decide +kernel, by decide +kernel, by decide +kernel, by decide +kernel, by decide +kernel, by decide +kernel⟩, by decide +kernel⟩
theorem test_invariants : sBase.AlertInv ∧ sBase.ParkInv ∧ sBase.FlagInv ∧ (∃ t, exec .mgtTemp sBase = .next t) := by
  unfold State.AlertInv State.ParkInv State.FlagInv
  exact ⟨by decide +kernel, by decide +kernel, by decide +kernel, ⟨_, rfl⟩⟩
theorem test_failedCheck : (sCmd []).startable 2 sysNopInfo.code = none ∧ ((sCmd (pkt 0x0001 64 [(40, 1, 1)])).startable 1 sysNopInfo.code).any (fun k => (sysNopInfo.check (sCmd (pkt 0x0001 64 [(40, 1, 1)])) ((sCmd (pkt 0x0001 64 [(40, 1, 1)])).ctxOf k)).isSome) = true := by decide +kernel
theorem test_failedCheck_row : commandInfo (.sysNop 1) = some (1, sysNopInfo) := rfl
theorem test_wholeWords : gddrBase % 32 = 0 ∧ (zeros 64).length % 32 = 0 := by decide +kernel
theorem test_memoryForm : sBase.mem.wf = true ∧ (∃ t, exec .remapFlashWrite sBase = .next t) := ⟨by decide +kernel, ⟨_, rfl⟩⟩
theorem test_fillRange : (sCmd fillPkt).calm ∧ (sCmd fillPkt).boot.inReset = false ∧ met (sCmd fillPkt) memFillInfo (fun c => (c.mailboxOffset (c.f 40 8)).isNone) = true :=
  ⟨⟨by decide +kernel, by decide +kernel, by decide +kernel, by decide +kernel, by decide +kernel, by decide +kernel, by decide +kernel, by decide +kernel⟩, by decide +kernel, by decide +kernel⟩
theorem test_oneSymbol : (zeros 32).length = 32 ∧ 35 < 36 ∧ (1 : Byte) ≠ 0 := by decide

/-! ### Worked examples of the manual -/

/-- R24: 60 ridges, then 52, between weights of 5 and 1. -/
theorem test_ridgeShares : ridgeShares 60 [5, 1] = [50, 10] ∧ ridgeShares 52 [5, 1] = [43, 9] ∧ ridgeShares 3 [64, 64, 1] = [1, 1, 1] := by decide +kernel
/-- R12, R13: the longest path, between opposite corners, crosses 18 cols; ridges 0 to 31 sit in the rows y = 1 to 4. -/
theorem test_mesh : meshHops (0, 0) (9, 9) = 18 ∧ blockAt 8 4 = some (.ridge 31) ∧ blockAt 1 5 = some (.ridge 32) ∧ blockAt 0 0 = some .control ∧ blockAt 9 9 = some .host := by decide +kernel
/-- The pace example after R385: a fifth of the slots bubbled at full clock gives tag 0x26; as the flag of rank 1,234 it shows in HST_PACE. -/
def sDown : State := let s := atBar 0 (some 1) false; { s with graph := { s.graph with job := some (4096, 1) }, plans := { s.plans with barrier := s.plans.barrier.map (fun b => { b with sentUp := true }) } }
theorem test_pace : paceTag 60 ⟨1500000000, 2 / 10, [1, 0, 0, 0, 0, 0]⟩ = 0x26 ∧ (sDown.takeFlag ⟨0, false, 0, 0, 0x26, 1234, 0⟩).regValue 0x3000 = 0x04D22600 := by decide +kernel

/-! ### Ill-formed commands are refused: one term for each bound of WellFormed -/

theorem test_bounds : isRank 65535 = true ∧ isRank 65536 = false ∧ isTag (2 ^ 32) = false ∧ isRow 256 0 = false ∧ isRow 0 (2 ^ 48) = false ∧ isRow 255 (2 ^ 48 - 1) = true ∧ isPort 64 = false ∧ isMemPort 24 = false := by decide +kernel
def goodExp : ExpReq := ⟨0, 255, 5, 1, 255, false, 0, 0, 0, 0⟩
theorem test_illFormed_expReq : goodExp.wf = true ∧ [{ goodExp with node := 2 ^ 48 }, { goodExp with hop := 256 }, { goodExp with kind := 6 }, { goodExp with fanOut := 65536 }, { goodExp with shard := 256 }, { goodExp with step := 2 ^ 32 },
  { goodExp with key := 2 ^ 64 }, { goodExp with stream := 2 ^ 32 }, { goodExp with tag := 2 ^ 32 }].all (fun r => !r.wf) = true := by decide +kernel
theorem test_illFormed_expResp : (ExpResp.mk 0 0 255 false [⟨1, 2, 3, 4⟩]).wf = true ∧ [ExpResp.mk (2 ^ 32) 0 0 false [], ⟨0, 0, 256, false, []⟩, ⟨0, 0, 0, false, List.replicate 257 ⟨0, 0, 0, 0⟩⟩, ⟨0, 0, 0, false, [⟨2 ^ 48, 0, 0, 0⟩]⟩,
  ⟨0, 0, 0, false, [⟨0, 65536, 0, 0⟩]⟩, ⟨0, 0, 0, false, [⟨0, 0, 2 ^ 32, 0⟩]⟩, ⟨0, 0, 0, false, [⟨0, 0, 0, 2 ^ 32⟩]⟩].all (fun r => !r.wf) = true := by decide +kernel
theorem test_illFormed_rows : (RowReq.mk 1 255 false true 0 0).wf = true ∧ [RowReq.mk (2 ^ 48) 0 false true 0 0, ⟨0, 256, false, true, 0, 0⟩, ⟨0, 0, false, true, 2 ^ 32, 0⟩, ⟨0, 0, false, true, 0, 2 ^ 32⟩].all (fun r => !r.wf) = true ∧
  (RowResp.mk 0 65535 0 255 []).wf = true ∧ [RowResp.mk (2 ^ 32) 0 0 0 [], ⟨0, 65536, 0, 0, []⟩, ⟨0, 0, 0, 256, []⟩].all (fun r => !r.wf) = true := by decide +kernel
def goodLook : LookupReq := ⟨0, 0, true, 0, 255, 0, 0, 0, some 65535, false⟩
def goodLookResp : LookupResp := ⟨0, 0, 0, 0, false, none, 0, 0, []⟩
theorem test_illFormed_lookups : goodLook.wf = true ∧ [{ goodLook with key := 2 ^ 48 }, { goodLook with table := 256 }, { goodLook with tenure := 65536 }, { goodLook with pool := 256 }, { goodLook with step := 2 ^ 32 }, { goodLook with tag := 2 ^ 32 }, { goodLook with via := some 65536 }].all (fun r => !r.wf) = true ∧
  goodLookResp.wf = true ∧ [{ goodLookResp with tag := 2 ^ 32 }, { goodLookResp with count := 65536 }, { goodLookResp with detail := 256 }, { goodLookResp with owner := 65536 }, { goodLookResp with tenure := 65536 }, { goodLookResp with via := some 65536 }].all (fun r => !r.wf) = true := by decide +kernel
def goodCon : Contribution := ⟨0, 0, 2, 0, 0, 0, []⟩
theorem test_illFormed_contribution : goodCon.wf = true ∧ [{ goodCon with key := 2 ^ 48 }, { goodCon with table := 256 }, { goodCon with kind := 3 }, { goodCon with tenure := 65536 }, { goodCon with origin := 65536 }, { goodCon with seq := 2 ^ 32 }].all (fun r => !r.wf) = true := by decide +kernel
theorem test_illFormed_flag : (flag0 3).wf = true ∧ [{ flag0 0 with src := 65536 }, { flag0 0 with step := 2 ^ 32 }, flag0 4, { flag0 0 with slowRank := 65536 }].all (fun r => !r.wf) = true := by decide +kernel
theorem test_illFormed_piece : (piece0 0).wf = true ∧ [{ piece0 0 with src := 65536 }, { piece0 0 with dest := 65536 }, { piece0 0 with proto := 0 }, { piece0 0 with proto := 4 }, piece0 (2 ^ 32), { piece0 0 with dim := 4 }, { piece0 0 with queue := 8 },
  { piece0 0 with collId := 65536 }, { piece0 0 with offset := 2 ^ 37 }].all (fun r => !r.wf) = true := by decide +kernel
theorem test_illFormed_haltCell : (HaltCell.mk 0 127 0 0 0 0).wf = true ∧ [HaltCell.mk 65536 0 0 0 0 0, ⟨0, 128, 0, 0, 0, 0⟩, ⟨0, 0, 65536, 0, 0, 0⟩].all (fun r => !r.wf) = true := by decide +kernel
def goodPacket : Packet := packet0 0 7 127
theorem test_illFormed_packet : goodPacket.wf = true ∧ [{ goodPacket with dest := 65536 }, { goodPacket with src := 65536 }, { goodPacket with vc := 8 }, { goodPacket with hops := 128 }, { goodPacket with bytes := 4097, words := List.replicate 129 (zeros 36) }, { goodPacket with bytes := 33, words := [zeros 36] }, { goodPacket with bytes := 32, words := [zeros 35] },
  { goodPacket with batch := 65536 }, { goodPacket with part := 65536 }, { goodPacket with proto := 65536 }, { goodPacket with inline := zeros 14 }, { goodPacket with bytes := 1 }].all (fun r => !r.wf) = true := by decide +kernel
def goodSlot : CtlSlot := { (default : CtlSlot) with credit := List.replicate 12 255 }
theorem test_illFormed_slot : goodSlot.wf = true ∧ [{ goodSlot with lane := 256 }, { goodSlot with width := 256 }, { goodSlot with state := 256 }, { goodSlot with ackSeq := 2 ^ 32 }, { goodSlot with nakSeq := 2 ^ 32 }, { goodSlot with credit := [] },
  { goodSlot with credit := List.replicate 12 256 }, { goodSlot with lost := 256 }, { goodSlot with switchIn := 256 }].all (fun r => !r.wf) = true := by decide +kernel
theorem test_illFormed_train : train0.wf = true ∧ [{ train0 with peerId := 65536 }, { train0 with peerPort := 64 }, { train0 with peerWidth := 5 }, { train0 with peerFit := List.replicate 9 true }, { train0 with corrected := List.replicate 9 0 }, { train0 with uncorrectable := List.replicate 9 0 }, { train0 with inverted := List.replicate 9 true }].all (fun r => !r.wf) = true := by decide +kernel
theorem test_illFormed_commands : [Instr.hstSqDoorbell 64 0, .takePacket 64, .popReply 64 0 32, .popReply 0 0xFF0 32, .rqStall 64, .responseCoalesceTimer 64, .batchSendTimer 65536, .rowRequest 0 [⟨2 ^ 48, 0, false, true, 0, 0⟩], .contributionAck 0 (2 ^ 32) 0,
  .contributionAck 65536 0 0, .subscriptionRequest 65536 0 0, .subscriptionRequest 0 256 0, .migrationCopy ⟨65536, 0, 0, 0, []⟩, .migrationCopy ⟨0, 0, 0, 65536, []⟩, .migrationAck 65536 0 0 true, .relocationNotice ⟨0, 0, 65536, 0⟩, .relocationNotice ⟨0, 0, 0, 65536⟩,
  .replicaRefresh 65536 0 0 0 [], .haltCellReceive 64 ⟨0, 0, 0, 0, 0, 0⟩, .aliasRebuildFinish 256, .domainOnDone 64, .matrixDomainIdleOff 64].all (fun i => !i.wf) = true := by decide +kernel
theorem test_illFormed_links : [Instr.cellReceive 64 0 word0, .cellReceive 0 (2 ^ 32) word0, .cellReceive 0 0 [], .controlSlotReceive 64 goodSlot, .replayTimer 64, .laneLossOfLock 64, .widthSwitch 64, .restripeDone 64, .laneRejoin ⟨64, 0, 0, 0, 0⟩, .packetReceive 64 goodPacket,
  .escapeWait 64 0, .escapeWait 0 8, .batchReassembled 65536 0 0, .batchReassembled 0 8 0, .batchReassembled 0 0 65536, .trainingAttempt 64, .trainingComplete 64 train0, .trainingDeadline 64, .trainingRetryTimer 64, .authTimeout 64].all (fun i => !i.wf) = true := by decide +kernel
theorem test_illFormed_units : [Instr.droopDetect 64, .junctionSensorRead (List.replicate 169 none), .memWriteBatchSend 96, .memorySideAdd 0 { add0 with addr := gddrBase + 1 }, .memorySideAdd 0 { add0 with addends := [] }, .rowRemap 24, .gddrScrub 24 0 0, .gddrScrub 0 4 0,
  .scratchPatrol 64 0, .cachePatrol 8 0, .iiqWrite 0 (zeros 33) true true, .windowRead 0x1FFFFFFF 2, .windowWrite 0x20000000 [0], .rcRead 0x400000 4, .registerWrite 0x3FFFFE (zeros 4), .configRequest ⟨true, 4096, 0⟩, .configRequest ⟨true, 2, 0⟩, .mgtBootClear [0] true,
  .mgtStaezData 0 [] true, .subscriptionRefused 65536 0 0, .unsubscribe 0 0 (2 ^ 48)].all (fun i => !i.wf) = true := by decide +kernel

end Sys2Proof.Tests
end

section
/-! SUPPORT. The host in D0 (R549 to R560, R568): what each access to BAR0, BAR2, the mailbox and configuration space does, one equation for each branch of its meaning, and O36 assembled from them. -/
namespace Sys2Proof.Machine

/-! ### The frame of a host access -/

/-- In D0 a row whose meaning is a memory request of the host has the request's effect (R551). -/
theorem Runs.of_bar {i : Instr} {f : State → State} {s u : State} (hd : s.host.d3hot = false) (hx : exec i s = .next (s.settle (s.bar f))) (hf : f s = u) : Runs i s u := by
  have hbar : s.bar f = f s := by simp [State.bar, hd]
  rw [Runs, hx, hbar, hf]

/-- HOST has ended OK when step 4 is among the steps that did (R552). -/
theorem State.hostUp_iff (s : State) : s.hostUp = true ↔ 4 ∈ s.boot.endedOk := List.contains_iff_mem

/-! ### BAR0: reads and writes (R7, R554) -/

/-- A read of a size or alignment that R554 does not allow. -/
theorem rcRead_badSize {s : State} {off n : Nat} (h : bar0SizeOk off n = false) :
    rcRead off n s = ({ s with host := { s.host with bar0Size := true } } : State).answerHost (zeros n) false := by
  simp [rcRead, State.readBar0, h, State.hostErr]

/-- A read of an aligned 32-bit register outside the mailbox buffers. -/
theorem rcRead_register {s : State} {off : Nat} (h : bar0SizeOk off 4 = true) (hm : inMailbox off = false) :
    rcRead off 4 s = (s.afterRead off).answerHost (toLE 4 (s.regValue off)) false := by
  simp [rcRead, State.readBar0, h, hm]

/-- A write of a size or alignment that R554 does not allow. -/
theorem registerWrite_badSize {s : State} {off : Nat} {d : List Byte} (h : bar0SizeOk off d.length = false) :
    registerWrite off d s = { s with host := { s.host with bar0Size := true } } := by
  simp [registerWrite, h, State.hostErr]

/-- A write of an aligned 32-bit register outside the mailbox buffers. -/
theorem registerWrite_register {s : State} {off : Nat} {d : List Byte} (h : bar0SizeOk off d.length = true) (hm : inMailbox off = false) (hd : d.length = 4) :
    registerWrite off d s = s.writeReg off (BitVec.ofNat 32 (field d 0 4)) := by
  rw [hd] at h
  simp [registerWrite, h, hm, hd]

/-! ### BAR2: the queue memory and the memory window (R556, R557) -/

/-- A read below 8 MiB reads the queue memory. -/
theorem bar2Read_queueMemory {s : State} {off n : Nat} (h : off < 0x800000) : bar2Read off n s = s.answerHost (cellRead s.queues.memory off n) false :=
  if_pos h

/-- A write below 8 MiB writes the queue memory, up to its end. -/
theorem bar2Write_queueMemory {s : State} {off : Nat} {d : List Byte} (h : off < 0x800000) :
    bar2Write off d s = { s with queues := { s.queues with memory := cellWrite s.queues.memory off (d.take (0x800000 - off)) } } :=
  if_pos h

/-- A read in the upper half of BAR2 goes through the memory window. -/
theorem bar2Read_window {s : State} {off n a : Nat} (hlo : 0x10000000 ≤ off) (hhi : off < 0x20000000) (ha : a = s.windowAddr off) : bar2Read off n s = s.windowRead a n := by
  have hmem : ¬ off < 0x800000 := by omega
  have hpop : ¬ (0x1000000 ≤ off ∧ off < 0x1040000) := by omega
  rw [bar2Read, if_neg hmem, if_neg hpop, if_pos ⟨hlo, hhi⟩, ha]

/-- A write in the upper half of BAR2 goes through the memory window. -/
theorem bar2Write_window {s : State} {off a : Nat} {d : List Byte} (hlo : 0x10000000 ≤ off) (hhi : off < 0x20000000) (ha : a = s.windowAddr off) : bar2Write off d s = s.windowWrite a d := by
  have hmem : ¬ off < 0x800000 := by omega
  rw [bar2Write, if_neg hmem, if_pos ⟨hlo, hhi⟩, ha]

/-- A window read of an address that nothing holds. -/
theorem State.windowRead_outOfRange {s : State} {a n r : Nat} (h : s.rangeReason a n = some r) :
    s.windowRead a n = ({ s with host := { s.host with winRange := true } } : State).answerHost (List.replicate n 0xFF) false := by
  simp [State.windowRead, h, State.hostErr, onesBytes]

/-- A window read without an uncorrectable word. -/
theorem State.windowRead_clean {s : State} {a n : Nat} (h : s.rangeReason a n = none) (hu : (s.read a n).uncorr = []) :
    s.windowRead a n = (s.noteRead 4 a n).answerHost (s.read a n).data false := by
  simp [State.windowRead, h, hu]

/-- A window read of an uncorrectable word. -/
theorem State.windowRead_uncorrectable {s : State} {a n : Nat} (h : s.rangeReason a n = none) (hu : (s.read a n).uncorr ≠ []) :
    s.windowRead a n = ((s.noteRead 4 a n).hostErr (fun h => { h with winUncorr := true })).answerHost (List.replicate n 0xFF) true := by
  simp [State.windowRead, h, hu, onesBytes]

/-- A window write of an address that nothing holds. -/
theorem State.windowWrite_outOfRange {s : State} {a r : Nat} {d : List Byte} (h : s.rangeReason a d.length = some r) :
    s.windowWrite a d = { s with host := { s.host with winRange := true } } := by
  simp [State.windowWrite, h, State.hostErr]

/-- A window write is made word by word. -/
theorem State.windowWrite_parts {s : State} {a : Nat} {d : List Byte} (h : s.rangeReason a d.length = none) (hd : d ≠ []) :
    s.windowWrite a d = (wordParts a d).foldl (fun t w => t.windowPart w.1 w.2) s := by
  simp [State.windowWrite, h, hd]

/-! ### HST_RESET (R555) -/

/-- A write with the key resets. -/
theorem hostReset_key (s : State) : hostReset 0xB0070001 s = s.resetBy 2 := rfl

/-- A write of RESET without the key sets RESET_KEY alone. -/
theorem hostReset_wrongKey {s : State} {v : W32} (h0 : v.getLsbD 0 = true) (hk : v.toNat / 2 ^ 16 ≠ 0xB007) :
    hostReset v s = { s with host := { s.host with resetKey := true } } := by
  rw [hostReset, if_neg (by simp [h0]), if_neg hk, State.hostErr]

/-! ### The mailbox (R558) -/

/-- What a write of HST_MBOX_CTRL leaves in the host's registers before GO is judged: LENGTH as written, DONE cleared by a 1. -/
def HostIf.mboxWritten (h : HostIf) (v : W32) : HostIf := { h with mboxLen := v.setWidth 10, mboxDone := h.mboxDone && !v.getLsbD 29 }

/-- GO while BUSY or DONE was set. -/
theorem mboxCtrl_overrun {s : State} {v : W32} (hgo : v.getLsbD 31 = true) (h : s.host.mboxBusy = true ∨ s.host.mboxDone = true) :
    mboxCtrl v s = { s with host := { s.host.mboxWritten v with mboxOverrun := true } } := by
  have hbusy : (s.host.mboxBusy || s.host.mboxDone) = true := Bool.or_eq_true_iff.mpr h
  simp [mboxCtrl, hgo, hbusy, HostIf.mboxWritten]

/-- GO while neither BUSY nor DONE was set. -/
theorem mboxCtrl_takes {s : State} {v : W32} (hgo : v.getLsbD 31 = true) (hb : s.host.mboxBusy = false) (hd : s.host.mboxDone = false) :
    mboxCtrl v s = ({ s with host := s.host.mboxWritten v } : State).takeMailbox (v.toNat % 1024) := by
  simp [mboxCtrl, hgo, hb, hd, HostIf.mboxWritten]

/-- A mailbox command that has ended is answered: its reply is written, BUSY clears and DONE sets. -/
theorem mailboxDone_runs {s u : State} {id rt : Nat} {c : Cmd} {r : Result} (hc : s.cmd? id = some c) (hsrc : c.src = .mailbox) (hend : c.stage = .ended r)
    (hu : u = (s.dropCmd id).finishDeletes) : Runs (.mailboxDone id rt) s { u with host := { u.host with mboxReply := some (replyOf c r rt), mboxBusy := false, mboxDone := true } } := by
  subst hu
  show execMailboxDone id rt s = _
  simp only [execMailboxDone, hc, hsrc, hend]

/-! ### Configuration space and D3hot (R551, R552) -/

/-- Before HOST has ended a configuration request is to be retried. -/
theorem configRequest_retried {s : State} {r : CfgReq} (h : 4 ∉ s.boot.endedOk) :
    Runs (.configRequest r) s { s with host := { s.host with resp := ⟨[], false, false, true⟩ } } := by
  have hup : s.hostUp = false := Bool.eq_false_iff.mpr (mt s.hostUp_iff.mp h)
  show execConfigRequest r s = _
  simp [execConfigRequest, hup, State.hostErr]

/-- A configuration write once HOST has ended. -/
theorem configRequest_writes {s : State} {r : CfgReq} (h : 4 ∈ s.boot.endedOk) (hw : r.write = true) :
    Runs (.configRequest r) s { s with host := { configWrite r.offset r.value s.host with resp := ⟨[], false, false, false⟩ } } := by
  show execConfigRequest r s = _
  simp [execConfigRequest, s.hostUp_iff.mpr h, hw, State.hostErr]

/-- A configuration read once HOST has ended. -/
theorem configRequest_reads {s : State} {r : CfgReq} (h : 4 ∈ s.boot.endedOk) (hw : r.write = false) :
    Runs (.configRequest r) s (({ s with free := s.free + 1 } : State).answerHost (toLE 4 (s.configWord r.offset)) false) := by
  show execConfigRequest r s = _
  simp [execConfigRequest, s.hostUp_iff.mpr h, hw]

/-- D3hot is entered once HOST has ended. -/
theorem d3hotEntry_runs {s : State} (h : 4 ∈ s.boot.endedOk) : Runs .d3hotEntry s { s with host := { s.host with d3hot := true } } := by
  show execD3hotEntry s = _
  simp [execD3hotEntry, s.hostUp_iff.mpr h, State.hostErr]

/-- Settles O36: every memory request acts in D0 as the equation of its branch says (`Runs.of_bar`); the mailbox's answer and configuration space do not depend on the power state. -/
theorem hostEventsComplete : Obligations.HostEventsComplete := by
  intro s hd
  refine ⟨?readRegister, ?readBadSize, ?writeRegister, ?writeBadSize, ?readQueueMemory, ?writeQueueMemory, ?readWindow, ?writeWindow, ?resetKey, ?resetWrongKey, ?locate, ?parkCancel, ?mailboxGo, ?mailboxDone, ?configRequest, ?d3hotEntry⟩
  case readRegister => exact fun off h hm => .of_bar hd rfl (rcRead_register h hm)
  case readBadSize => exact fun off n h => .of_bar hd rfl (rcRead_badSize h)
  case writeRegister => exact fun off d h hm h4 => .of_bar hd rfl (registerWrite_register h hm h4)
  case writeBadSize => exact fun off d h => .of_bar hd rfl (registerWrite_badSize h)
  case readQueueMemory => exact fun off n h => .of_bar hd rfl (bar2Read_queueMemory h)
  case writeQueueMemory => exact fun off d h => .of_bar hd rfl (bar2Write_queueMemory h)
  case readWindow =>
    exact fun off n a hlo hhi ha => ⟨fun r hr => .of_bar hd rfl ((bar2Read_window hlo hhi ha).trans (State.windowRead_outOfRange hr)),
      fun hr hu => .of_bar hd rfl ((bar2Read_window hlo hhi ha).trans (State.windowRead_clean hr hu)),
      fun hr hu => .of_bar hd rfl ((bar2Read_window hlo hhi ha).trans (State.windowRead_uncorrectable hr hu))⟩
  case writeWindow =>
    exact fun off d a hlo hhi ha => ⟨fun r hr => .of_bar hd rfl ((bar2Write_window hlo hhi ha).trans (State.windowWrite_outOfRange hr)),
      fun hr hne => .of_bar hd rfl ((bar2Write_window hlo hhi ha).trans (State.windowWrite_parts hr hne))⟩
  case resetKey => exact .of_bar hd rfl (hostReset_key s)
  case resetWrongKey => exact fun v h0 hk => .of_bar hd rfl (hostReset_wrongKey h0 hk)
  case locate => exact fun b => .of_bar (f := setLocate b) hd rfl rfl
  case parkCancel => exact .of_bar (f := cancelPark) hd rfl rfl
  case mailboxGo =>
    rintro v _ hgo rfl
    exact ⟨fun h => .of_bar hd rfl (mboxCtrl_overrun hgo h), fun hb hn => .of_bar hd rfl (mboxCtrl_takes hgo hb hn)⟩
  case mailboxDone => exact fun id rt c r u hc hsrc hend hu => mailboxDone_runs hc hsrc hend hu
  case configRequest => exact fun r => ⟨configRequest_retried, configRequest_writes, configRequest_reads⟩
  case d3hotEntry => exact d3hotEntry_runs

end Sys2Proof.Machine
end

section
/-! SUPPORT. Steps (R18 to R21, R57 to R66, R380): the begin of a step, its entries, its barriers, its boundary and its deadline, one equation for each branch of their meaning, and O34 assembled from them. -/
namespace Sys2Proof.Machine

/-- A row whose meaning settles a state has that state as its effect. -/
theorem Runs.of_settle {i : Instr} {s t u : State} (hx : exec i s = .next (s.settle t)) (h : t = u) : Runs i s u := by
  rw [Runs, hx, h]

/-! ### The running step -/

/-- While a step runs, a change of it acts on its record alone. -/
theorem State.updStep_running {s : State} {st : StepRun} (h : s.plans.step = some st) (f : StepRun → StepRun) :
    s.updStep f = { s with plans := { s.plans with step := some (f st) } } := by
  simp [State.updStep, h]

/-- A failure while a step runs ends its STEP.RUN and raises the wave (R50). -/
theorem State.failStep_running {s : State} {st : StepRun} (h : s.plans.step = some st) (r : Result) (entry : Option Nat) (cause : Byte) :
    s.failStep r entry cause = (s.setStage st.cmd (.ended (st.result r entry))).raiseWave cause r.status := by
  simp [State.failStep, h]

/-! ### The begin of a step (R65) -/

/-- What a verdict on the first waiting STEP.RUN leaves. -/
def State.afterVerdict (s : State) (c : Cmd) : BeginVerdict → State
  | .ends r => s.endCmd c.id r
  | .waits => s
  | .goes p => s.beginStep c p

/-- With nothing left to start before it, the first waiting STEP.RUN is judged. -/
theorem stepBegin_runs {s : State} {c : Cmd} (hrun : s.stepRunning = false) (hhalt : s.isHalted = false) (hfirst : ∀ k ∈ s.queues.cmds, s.startsFirst k = false)
    (hc : s.waitingRun = some c) : Runs .stepBegin s (s.afterVerdict c (s.mayBegin c)) := by
  have hany : s.queues.cmds.any s.startsFirst = false := List.any_eq_false.mpr fun k hk => by simp [hfirst k hk]
  refine .of_settle rfl ?_
  simp only [hrun, hhalt, hany, hc, Bool.or_self, Bool.false_eq_true, if_false]
  cases s.mayBegin c <;> rfl

/-! ### Plan entries (R57 to R60) -/

/-- An entry that waits, with its waits met, its turn come and its stage open, is skipped or issued. -/
theorem planEntryStart_runs {s : State} {i : Nat} {st : StepRun} (hst : s.plans.step = some st) (hi : i < st.entries.length) (hwait : st.entryState i = .waiting)
    (hmet : st.waitsMet i = true) (hturn : st.turn i = true) (hstage : st.stageMet i = true) :
    Runs (.planEntryStart i) s (if st.skips? (st.entry i) then s.updStep (fun t => t.skip i) else s.issueEntry i (st.entry i).pkt) := by
  refine .of_settle rfl ?_
  simp [hst, hwait, hmet, hturn, hstage, Nat.not_le.mpr hi]

/-- An entry issued while a step runs is a new command in flight. -/
theorem State.issueEntry_running {s : State} {st : StepRun} (h : s.plans.step = some st) (i : Nat) (pkt : List Byte) :
    s.issueEntry i pkt = { s with queues := { s.queues with nextId := s.queues.nextId + 1, cmds := s.queues.cmds ++ [⟨s.queues.nextId, .plan i, pkt, .taken, 0⟩] }, plans := { s.plans with step := some { st with entries := st.entries.set i (.running s.queues.nextId) } } } := by
  simp [State.issueEntry, State.updStep, h]

/-- An entry whose command has ended fails the step, or completes. -/
theorem planEntryComplete_runs {s : State} {i id : Nat} {st : StepRun} {c : Cmd} {r : Result} (hst : s.plans.step = some st) (hrun : st.entryState i = .running id)
    (hc : s.cmd? id = some c) (hend : c.stage = .ended r) :
    Runs (.planEntryComplete i) s (if r.failed && (noteOf (st.entry i) r).isNone then s.failStep r (some i) 0x01 else (s.dropCmd id).updStep (fun t => t.complete i (noteOf (st.entry i) r))) := by
  refine .of_settle rfl ?_
  simp only [hst, hrun, hc, hend, Option.map_some]

/-- An outcome that failed and is not noted ends the step (R50). -/
theorem planEntryComplete_fails {s : State} {i id : Nat} {st : StepRun} {c : Cmd} {r : Result} (hst : s.plans.step = some st) (hrun : st.entryState i = .running id)
    (hc : s.cmd? id = some c) (hend : c.stage = .ended r) (hfail : r.failed = true) (hnote : noteOf (st.entry i) r = none) :
    Runs (.planEntryComplete i) s ((s.setStage st.cmd (.ended (st.result r (some i)))).raiseWave 0x01 r.status) := by
  have h := planEntryComplete_runs hst hrun hc hend
  rwa [hfail, hnote, Option.isNone_none, Bool.and_self, if_pos rfl, State.failStep_running hst] at h

/-- An outcome of OK, or one that is noted, completes the entry (R58, R60). -/
theorem planEntryComplete_completes {s : State} {i id : Nat} {st : StepRun} {c : Cmd} {r : Result} (hst : s.plans.step = some st) (hrun : st.entryState i = .running id)
    (hc : s.cmd? id = some c) (hend : c.stage = .ended r) (hok : r.failed = false ∨ noteOf (st.entry i) r ≠ none) :
    Runs (.planEntryComplete i) s { s.dropCmd id with plans := { s.plans with step := some (st.complete i (noteOf (st.entry i) r)) } } := by
  have hcond : ¬ (r.failed && (noteOf (st.entry i) r).isNone) = true := by
    rcases hok with h | h <;> simp [h]
  have h := planEntryComplete_runs hst hrun hc hend
  rwa [if_neg hcond, State.updStep_running (s := s.dropCmd id) hst] at h

/-! ### Barriers (R19, R21, R380) -/

/-- A barrier that has passed is the one of its kind. -/
theorem State.passed?_of_passed {s : State} {b : Barrier} (hb : s.plans.barrier = some b) (hp : b.passed = true) : s.passed? b.kind = some b := by
  simp [State.passed?, hb, hp]

/-- The command that reached a barrier ends with OK when the chip leaves it. -/
theorem State.leaveBarrier_cmd {b : Barrier} {id : Nat} (s : State) (h : b.cmd = some id) :
    s.leaveBarrier b = ({ s with plans := { s.plans with barrier := none } } : State).endCmd id resOK := by
  simp [State.leaveBarrier, h]

/-- The scatter barrier passes to the stage that waits for it. -/
theorem scatterBarrierPass_runs {s : State} {b : Barrier} {st : StepRun} {id : Nat} (hb : s.plans.barrier = some b) (hp : b.passed = true) (hid : b.cmd = some id)
    (hst : s.plans.step = some st) (hk : b.kind = 0) :
    Runs .scatterBarrierPass s (({ s with plans := { s.plans with step := some { st with scatterPassed := true }, barrier := none } } : State).endCmd id resOK).sortMerge := by
  have hpass : s.passed? 0 = some b := hk ▸ State.passed?_of_passed hb hp
  refine .of_settle rfl ?_
  simp only [hpass, State.updStep_running hst, State.leaveBarrier_cmd _ hid]

/-- The update barrier passes to the stage that waits for it. -/
theorem updateBarrierPass_runs {s : State} {b : Barrier} {st : StepRun} {id : Nat} (hb : s.plans.barrier = some b) (hp : b.passed = true) (hid : b.cmd = some id)
    (hst : s.plans.step = some st) (hk : b.kind = 1) :
    Runs .updateBarrierPass s (({ s with plans := { s.plans with step := some { st with updatePassed := true }, barrier := none } } : State).endCmd id resOK).decideReplicas.chooseMigrations.refreshDue.sendSums := by
  have hpass : s.passed? 1 = some b := hk ▸ State.passed?_of_passed hb hp
  refine .of_settle rfl ?_
  simp only [hpass, State.updStep_running hst, State.leaveBarrier_cmd _ hid]

/-- The step boundary ends STEP.RUN with the step's outcome (R63, R66). -/
theorem stepBoundary_runs {s : State} {st : StepRun} {b : Barrier} (hst : s.plans.step = some st) (hb : s.plans.barrier = some b) (hp : b.passed = true) (hk : b.kind = 2) :
    Runs .stepBoundary s ((s.boundarySettings.stepSummary.afterStep).setStage st.cmd (.ended st.outcome)) := by
  have hpass : s.passed? 2 = some b := hk ▸ State.passed?_of_passed hb hp
  refine .of_settle rfl ?_
  simp only [hst, hpass]

/-- A barrier of no entry that misses its deadline raises the wave. -/
theorem State.barrierTimeout_noCmd {s : State} {b : Barrier} (hb : s.plans.barrier = some b) (hp : b.passed = false) (hc : b.cmd = none) :
    s.barrierTimeout = s.raiseWave 0x02 stTimeout := by
  simp [State.barrierTimeout, hb, hp, hc]

/-- A barrier of an entry that misses its deadline fails the step. -/
theorem State.barrierTimeout_cmd {s : State} {b : Barrier} (hb : s.plans.barrier = some b) (hp : b.passed = false) (hc : b.cmd ≠ none) :
    s.barrierTimeout = s.failStep (resStatus stTimeout) (s.barrierEntry b) 0x02 := by
  simp [State.barrierTimeout, hb, hp, Option.isSome_iff_ne_none.mpr hc]

/-- A flag that comes before the chip awaits its barrier is kept. -/
theorem barrierFlagReceive_early {s : State} {f : Flag} {w : Nat} (hhalt : s.isHalted = false) (hb : ∀ b, s.plans.barrier = some b → b.passed = true) :
    Runs (.barrierFlagReceive f w) s { s with plans := { s.plans with earlyFlags := s.plans.earlyFlags ++ [f] } } := by
  refine .of_settle rfl ?_
  cases h : s.plans.barrier with
  | none => simp only [hhalt, Bool.false_eq_true, if_false]
  | some b => simp only [hhalt, hb b h, Bool.false_eq_true, if_false, if_true]

/-- A flag that the chip awaits is taken; if its barrier passes by it, the wait is counted (R385). -/
theorem barrierFlagReceive_awaited {s : State} {f : Flag} {w : Nat} {b b1 : Barrier} (hhalt : s.isHalted = false) (hb : s.plans.barrier = some b) (hp : b.passed = false)
    (hb1 : (s.takeFlag f).climb.plans.barrier = some b1) :
    Runs (.barrierFlagReceive f w) s (if b1.passed then (s.takeFlag f).climb.addWait (min b.kind 3) w else (s.takeFlag f).climb) := by
  refine .of_settle rfl ?_
  simp only [hhalt, hb, hp, hb1, Bool.false_eq_true, if_false]

/-- Settles O34: each row of the step has the equation of its branch; the step's own record changes by `State.updStep_running`, a fatal outcome ends it by `State.failStep_running`, and a barrier acts by `State.passed?_of_passed`. -/
theorem stepEventsComplete : Obligations.StepEventsComplete := by
  intro s
  refine ⟨?stepBegin, ?entryStart, ?entryComplete, ?boundary, ?deadline, ?earlyFlag, ?awaitedFlag, ?barrierPass⟩
  case stepBegin =>
    intro c hrun hhalt hfirst hc
    have hv := stepBegin_runs hrun hhalt hfirst hc
    refine ⟨fun r hr => ?_, fun hw => ?_, fun p s1 hp hs1 => ?_⟩
    · rwa [hr] at hv
    · rwa [hw] at hv
    · rw [hp] at hv
      subst hs1
      exact hv
  case entryStart =>
    intro i st hst hi hwait hmet hturn hstage
    have hrun := planEntryStart_runs hst hi hwait hmet hturn hstage
    refine ⟨fun hskip => ?_, fun hskip => ?_⟩
    · rwa [if_pos hskip, State.updStep_running hst] at hrun
    · rwa [hskip, if_neg Bool.false_ne_true, State.issueEntry_running hst] at hrun
  case entryComplete =>
    exact fun i st id c r hst hrun hc hend => ⟨planEntryComplete_fails hst hrun hc hend, planEntryComplete_completes hst hrun hc hend⟩
  case boundary => exact fun st b hst hb hp hk => stepBoundary_runs hst hb hp hk
  case deadline =>
    intro b st hst hb hp
    refine ⟨fun hc => .of_settle rfl (State.barrierTimeout_noCmd hb hp hc), fun hc => .of_settle rfl ?_⟩
    exact (State.barrierTimeout_cmd hb hp hc).trans (State.failStep_running hst _ _ _)
  case earlyFlag => exact fun f w hhalt hb => barrierFlagReceive_early hhalt hb
  case awaitedFlag =>
    intro f w b b1 hhalt hb hp hb1
    have hrun := barrierFlagReceive_awaited (w := w) hhalt hb hp hb1
    exact ⟨fun h => by rwa [if_pos h] at hrun, fun h => by rwa [h, if_neg Bool.false_ne_true] at hrun⟩
  case barrierPass =>
    exact fun b st id hb hp hid hst => ⟨scatterBarrierPass_runs hb hp hid hst, updateBarrierPass_runs hb hp hid hst⟩

end Sys2Proof.Machine
end

section
/-! SUPPORT. Temperature, trips and the ridge-matrix domains (R17, R448, R465 to R467): one equation for each branch of their meaning, and O27 assembled from them. -/
namespace Sys2Proof.Machine

/-- A threshold of R466 in the model's words: reached, or still held above its release. -/
theorem heldThreshold_eq {b : Bool} {t up low : Rat} {held : Bool} (h : b = true ↔ (up ≤ t ∨ held = true ∧ low ≤ t)) :
    (decide (up ≤ t) || (held && decide (low ≤ t))) = b := by
  rw [Bool.eq_iff_iff, h, Bool.or_eq_true, Bool.and_eq_true, decide_eq_true_eq, decide_eq_true_eq]

/-- A trip that none precedes is recorded and raises the wave (R467). -/
theorem thermalTrip_runs {s : State} {n : Nat} {t : Byte} (hpend : s.trip.pending = none) (hpin : s.trip.pinLow = false) :
    Runs (.thermalTrip n t) s (({ s with trip := { s.trip with pending := some (n, t) } } : State).raiseWave 0x0A 0) :=
  .of_settle rfl (if_neg (by simp [hpend, hpin]))

/-- With a trip recorded the power goes off (R467). -/
theorem tripPowerOff_runs {s : State} {n : Nat} {t : Byte} (h : s.trip.pending = some (n, t)) :
    Runs .tripPowerOff s { s with
      trip := { s.trip with tripped := true, sensor := BitVec.ofNat 8 n, temp := t, pending := none, pinLow := true }
      ridges := s.ridges.map (fun r => { r with matrixOn := false, waking := false })
      link := { s.link with ports := s.link.ports.map (fun q => if q.state = .none then q else { q.reset with state := .down }) }
      mem := s.mem.powerLost } := by
  refine .of_settle rfl ?_
  simp only [h]

/-- Without a trip recorded nothing follows. -/
theorem tripPowerOff_idle {s : State} (h : s.trip.pending = none) : Runs .tripPowerOff s s := by
  refine .of_settle rfl ?_
  simp only [h]

/-- A domain that switched on while another is switching. -/
theorem domainOnDone_waits {s s1 : State} {r : Nat} (hs1 : s1 = s.updRidge r (fun x => if x.waking then { x with matrixOn := true, waking := false } else x))
    (h : ∃ x ∈ s1.ridges, x.waking = true) : Runs (.domainOnDone r) s s1 := by
  subst hs1
  exact .of_settle rfl (if_pos (List.any_eq_true.mpr h))

/-- The last domain to switch on lets the waiting commands start (R17). -/
theorem domainOnDone_starts {s s1 : State} {r : Nat} (hs1 : s1 = s.updRidge r (fun x => if x.waking then { x with matrixOn := true, waking := false } else x))
    (h : ∀ x ∈ s1.ridges, x.waking = false) :
    Runs (.domainOnDone r) s { s1 with queues := { s1.queues with cmds := mapWhere (fun c => c.stage == .waking) (fun c => { c with stage := .taken }) s1.queues.cmds } } := by
  subst hs1
  exact .of_settle rfl (if_neg (by simpa using h))

/-- A domain that no loaded plan, no group and no command in flight uses switches off (R448). -/
theorem matrixDomainIdleOff_off {s : State} {r : Nat} (hplan : ∀ q ∈ s.plans.store, q.usesMatrix (s.logical r) = false) (hgroup : s.matrix.groups = [])
    (hcmd : ∀ c ∈ s.queues.cmds, c.stage.live = true → usesTree c.pkt = false) :
    Runs (.matrixDomainIdleOff r) s (s.updRidge r (fun x => if x.waking then x else { x with matrixOn := false })) := by
  have hplans : s.plans.store.any (fun q => q.usesMatrix (s.logical r)) = false := List.any_eq_false.mpr fun q hq => by simp [hplan q hq]
  have hcmds : s.queues.cmds.any (fun c => c.stage.live && usesTree c.pkt) = false := List.any_eq_false.mpr fun c hc => by simpa using hcmd c hc
  exact .of_settle rfl (if_neg (by simp [hplans, hgroup, hcmds]))

/-- A domain that a loaded plan uses stays on. -/
theorem matrixDomainIdleOff_stays {s : State} {r : Nat} {q : Plan} (hq : q ∈ s.plans.store) (huses : q.usesMatrix (s.logical r) = true) :
    Runs (.matrixDomainIdleOff r) s s := by
  have hplans : s.plans.store.any (fun q => q.usesMatrix (s.logical r)) = true := List.any_eq_true.mpr ⟨q, hq, huses⟩
  exact .of_settle rfl (if_pos (by simp [hplans]))

/-- Settles O27: the thresholds of a reading are those of the model by `heldThreshold_eq`; trips and domains act as the equation of their branch says. -/
theorem thermalEventsComplete : Obligations.ThermalEventsComplete := by
  rintro s _ rfl
  refine ⟨?reading, ?trip, ?powerOff, ?noTrip, ?domainOn, ?idleOff, ?idleUsed⟩
  case reading =>
    rintro rs _ _ th li rfl rfl hth hli
    refine .of_settle rfl ?_
    simp only [heldThreshold_eq hth, heldThreshold_eq hli]
  case trip => exact fun n t hpend hpin => thermalTrip_runs hpend hpin
  case powerOff => exact fun n t h => tripPowerOff_runs h
  case noTrip => exact tripPowerOff_idle
  case domainOn => exact fun r s1 hs1 => ⟨domainOnDone_waits hs1, domainOnDone_starts hs1⟩
  case idleOff => exact fun r hplan hgroup hcmd => matrixDomainIdleOff_off hplan hgroup hcmd
  case idleUsed => exact fun r q hq huses => matrixDomainIdleOff_stays hq huses

end Sys2Proof.Machine
end

section
/-! SUPPORT. HEALTH and TELEM (R473 to R491): what the effect of each command leaves, one equation for each branch, and O28 assembled from them. -/
namespace Sys2Proof.Machine

/-! ### HEALTH.TEST (R160, R478) -/

/-- Only intrusive tests run the tree array (R477). -/
theorem intrusive_of_testsTree {k : Nat} (h : testsTree k = true) : intrusive k = true := by
  simp only [testsTree, Bool.or_eq_true, beq_iff_eq] at h
  rcases h with rfl | rfl <;> rfl

/-- A test of the tree array waits while a domain of its ridges is off (R17). -/
theorem effectHealthTest_waits {s : State} {c : Ctx} {off : List Nat} (htree : testsTree (testCode c.pkt) = true)
    (hoff : s.switchedOff ((s.testRidges c.pkt).map s.physical) = off) (hne : off ≠ []) : effectHealthTest s c = (s.wakeFor c.id off, none) := by
  have hne' : (!off.isEmpty) = true := by simpa using hne
  simp only [effectHealthTest, intrusive_of_testsTree htree, htree, if_true, hoff, hne']

/-- An intrusive test starts with its ridges in register mode (R160). -/
theorem effectHealthTest_intrusive {s : State} {c : Ctx} (hint : intrusive (testCode c.pkt) = true)
    (hon : testsTree (testCode c.pkt) = false ∨ s.switchedOff ((s.testRidges c.pkt).map s.physical) = []) :
    effectHealthTest s c = ((s.testRidges c.pkt).foldl (fun t r => t.updRidge (t.physical r) (fun x => { x with registerMode := true }))
      { s with health := { s.health with testing := s.health.testing ++ [(c.id, testCode c.pkt, s.testRidges c.pkt)] } }, none) := by
  have hoff : (if testsTree (testCode c.pkt) then s.switchedOff ((s.testRidges c.pkt).map s.physical) else []) = [] := by
    rcases hon with h | h <;> simp [h]
  simp only [effectHealthTest, hint, if_true, hoff, List.isEmpty_nil, Bool.not_true, Bool.false_eq_true, if_false]

/-- A continuous test names no ridge. -/
theorem effectHealthTest_continuous {s : State} {c : Ctx} (hint : intrusive (testCode c.pkt) = false) :
    effectHealthTest s c = ({ s with health := { s.health with testing := s.health.testing ++ [(c.id, testCode c.pkt, [])] } }, none) := by
  have htree : testsTree (testCode c.pkt) = false := Bool.eq_false_iff.mpr fun h => by simp [intrusive_of_testsTree h] at hint
  simp [effectHealthTest, hint, htree]

/-! ### HEALTH.CLEAR_HALT (R491) -/

/-- A halted chip discards what is transient and is halted no more. -/
theorem effectHealthClearHalt_halted {s : State} (c : Ctx) (h : s.isHalted = true) :
    effectHealthClearHalt s c = ({ s.discardTransient with halt := { s.halt with halted := false } }, some resOK) :=
  if_pos h

/-- A chip that is not halted has nothing to clear. -/
theorem effectHealthClearHalt_running {s : State} (c : Ctx) (h : s.isHalted = false) : effectHealthClearHalt s c = (s, some resOK) :=
  if_neg (by simp [h])

/-! ### HEALTH.RETIRE (R480) -/

/-- A ridge is recorded for retirement once. -/
theorem effectHealthRetire_retire {s : State} {c : Ctx} (hcancel : bitAt (c.f 33 1) 0 = false) :
    effectHealthRetire s c = (if s.flash.retire.ridgesPending.getLsbD (s.physical (c.f 32 1)) then s else s.retirePending (s.physical (c.f 32 1)) 0 1, some resOK) := by
  simp only [effectHealthRetire, hcancel, Bool.false_eq_true, if_false]

/-- CANCEL of a ridge that is not pending changes nothing. -/
theorem effectHealthRetire_nothing {s : State} {c : Ctx} (hcancel : bitAt (c.f 33 1) 0 = true) (hpend : s.flash.retire.ridgesPending.getLsbD (s.physical (c.f 32 1)) = false) :
    effectHealthRetire s c = (s, some resOK) := by
  simp [effectHealthRetire, hcancel, hpend]

/-- CANCEL takes a pending retirement back. -/
theorem effectHealthRetire_cancel {s : State} {c : Ctx} {ph : Nat} (hph : ph = s.physical (c.f 32 1)) (hcancel : bitAt (c.f 33 1) 0 = true)
    (hpend : s.flash.retire.ridgesPending.getLsbD ph = true) :
    effectHealthRetire s c = (({ s with flash := { s.flash with retire := { s.flash.retire with seq := s.flash.retire.seq + 1, ridgesPending := s.flash.retire.ridgesPending &&& ~~~(1 <<< ph : W64) } } } : State).decision 12 ph [0] 0 1, some resOK) := by
  subst hph
  simp [effectHealthRetire, hcancel, hpend]

/-- Settles O28: each command runs in the frame of every command (`Ready.ends`, `Ready.runs`), with the effect that its branch gives on the state in which it has begun. -/
theorem healthCommandsComplete : Obligations.HealthCommandsComplete := by
  rintro s _ id c rfl
  refine ⟨?policy, ?testWaits, ?testIntrusive, ?testContinuous, ?clearHalted, ?clearRunning, ?retire, ?ring, ?counters⟩
  case policy => exact fun h => h.ends rfl rfl
  case testWaits =>
    rintro off h htree rfl hne
    exact h.runs rfl (effectHealthTest_waits htree rfl hne)
  case testIntrusive => exact fun h hint hon => h.runs rfl (effectHealthTest_intrusive hint hon)
  case testContinuous => exact fun h hint => h.runs rfl (effectHealthTest_continuous hint)
  case clearHalted => exact fun us h hhalt => h.ends rfl (effectHealthClearHalt_halted (s := s.begun id) c hhalt)
  case clearRunning => exact fun us h hhalt => h.ends rfl (effectHealthClearHalt_running (s := s.begun id) c hhalt)
  case retire =>
    rintro ph _ rfl rfl h
    refine ⟨fun hc hp => h.ends rfl ?_, fun hc hp => h.ends rfl ?_, fun hc hp => h.ends rfl (effectHealthRetire_nothing hc hp), fun hc hp => h.ends rfl (effectHealthRetire_cancel rfl hc hp)⟩
    · rw [effectHealthRetire_retire hc, State.begun_flash, State.begun_physical, hp, if_neg Bool.false_ne_true]
    · rw [effectHealthRetire_retire hc, State.begun_flash, State.begun_physical, hp, if_pos rfl]
  case ring => exact fun h => h.ends rfl rfl
  case counters =>
    rintro w h rfl
    exact h.ends rfl rfl

end Sys2Proof.Machine
end

section
/-! SUPPORT. Resets and the start (R501 to R512, R566, R578): one equation for each branch of their meaning, and O41 assembled from them. -/
namespace Sys2Proof.Machine

/-- The release of reset without a step that was cut off: the BOOT record is written and the start begins (R504, R505). -/
theorem resetRelease_starts {s u : State} {seq : W32} {slot trial : Bool} (hreset : s.boot.inReset = true) (hopen : openStep s.flash.records = none)
    (hseq : seq = nextBootSeq s.flash.records) (hslot : slot = (if s.loadsOther s.flash.records then !s.flash.desc.active else s.flash.desc.active))
    (htrial : trial = (s.flash.desc.trial && (slot == s.flash.desc.active)))
    (hu : u = s.cairn { (cairnRec 1 0 seq) with resetCause := s.boot.resetCause, slot := bnat slot, trial := trial }) :
    Runs .resetRelease s { u with boot := { u.boot with inReset := false, bootSeq := seq, slot := slot, trial := trial, state := .booting, step := 0 } } := by
  subst hu htrial hslot hseq
  refine .of_settle rfl ?_
  simp only [hreset, hopen, Bool.not_true, Bool.false_eq_true, if_false]

/-- A release while reset is not asserted is none. -/
theorem resetRelease_idle {s : State} (h : s.boot.inReset = false) : Runs .resetRelease s s :=
  .of_settle rfl (if_pos (by simp [h]))

/-- The third failure of a step puts the chip in safe state (R507, R512). -/
theorem bootStepStart_safe {s : State} {count : Nat} (t : Nat) (hb : s.betweenSteps = true) (hcount : count = failCount s.flash.records s.nextStep) (hc : 3 ≤ count) :
    Runs (.bootStepStart t) s (s.enterSafe s.nextStep count (BitVec.ofNat 64 t)) := by
  subst hcount
  refine .of_settle rfl ?_
  simp only [hb, hc, Bool.not_true, Bool.false_eq_true, if_false, if_true]

/-- A step other than LINKS begins on its normal path with its STEP_START (R507). -/
theorem bootStepStart_normal {s u : State} {count : Nat} (t : Nat) (hb : s.betweenSteps = true) (h9 : s.nextStep ≠ 9) (hcount : count = failCount s.flash.records s.nextStep)
    (hc : count < 3) (hpath : s.stepPath s.nextStep count s.flash.records = 0)
    (hu : u = s.cairn { (cairnRec 2 s.nextStep s.boot.bootSeq) with path := 0, elapsed := BitVec.ofNat 64 t }) :
    Runs (.bootStepStart t) s { u with boot := { u.boot with step := s.nextStep, running := true, path := 0, fails := count } } := by
  subst hu hcount
  refine .of_settle rfl ?_
  simp only [hb, hpath, if_neg (Nat.not_le.mpr hc), if_neg h9, Bool.not_true, Bool.false_eq_true, if_false, if_true, Nat.zero_ne_one, false_and, and_false]

/-- The end of a step that leaves enough fit ridges, or is not RIDGES, writes its STEP_END (R503, R506). -/
theorem bootStepEnd_ends {s : State} {r : BootResult} (t : Nat) (hopen : s.stepOpen = true) (h : ¬ (s.boot.step = 7 ∧ r.ok = true ∧ (s.endStep r).state.boot.ridgeCount < 52)) :
    Runs (.bootStepEnd r t) s (s.writeEnd (s.endStep r) (BitVec.ofNat 64 t)) := by
  refine .of_settle rfl ?_
  simp only [hopen, Bool.not_true, Bool.false_eq_true, if_false, if_neg h]

/-- Fewer than 52 fit ridges put the chip in safe state at once (R10, R502). -/
theorem bootStepEnd_safe {s u : State} {r : BootResult} (t : Nat) (hopen : s.stepOpen = true) (h7 : s.boot.step = 7) (hok : r.ok = true) (hfew : (s.endStep r).state.boot.ridgeCount < 52)
    (hu : u = (s.writeEnd (s.endStep r) (BitVec.ofNat 64 t)).enterSafe 7 (s.writeEnd (s.endStep r) (BitVec.ofNat 64 t)).boot.fails (BitVec.ofNat 64 t)) :
    Runs (.bootStepEnd r t) s { u with boot := { u.boot with policyReset := false } } := by
  subst hu
  refine .of_settle rfl ?_
  simp only [hopen, Bool.not_true, Bool.false_eq_true, if_false]
  exact if_pos ⟨h7, hok, hfew⟩

/-- A step that runs past its budget ends with TIMEOUT (R503). -/
theorem bootStepTimeout_runs {s : State} (t : Nat) (hopen : s.stepOpen = true) :
    Runs (.bootStepTimeout t) s (s.writeEnd ⟨s, 3, 0x20, 0, 0⟩ (BitVec.ofNat 64 t)) :=
  .of_settle rfl (if_neg (by simp [hopen]))

/-- Settles O41: every row of the start has the equation of its branch. -/
theorem startEventsComplete : Obligations.StartEventsComplete := by
  intro s
  refine ⟨rfl, rfl, ?jtagClosed, ?jtagOpen, ?release, ?noRelease, ?stepStart, ?stepEnd, ?ridgesEnd, ?ridgesSafe, ?timeout, ?policyReset, ?watchdog⟩
  case jtagClosed => exact fun h => .of_settle rfl (if_pos h)
  case jtagOpen => exact fun h => .of_settle rfl (if_neg h)
  case release => exact fun seq slot trial u hreset hopen hseq hslot htrial hu => resetRelease_starts hreset hopen hseq hslot htrial hu
  case noRelease => exact resetRelease_idle
  case stepStart => exact fun t count u hb h9 hcount => ⟨bootStepStart_safe t hb hcount, bootStepStart_normal t hb h9 hcount⟩
  case stepEnd => exact fun r t hopen h7 => bootStepEnd_ends t hopen fun h => h7 h.1
  case ridgesEnd =>
    rintro r t hopen - hfit
    refine bootStepEnd_ends t hopen ?_
    rintro ⟨-, hok, hfew⟩
    rcases hfit with h | h
    · simp [hok] at h
    · omega
  case ridgesSafe => exact fun r t u hopen h7 hok hfew hu => bootStepEnd_safe t hopen h7 hok hfew hu
  case timeout => exact fun t => bootStepTimeout_runs t
  case policyReset => exact fun h => .of_settle rfl (if_pos h)
  case watchdog => exact fun h => .of_settle rfl (if_pos h)

end Sys2Proof.Machine
end

section
/-! SUPPORT. Collectives and pace (R50, R241, R326, R346, R376, R378, R382, R385): one equation for each branch of their meaning, and O20 assembled from them. -/
namespace Sys2Proof.Machine

/-! ### The start of a collective (R241, R378) -/

/-- A collective whose turn has come, with none of its pieces held, reads IN and sends its first pieces. -/
theorem collEntryTransferStart_runs {s s1 : State} {id : Nat} {j j1 : Coll} {c : Ctx} (hj : s.coll? id = some j) (hc : s.runningCtx id = some c) (hnew : j.started = false) (hfree : s.queueFree j = true)
    (h1 : j1 = { j with started := true, poisoned := !(s.readAll (s.collReads c.pkt)).good || (isCurd c.pkt && (s.curdIn c.pkt).poisoned), fail := if (s.readAll (s.collReads c.pkt)).uncorr.isEmpty then none else some ⟨stUncorrected, 0⟩ })
    (hs1 : s1 = (s.noteReads 3 (s.collReads c.pkt)).doWork (s.collEnv c.pkt) (s.collBegin (s.collEnv c.pkt) j1))
    (hearly : ∀ x ∈ s1.coll.early, x.piece.queue = j.queue → x.piece.collId ≠ j.collId) : Runs (.collEntryTransferStart id) s s1 := by
  have hmine : ∀ x ∈ s1.coll.early, (x.piece.queue == j.queue && x.piece.collId == j.collId) = false := fun x hx => by simpa using hearly x hx
  have hnone : s1.coll.early.filter (fun x => x.piece.queue == j.queue && x.piece.collId == j.collId) = [] := List.filter_eq_nil_iff.mpr fun x hx => by simp [hmine x hx]
  have hall : s1.coll.early.filter (fun x => !(x.piece.queue == j.queue && x.piece.collId == j.collId)) = s1.coll.early := List.filter_eq_self.mpr fun x hx => by simp [hmine x hx]
  refine .of_settle rfl ?_
  simp only [hj, hc, hnew, hfree, Bool.not_true, Bool.or_self, Bool.false_eq_true, if_false, ← h1, ← hs1, hnone, hall, List.map_nil, List.foldl_nil]

/-! ### Pieces (R326, R346, R376) -/

/-- A piece of this step is taken by its collective once that has begun. -/
theorem collPieceReceive_taken {s : State} {p : Piece} {j : Coll} (hhalt : s.isHalted = false) (hstep : p.step = s.step32)
    (hj : s.coll.jobs.find? (fun j => j.queue == p.queue && j.collId == p.collId) = some j) (hbegun : j.started = true) :
    Runs (.collPieceReceive p) s (s.takePiece j p) := by
  refine .of_settle rfl ?_
  simp only [hhalt, hstep, hj, hbegun, ne_eq, not_true_eq_false, Bool.false_eq_true, if_false, if_true]

/-- A piece of this step is held while its collective has not begun. -/
theorem collPieceReceive_held {s : State} {p : Piece} (hhalt : s.isHalted = false) (hstep : p.step = s.step32)
    (hnew : ∀ j ∈ s.coll.jobs, j.queue = p.queue → j.collId = p.collId → j.started = false) : Runs (.collPieceReceive p) s (s.holdPiece p) := by
  refine .of_settle rfl ?_
  simp only [hhalt, hstep, ne_eq, not_true_eq_false, Bool.false_eq_true, if_false]
  cases hj : s.coll.jobs.find? (fun j => j.queue == p.queue && j.collId == p.collId) with
  | none => rfl
  | some j =>
    have hkey := List.find?_some hj
    simp only [Bool.and_eq_true, beq_iff_eq] at hkey
    simp only [hnew j (List.mem_of_find?_eq_some hj) hkey.1 hkey.2, Bool.false_eq_true, if_false]

/-- A piece for which reassembly has room is held there. -/
theorem State.holdPiece_room {s : State} {p : Piece} {place : Option Nat} (h : (s.reasmRoom p.data).2 = some place) :
    s.holdPiece p = { (s.reasmRoom p.data).1 with coll := { (s.reasmRoom p.data).1.coll with early := (s.reasmRoom p.data).1.coll.early ++ [⟨p, place⟩] } } := by
  simp only [State.holdPiece, h]

/-- A piece for which there is no room is not held. -/
theorem State.holdPiece_full {s : State} {p : Piece} (h : (s.reasmRoom p.data).2 = none) : s.holdPiece p = (s.reasmRoom p.data).1 := by
  simp only [State.holdPiece, h]

/-- A piece of another step is a fault of its collective. -/
theorem collPieceReceive_otherStep {s : State} {p : Piece} {j : Coll} (hhalt : s.isHalted = false) (hstep : p.step ≠ s.step32)
    (hj : s.coll.jobs.find? (fun j => j.queue == p.queue && j.collId == p.collId) = some j) :
    Runs (.collPieceReceive p) s (s.collFault j.cmd (resStatus stStepMismatch) 0x04) := by
  refine .of_settle rfl ?_
  simp only [hhalt, hj, if_pos hstep, Bool.false_eq_true, if_false]

/-- A fault of a directly submitted collective ends its command and raises the wave. -/
theorem State.collFault_direct {s : State} {id : Nat} {r : Result} {cause : Byte} (h : (s.cmd? id).bind Cmd.entry? = none) :
    s.collFault id r cause = (s.endCmd id r).raiseWave cause r.status := by
  simp only [State.collFault, h]

/-- A fault of the collective of a plan entry fails the step. -/
theorem State.collFault_entry {s : State} {id e : Nat} {r : Result} {cause : Byte} (h : (s.cmd? id).bind Cmd.entry? = some e) :
    s.collFault id r cause = s.failStep r (some e) cause := by
  simp only [State.collFault, h]

/-! ### The end of a collective (R377, R378, R385) -/

/-- A collective has left, and what it waited is counted. -/
def State.collLeft (s : State) (id waited : Nat) : State :=
  ({ s with coll := { s.coll with jobs := s.coll.jobs.filter (fun k => k.cmd != id) } } : State).addWait 4 waited

section
variable {s : State} {id waited : Nat} {j : Coll} {c : Ctx} (hj : s.coll? id = some j) (hc : s.runningCtx id = some c) (hsent : s.collSent j = true)
  (hhere : (s.collEnv c.pkt).allHere j = true) (hfail : j.fail = none)
include hj hc hsent hhere hfail

/-- A collective that has sent and received everything, unpoisoned, writes OUT and ends with OK. -/
theorem collComplete_writes {w : State × WriteRes} (hclean : j.poisoned = false) (hw : w = (s.collLeft id waited).writeColl c (s.collEnv c.pkt) j) (hok : writeStatus w.2 = none) :
    Ends (.collComplete id waited) s id resOK w.1 := by
  subst hw
  refine Runs.of_settle rfl ?_
  simp only [State.collLeft] at hok
  simp only [State.collLeft, hj, hc, hsent, hhere, hfail, hclean, hok, Bool.and_self, Bool.not_true, Bool.false_eq_true, if_false, Option.getD_none]

/-- A poisoned one poisons OUT and ends with POISONED. -/
theorem collComplete_poisons (hpoison : j.poisoned = true) :
    Ends (.collComplete id waited) s id (resStatus stPoisoned) ((s.collLeft id waited).poisonColl c.pkt) := by
  refine Runs.of_settle rfl ?_
  simp only [State.collLeft, hj, hc, hsent, hhere, hfail, hpoison, Bool.and_self, Bool.not_true, Bool.false_eq_true, if_false]

end

/-- Settles O20: the rows of collectives have the equation of their branch, a piece of this step by whether its collective has begun, one of another step by `State.collFault`; the pace tag is its definition. -/
theorem collectiveEventsComplete : Obligations.CollectiveEventsComplete := by
  intro s
  refine ⟨?start, ?taken, ?held, ?otherStep, ?writes, ?poisons, fun _ => rfl⟩
  case start => exact fun id j c j1 s1 hj hc hnew hfree h1 hs1 hearly => collEntryTransferStart_runs hj hc hnew hfree h1 hs1 hearly
  case taken => exact fun p j hhalt hstep hj hbegun => collPieceReceive_taken hhalt hstep hj hbegun
  case held =>
    intro p hhalt hstep hnew
    have hrun := collPieceReceive_held hhalt hstep hnew
    exact ⟨fun place h => by rwa [State.holdPiece_room h] at hrun, fun h => by rwa [State.holdPiece_full h] at hrun⟩
  case otherStep =>
    intro p j hhalt hstep hj
    have hrun := collPieceReceive_otherStep hhalt hstep hj
    exact ⟨fun h => by rwa [State.collFault_direct h] at hrun, fun e h => by rwa [State.collFault_entry h] at hrun⟩
  case writes => exact fun id waited j c w hj hc hsent hhere hfail hclean hw hok => collComplete_writes hj hc hsent hhere hfail hclean hw hok
  case poisons => exact fun id waited j c hj hc hsent hhere hfail hpoison => collComplete_poisons hj hc hsent hhere hfail hpoison

end Sys2Proof.Machine
end

section
/-! SUPPORT. The life of a directly submitted command (R29, R33, R36 to R41, R44 to R47, R49 to R52): doorbells, packets taken, replies, the pop window and deadlines, one equation for each branch of their meaning, and O33, O57 and O58 assembled from them. -/
namespace Sys2Proof.Machine

/-! ### Doorbells (R36) -/

/-- A doorbell of one of the 64 queues, in D0. -/
theorem hstSqDoorbell_runs {s u : State} {q : Nat} {v : W32} (hd : s.host.d3hot = false) (hq : q < 64) (h : doorbell q v s = u) : Runs (.hstSqDoorbell q v) s u :=
  .of_bar hd rfl ((if_pos hq).trans h)

/-- A doorbell of a queue that does not exist. -/
theorem doorbell_noQueue {s : State} {q : Nat} {v : W32} (h : s.sub? q = none) : doorbell q v s = s.queueErr q (fun e => { e with dbNoq := true }) := by
  simp only [doorbell, h]

/-- A tail beyond the ring. -/
theorem doorbell_beyondRing {s : State} {q : Nat} {v : W32} {x : SubQueue} (h : s.sub? q = some x) (ht : x.units ≤ v.toNat % 2 ^ 16) :
    doorbell q v s = s.queueErr q (fun e => { e with dbRange := true }) := by
  simp only [doorbell, h, if_pos ht]

/-- A tail in the ring but behind the head. -/
theorem doorbell_behindHead {s : State} {q : Nat} {v : W32} {x : SubQueue} (h : s.sub? q = some x) (ht : v.toNat % 2 ^ 16 < x.units)
    (hb : x.units < (x.lap (v.toNat % 2 ^ 16) (v.getLsbD 16) + 2 * x.units - x.lap x.head x.headWrap) % (2 * x.units)) :
    doorbell q v s = s.queueErr q (fun e => { e with dbBack := true }) := by
  simp only [doorbell, h, if_neg (Nat.not_le.mpr ht), if_pos hb]

/-- A tail in the ring and not behind the head. -/
theorem doorbell_moves {s : State} {q : Nat} {v : W32} {x : SubQueue} (h : s.sub? q = some x) (ht : v.toNat % 2 ^ 16 < x.units)
    (hb : (x.lap (v.toNat % 2 ^ 16) (v.getLsbD 16) + 2 * x.units - x.lap x.head x.headWrap) % (2 * x.units) ≤ x.units) :
    doorbell q v s = s.updSub q (fun y => { y with tail := v.toNat % 2 ^ 16, tailWrap := v.getLsbD 16 }) := by
  simp only [doorbell, h, if_neg (Nat.not_le.mpr ht), if_neg (Nat.not_lt.mpr hb)]

/-! ### Packets taken (R37, R40, R44, R46) -/

/-- The queue whose turn it is gives its packet, and the turn goes on. -/
theorem takePacket_runs {s : State} {q base i : Nat} {x : SubQueue} {p : List Byte} (hturn : s.nextTurn = some (base, i)) (hq : (turnOrder base).getD i 0 = q)
    (hx : s.sub? q = some x) (hp : s.takeable q = some p) :
    Runs (.takePacket q) s (({ s with queues := { s.queues with turnBase := base, turnPos := i + 1, lastServed := q } } : State).takeFrom q x p) := by
  refine .of_settle rfl ?_
  simp only [hturn, hx, hp, ne_eq, hq, not_true_eq_false, if_false]

/-- A packet has left a queue: a slot for its reply is reserved and the head has moved by its units. -/
def State.packetLeft (s : State) (q : Nat) (x : SubQueue) (p : List Byte) : State :=
  (s.updSub q (fun y => { y with head := (x.moved (p.length / 32)).1, headWrap := (x.moved (p.length / 32)).2, lag := min (y.lag + p.length / 32) y.units })).updResp (s.replyQueue p) (fun r => { r with reserved := r.reserved + 1 })

/-- The command of a packet as it is taken from a queue. -/
def State.freshCmd (s : State) (q : Nat) (p : List Byte) : Cmd := ⟨s.queues.nextId, .queue q, p, .taken, s.replyQueue p⟩

/-- A packet whose response queue exists and that passes what is checked as it is taken is in flight. -/
theorem State.takeFrom_taken {s : State} {q : Nat} {p : List Byte} (x : SubQueue) (hresp : (s.resp? (pktRespQueue p)).isSome = true)
    (hstage : s.takenStage (s.ctxOf (s.freshCmd q p)) = .taken) :
    s.takeFrom q x p = { s.packetLeft q x p with queues := { (s.packetLeft q x p).queues with nextId := s.queues.nextId + 1, cmds := (s.packetLeft q x p).queues.cmds ++ [s.freshCmd q p] } } := by
  have hnone : (s.resp? (pktRespQueue p)).isNone = false := by rw [← Option.not_isSome, hresp]; rfl
  simp only [State.freshCmd] at hstage
  simp only [State.takeFrom, State.packetLeft, State.freshCmd, hstage, Stage.forPacket, hnone, Bool.false_eq_true, if_false, reduceCtorEq]

/-- A packet whose response queue is missing and that ends as it is taken leaves the error of R37 as well. -/
theorem State.takeFrom_missing {s : State} {q : Nat} {p : List Byte} {r : Result} (x : SubQueue) (hresp : s.resp? (pktRespQueue p) = none)
    (hstage : s.takenStage (s.ctxOf (s.freshCmd q p)) = .ended r) :
    s.takeFrom q x p = { s.packetLeft q x p with queues := { (s.packetLeft q x p).queues with
      nextId := s.queues.nextId + 1
      cmds := (s.packetLeft q x p).queues.cmds ++ [{ s.freshCmd q p with stage := .ended (r.forCmd (s.freshCmd q p)) }]
      err := { s.queues.err with rqMissing := true, lastQ := BitVec.ofNat 6 (pktRespQueue p) } } } := by
  simp only [State.freshCmd] at hstage
  simp only [State.takeFrom, State.packetLeft, State.freshCmd, State.queueErr, State.updSub, State.updResp, hstage, Stage.forPacket, hresp, Option.isNone_none, if_true, if_false, reduceCtorEq]

/-- A packet that fails checks 1 to 4 ends as it is taken. -/
theorem State.takenStage_precheck {s : State} {c : Ctx} {r : Result} (h : precheck (s.resp? (pktRespQueue c.pkt)).isNone c.pkt = .inl r) : s.takenStage c = .ended r := by
  simp only [State.takenStage, h]

/-- Check 1 comes first. -/
theorem precheck_header {p : List Byte} {r : Result} (noQueue : Bool) (h : firstBreach (headerBreaches p) = some r) : precheck noQueue p = .inl r := by
  simp only [precheck, h]

/-- Check 2 follows. -/
theorem precheck_opcode {p : List Byte} (noQueue : Bool) (h : firstBreach (headerBreaches p) = none) (hop : opInfo? (opcodeOf p) = none) :
    precheck noQueue p = .inl (resStatus stBadOpcode) := by
  simp only [precheck, h, hop]

/-- Without its response queue a packet does not pass check 3: PARAM_LENGTH is judged before the queue. -/
theorem precheck_noQueue {p : List Byte} {k : OpInfo} (h : firstBreach (headerBreaches p) = none) (hop : opInfo? (opcodeOf p) = some k) :
    precheck true p = .inl (badParam 0 (if lengthOk k p then 12 else 8)) := by
  simp only [precheck, h, hop]
  cases lengthOk k p <;> rfl

/-- The replies of a packet whose response queue is missing go to queue 0 (R37). -/
theorem State.replyQueue_missing {s : State} {p : List Byte} (h : s.resp? (pktRespQueue p) = none) : s.replyQueue p = 0 := by
  simp [State.replyQueue, h]

/-- Settles O58: checks 1 to 3 in their order (`precheck_header`, `precheck_opcode`, `precheck_noQueue`) give the result with which `State.takeFrom_missing` ends the packet. -/
theorem missingResponseQueueEnds : Obligations.MissingResponseQueueEnds := by
  intro s s0 s1 q base i x p hturn hq hx hp hresp hs0 hs1
  refine ⟨State.replyQueue_missing hresp, fun r hr => ?_⟩
  have hresp0 : s0.resp? (pktRespQueue p) = none := by rw [hs0]; exact hresp
  have hpre : precheck (s0.resp? (pktRespQueue p)).isNone p = .inl r := by
    rw [hresp0]
    rcases hr with h | ⟨h, hop, rfl⟩ | ⟨k, h, hop, rfl⟩
    · exact precheck_header _ h
    · exact precheck_opcode _ h hop
    · exact precheck_noQueue h hop
  have hqueue : s0.replyQueue p = 0 := State.replyQueue_missing hresp0
  have hcmd : s0.freshCmd q p = ⟨s.queues.nextId, .queue q, p, .taken, 0⟩ := by rw [State.freshCmd, hqueue, hs0]
  have hleft : s0.packetLeft q x p = s1 := by rw [State.packetLeft, hqueue, hs1]
  have hid : s0.queues.nextId = s.queues.nextId := by rw [hs0]
  have herr : s0.queues.err = s.queues.err := by rw [hs0]
  have hrun := takePacket_runs hturn hq hx hp
  rwa [← hs0, State.takeFrom_missing x hresp0 (State.takenStage_precheck hpre), hcmd, hleft, hid, herr] at hrun

/-! ### Deferral and replies (R29, R33, R41, R47) -/

/-- A deferred command waits for the boundary. -/
theorem deferredStart_runs {s : State} {id : Nat} {c : Cmd} (hc : s.cmd? id = some c) (hst : c.stage = .deferred) :
    Runs (.deferredStart id) s (if s.stepRunning then s else s.setStage id .taken) := by
  refine .of_settle rfl ?_
  cases hrun : s.stepRunning <;> simp [hc, hst]

/-- QUIET suppresses the reply of a command that ended with OK: its slot is free again (R29). -/
theorem State.reply_quiet {s : State} {c : Cmd} {r : Result} (rt : Nat) (hquiet : flagQuiet c.pkt = true) (hok : r.status = stOK) :
    s.reply c r rt = s.updResp c.rq (fun x => { x with reserved := x.reserved - 1 }) := by
  simp [State.reply, hquiet, hok]

/-- Every other reply is written to its queue, and to the packet's REPLY_ADDRESS (R33). -/
theorem State.reply_written {s : State} {c : Cmd} {r : Result} (rt : Nat) (h : flagQuiet c.pkt = false ∨ r.status ≠ stOK) :
    s.reply c r rt = ((s.updResp c.rq (fun x => { x with reserved := x.reserved - 1 })).pushReply c.rq (replyOf c r rt)).writeReplyAddress c.pkt (replyOf c r rt) := by
  have hloud : (flagQuiet c.pkt && r.status == stOK) = false := by
    rcases h with h | h <;> simp [h]
  simp only [State.reply, hloud, Bool.false_eq_true, if_false]

/-- A command of a queue that has ended is answered and leaves. -/
theorem commandComplete_runs {s : State} {id rt q : Nat} {c : Cmd} {r : Result} (hc : s.cmd? id = some c) (hsrc : c.src = .queue q) (hend : c.stage = .ended r) :
    Runs (.commandComplete id rt) s ((s.reply c r rt).dropCmd id).finishDeletes := by
  refine .of_settle rfl ?_
  simp only [hc, hsrc, hend]

/-- The coalescing timer signals a queue in which a reply waits that has not been signalled (R41). -/
theorem responseCoalesceTimer_signals {s : State} {q : Nat} {x : RespQueue} (hx : s.resp? q = some x) (hirq : x.irq = true) (hq : q < 63) (hwait : x.replies ≠ [])
    (hsince : x.sinceSignal ≠ 0) : Runs (.responseCoalesceTimer q) s ((s.updResp q (fun y => { y with sinceSignal := 0 })).signal q) := by
  refine .of_settle rfl ?_
  simp [hx, hirq, hq, hwait, hsince]

/-- The state in which RQ_STALL is set: vector 63 has signalled if an error was in HST_QUEUE_ERR before. -/
def State.stallSignalled (s : State) : State := if s.queues.err.any then s.signal 63 else s

/-- RQ_STALL sets for a queue that stalls (R40). -/
theorem rqStall_runs {s : State} {q : Nat} (h : s.stalls q = true) : Runs (.rqStall q) s (s.stallSignalled.queueErr q (fun e => { e with rqStall := true })) :=
  .of_settle rfl (if_pos h)

/-! ### The pop window (R38) -/

/-- A read of another size than 32 bytes, or not aligned. -/
theorem popRead_badSize {s : State} {q off n : Nat} (h : n ≠ 32 ∨ off % 32 ≠ 0) :
    popRead q off n s = (s.queueErr q (fun e => { e with popSize := true })).answerHost (zeros n) false :=
  if_pos h

/-- The oldest reply is given and removed. -/
theorem popRead_oldest {s : State} {q off : Nat} {x : RespQueue} {r : Reply} {rs : List Reply} (hoff : off % 32 = 0) (hx : s.resp? q = some x) (hr : x.replies = r :: rs) :
    popRead q off 32 s = (s.updResp q RespQueue.popped).answerHost r.bytes false := by
  simp [popRead, hoff, hx, hr]

/-- No reply waits. -/
theorem popRead_empty {s : State} {q off : Nat} {x : RespQueue} (hoff : off % 32 = 0) (hx : s.resp? q = some x) (hr : x.replies = []) :
    popRead q off 32 s = s.answerHost (zeros 32) false := by
  simp [popRead, hoff, hx, hr]

/-- The 4 KiB of BAR2 that are the pop window of a queue (R38, R556). -/
theorem bar2Read_popWindow {s : State} {q off n : Nat} (hq : q < 64) (hlo : 0x1000000 + 0x1000 * q ≤ off) (hhi : off < 0x1001000 + 0x1000 * q) :
    bar2Read off n s = popRead q off n s := by
  have hmem : ¬ off < 0x800000 := by omega
  have hwin : 0x1000000 ≤ off ∧ off < 0x1040000 := by omega
  have hnum : (off - 0x1000000) / 0x1000 = q := by omega
  rw [bar2Read, if_neg hmem, if_pos hwin, hnum]

/-- POP_REPLY acts in D0 as a read of the pop window. -/
theorem popReply_runs {s u : State} {q off n : Nat} (hd : s.host.d3hot = false) (h : popRead q off n s = u) : Runs (.popReply q off n) s u :=
  .of_bar hd rfl h

/-- Settles O57: a read of BAR2 in the window of a queue is a read of its pop window (`bar2Read_popWindow`), as POP_REPLY is, and `popRead` has its three branches. -/
theorem popWindowGivesReplies : Obligations.PopWindowGivesReplies := by
  intro s q off n hd hq hlo hhi i hi
  have hrun : ∀ {u : State}, popRead q off n s = u → Runs i s u := by
    intro u hu
    rcases hi with rfl | rfl
    · exact .of_bar hd rfl ((bar2Read_popWindow hq hlo hhi).trans hu)
    · exact popReply_runs hd hu
  refine ⟨?oldest, ?empty, fun h => hrun (popRead_badSize h)⟩
  case oldest =>
    rintro x r rs hx hr rfl hoff
    exact hrun (popRead_oldest hoff hx hr)
  case empty =>
    rintro x hx hr rfl hoff
    exact hrun (popRead_empty hoff hx hr)

/-! ### Deadlines (R46, R49, R51, R52) -/

/-- An opcode below the PLAN family is none of those whose deadlines have rules of their own. -/
theorem ne_planOps {op : Nat} (h : op < 0xF000) : op ≠ 0xF010 ∧ op ≠ 0xF020 ∧ op ≠ 0xF021 := by omega

/-- A running command outside PLAN past its deadline times out. -/
theorem commandDeadline_running {s : State} {id : Nat} {c : Cmd} (hc : s.cmd? id = some c) (hst : c.stage = .running) (hop : opcodeOf c.pkt < 0xF000) :
    Runs (.commandDeadline id) s (s.timeoutCmd c) := by
  obtain ⟨hrun, hbar, hagree⟩ := ne_planOps hop
  refine .of_settle rfl ?_
  simp [hc, hst, hrun, hbar, hagree]

/-- No wave is raised for a command of another family than COLL (R51). -/
theorem State.timeoutCmd_noWave {s : State} {c : Cmd} (h : familyOf (opcodeOf c.pkt) ≠ 8) :
    s.timeoutCmd c = ((s.poisonOuts (s.ctxOf c)).dropWork c.id).endCmd c.id (s.timeoutResult (s.ctxOf c)) :=
  if_neg fun hw => h hw.1

/-- A command outside PLAN that waits for nothing but fails a check ends with that check's result. -/
theorem commandDeadline_fails {s : State} {id : Nat} {c : Cmd} {r : Result} (hc : s.cmd? id = some c) (hst : c.stage = .taken) (hmay : s.mayStart c = true) (hop : opcodeOf c.pkt < 0xF000)
    (hr : ((opInfo? (opcodeOf c.pkt)).bind (fun i => i.check s (s.ctxOf c))).or (s.startFails (s.ctxOf c)) = some r) : Ends (.commandDeadline id) s id r s := by
  obtain ⟨hrun, hbar, hagree⟩ := ne_planOps hop
  refine Runs.of_settle rfl ?_
  simp [hc, hst, hmay, hrun, hbar, hagree, hr]

/-- The running step past its deadline ends. -/
theorem stepDeadline_running {s : State} {st : StepRun} (hst : s.plans.step = some st) : Runs .stepDeadline s (s.stepTimeout st) := by
  refine .of_settle rfl ?_
  simp only [hst]

/-- The STEP.RUN whose step waits to begin ends past its deadline (R105). -/
theorem stepDeadline_waiting {s : State} {c : Cmd} (hst : s.plans.step = none) (hc : s.waitingRun = some c) : Ends .stepDeadline s c.id (resStatus stTimeout) s := by
  refine Runs.of_settle rfl ?_
  simp only [hst, hc]

/-- Settles O33: each row has the equation of its branch. -/
theorem queueEventsComplete : Obligations.QueueEventsComplete := by
  intro s
  refine ⟨?doorbell, ?take, ?deferred, ?complete, ?pop, ?popBadSize, ?stall, ?coalesce, ?deadline, ?deadlineCheck, ?stepDeadline, fun c hst hc => stepDeadline_waiting hst hc⟩
  case doorbell =>
    rintro q v x _ _ hd hq rfl rfl
    exact ⟨fun h => hstSqDoorbell_runs hd hq (doorbell_noQueue h), fun h ht => hstSqDoorbell_runs hd hq (doorbell_beyondRing h ht),
      fun h ht hb => hstSqDoorbell_runs hd hq (doorbell_behindHead h ht hb), fun h ht hb => hstSqDoorbell_runs hd hq (doorbell_moves h ht hb)⟩
  case take =>
    rintro q x p base i _ _ hturn hq hx hp hresp rfl hstage rfl
    have hrun := takePacket_runs hturn hq hx hp
    rwa [State.takeFrom_taken x (by exact hresp) (by exact hstage)] at hrun
  case deferred =>
    intro id c hc hst
    have hrun := deferredStart_runs hc hst
    exact ⟨fun h => by rwa [h] at hrun, fun h => by rwa [if_pos h] at hrun⟩
  case complete =>
    rintro id rt c q r _ hc hsrc hend rfl
    have hrun := commandComplete_runs (rt := rt) hc hsrc hend
    exact ⟨fun hquiet hok => by rwa [State.reply_quiet rt hquiet hok] at hrun, fun h => by rwa [State.reply_written rt h] at hrun⟩
  case pop =>
    exact fun q off hd hoff => ⟨fun x r rs hx hr => popReply_runs hd (popRead_oldest hoff hx hr), fun x hx hr => popReply_runs hd (popRead_empty hoff hx hr)⟩
  case popBadSize => exact fun q off n hd h => popReply_runs hd (popRead_badSize h)
  case stall => exact fun q h => ⟨s.stallSignalled, fun hany => if_pos hany, fun hany => if_neg (by simp [hany]), rqStall_runs h⟩
  case coalesce => exact fun q x hx hirq hq hwait hsince => responseCoalesceTimer_signals hx hirq hq hwait hsince
  case deadline =>
    intro id c hc hst hop hfam
    have hrun := commandDeadline_running hc hst hop
    rwa [State.timeoutCmd_noWave hfam] at hrun
  case deadlineCheck => exact fun id c r hc hst hmay hop hr => commandDeadline_fails hc hst hmay hop hr
  case stepDeadline =>
    rintro st _ hst rfl
    exact stepDeadline_running hst

end Sys2Proof.Machine
end

section
/-! SUPPORT. Commands that fail a check, and the SYS commands (R32, R42, R43, R46, R53): the frame of every row with a check list, what the effect of each SYS command leaves, and O52 and O1 assembled from them. -/
namespace Sys2Proof.Machine

/-! ### The rows that run a command (R46) -/

/-- Each row with a check list of its own runs its command in the frame of every command. -/
theorem exec_of_commandInfo {i : Instr} {id : Nat} {info : OpInfo} (s : State) (h : commandInfo i = some (id, info)) :
    ∃ e, exec i s = .next (s.settle (s.runCmd info id e)) := by
  unfold commandInfo at h
  split at h <;> cases h <;> exact ⟨_, rfl⟩

/-- Settles O52: in the frame of every command (`exec_of_commandInfo`), one that may not start changes nothing, and one that fails a check ends with it. -/
theorem failedCheckHasNoEffect : Obligations.FailedCheckHasNoEffect := by
  intro i s id info hi
  obtain ⟨e, hexec⟩ := exec_of_commandInfo s hi
  exact ⟨fun hwait => .of_settle hexec (State.runCmd_waits hwait), fun k r hk hr => Runs.of_settle hexec (State.runCmd_fails hk hr)⟩

/-! ### SYS (R42, R43, R53) -/

/-- A queue whose other packets have all completed. -/
theorem State.othersFrom_eq_false {s : State} {q id : Nat} : s.othersFrom q id = false ↔ ∀ d ∈ s.queues.cmds, d.src = .queue q → d.id = id := by
  simp [State.othersFrom]

/-- A queue of which another packet has not completed. -/
theorem State.othersFrom_eq_true {s : State} {q id : Nat} : s.othersFrom q id = true ↔ ∃ d ∈ s.queues.cmds, d.src = .queue q ∧ d.id ≠ id := by
  simp [State.othersFrom]

/-- A submission queue is created. -/
theorem effectSysQueueCreate_sub {s : State} {c : Ctx} (h : qKind c.pkt = 0) :
    effectSysQueueCreate s c = ({ s with queues := { s.queues with subs := s.queues.subs ++ [⟨qNum c.pkt, qLog c.pkt, qOffset c.pkt, 0, false, 0, false, 0, false, none⟩] } }, some resOK) :=
  if_pos h

/-- A response queue is created. -/
theorem effectSysQueueCreate_resp {s : State} {c : Ctx} (h : qKind c.pkt = 1) :
    effectSysQueueCreate s c = ({ s with queues := { s.queues with resps := s.queues.resps ++ [⟨qNum c.pkt, qLog c.pkt, qOffset c.pkt, decide (qIrq c.pkt = 1), qCount c.pkt, qTime c.pkt, [], 0, 0⟩] } }, some resOK) :=
  if_neg (by simp [h])

/-- A response queue is deleted at once. -/
theorem effectSysQueueDelete_resp {s : State} {c : Ctx} (h : qKind c.pkt = 1) :
    effectSysQueueDelete s c = ({ s with queues := { s.queues with resps := s.queues.resps.filter (fun x => x.num != qNum c.pkt) } }, some resOK) :=
  if_pos h

/-- A submission queue is deleted at once when no other packet of it is left. -/
theorem effectSysQueueDelete_sub {s : State} {c : Ctx} (h : qKind c.pkt = 0) (hothers : s.othersFrom (qNum c.pkt) c.id = false) :
    effectSysQueueDelete s c = (s.dropSub (qNum c.pkt), some resOK) := by
  simp [effectSysQueueDelete, h, hothers]

/-- The delete of a submission queue waits for the queue's other packets. -/
theorem effectSysQueueDelete_waits {s : State} {c : Ctx} (h : qKind c.pkt = 0) (hothers : s.othersFrom (qNum c.pkt) c.id = true) :
    effectSysQueueDelete s c = (s.updSub (qNum c.pkt) (fun x => { x with deleting := some c.id }), none) := by
  simp [effectSysQueueDelete, h, hothers]

/-- The replies of a response queue are dropped. -/
theorem effectSysQueueFlush_resp {s : State} {c : Ctx} (h : qKind c.pkt = 1) :
    effectSysQueueFlush s c = (s.updResp (qNum c.pkt) (fun x => { x with replies := [], sinceSignal := 0 }), some resOK) :=
  if_pos h

/-- The whole packets of a submission queue are skipped and counted. -/
theorem effectSysQueueFlush_sub {s : State} {c : Ctx} {x : SubQueue} (h : qKind c.pkt = 0) (hx : s.sub? (qNum c.pkt) = some x) :
    effectSysQueueFlush s c = (s.updSub (qNum c.pkt) (fun _ => (s.skipPackets x.units x).2), some (resIndex (s.skipPackets x.units x).1)) := by
  simp [effectSysQueueFlush, h, hx]

/-- Settles O1: each command runs in the frame of every command (`Ready.ends`, `Ready.runs`), with the effect that its branch gives on the state in which it has begun. -/
theorem sysCommandsComplete : Obligations.SysCommandsComplete := by
  intro s id c
  refine ⟨?nop, ?info, ?createSub, ?createResp, ?deleteResp, ?deleteSub, ?deleteWaits, ?flushResp, ?flushSub, ?deadlines⟩
  case nop => exact fun h => h.ends rfl rfl
  case info => exact fun h => h.ends rfl rfl
  case createSub => exact fun h hkind => h.ends rfl (effectSysQueueCreate_sub hkind)
  case createResp => exact fun h hkind => h.ends rfl (effectSysQueueCreate_resp hkind)
  case deleteResp => exact fun h hkind => h.ends rfl (effectSysQueueDelete_resp hkind)
  case deleteSub => exact fun h hkind hothers => h.ends rfl (effectSysQueueDelete_sub hkind (State.othersFrom_eq_false.mpr hothers))
  case deleteWaits => exact fun h hkind hothers => h.runs rfl (effectSysQueueDelete_waits hkind (State.othersFrom_eq_true.mpr hothers))
  case flushResp => exact fun h hkind => h.ends rfl (effectSysQueueFlush_resp hkind)
  case flushSub => exact fun x h hkind hx => h.ends rfl (effectSysQueueFlush_sub hkind hx)
  case deadlines => exact fun h => h.ends rfl rfl

end Sys2Proof.Machine
end

section
/-! SUPPORT. The PLAN and STEP commands and skipped entries (R58, R59, R61 to R68, R568): what the effect of each command leaves, and O2 and O59 assembled from them. -/
namespace Sys2Proof.Machine

/-! ### PLAN and STEP (R61 to R68, R568) -/

/-- A good image for which the store has room replaces what its ID held, unless its step runs (R64). -/
theorem effectPlanLoad_installs {s : State} {c : Ctx} {img : List Byte} {sc : PlanScan} (himg : img = (s.read (c.f 32 8) (c.f 40 4)).data) (hgood : (s.read (c.f 32 8) (c.f 40 4)).good = true)
    (hhdr : headerOk img s.E = true) (hscan : s.scanImage img = .inr sc) (hroom : s.storeUsed (c.f 44 1) + img.length ≤ 32 * 2 ^ 20) (hidle : s.planRunning (c.f 44 1) = false) :
    effectPlanLoad s c = (((s.noteRead 0 (c.f 32 8) (c.f 40 4)).installPlan (c.f 44 1) img sc).1, some ((s.noteRead 0 (c.f 32 8) (c.f 40 4)).installPlan (c.f 44 1) img sc).2) := by
  subst himg
  simp only [effectPlanLoad, readStatus_good hgood, hhdr, hscan, hidle, if_neg (Nat.not_lt.mpr hroom), Bool.not_true, Bool.false_eq_true, if_false]

/-- A plan whose step does not run is dropped. -/
theorem effectPlanUnload_drops {s : State} {c : Ctx} (h : s.planRunning (c.f 32 1) = false) : effectPlanUnload s c = (s.dropPlan (c.f 32 1), some resOK) :=
  if_neg (by simp [h])

/-- The plan of the running step stays. -/
theorem effectPlanUnload_busy {s : State} {c : Ctx} (h : s.planRunning (c.f 32 1) = true) : effectPlanUnload s c = (s, some (resStatus stBusy)) :=
  if_pos h

/-- A STEP.RUN of a plan in the store, on a chip that belongs to a job, waits for its step. -/
theorem effectStepRun_waits {s : State} {c : Ctx} (hplan : ∃ p ∈ s.plans.store, p.id = c.f 32 1) (hjob : s.jobReady = true) (hpark : s.host.parked = false) :
    effectStepRun s c = (s, none) := by
  have hany : s.plans.store.any (fun p => p.id == c.f 32 1) = true := by simpa using hplan
  simp [effectStepRun, hany, hjob, hpark]

/-- A parked chip refuses it (R568). -/
theorem effectStepRun_parked {s : State} {c : Ctx} (hplan : ∃ p ∈ s.plans.store, p.id = c.f 32 1) (hjob : s.jobReady = true) (hpark : s.host.parked = true) :
    effectStepRun s c = (s, some parkedResult) := by
  have hany : s.plans.store.any (fun p => p.id == c.f 32 1) = true := by simpa using hplan
  simp [effectStepRun, hany, hjob, hpark]

/-- No breach is reported only when none fails. -/
theorem filter_fails_of_firstBreach {bs : List Breach} (h : firstBreach bs = none) : bs.filter (·.fails) = [] := by
  cases hbs : bs.filter (·.fails) with
  | nil => rfl
  | cons b rest =>
    simp only [firstBreach, hbs, List.foldl_cons, Option.map_eq_none_iff] at h
    refine absurd h (List.foldlRecOn rest _ (motive := fun o => o ≠ none) (Option.some_ne_none b) fun acc hacc a _ => ?_)
    cases acc with
    | none => exact absurd rfl hacc
    | some c => dsimp only; split <;> exact Option.some_ne_none _

/-- Breaches that do not fail leave the verdict to those after them. -/
theorem firstBreach_append {bs : List Breach} (h : firstBreach bs = none) (cs : List Breach) : firstBreach (bs ++ cs) = firstBreach cs := by
  rw [firstBreach, List.filter_append, filter_fails_of_firstBreach h, List.nil_append, firstBreach]

/-- A barrier command that is no plan entry fails the check of R68, when its packet passes the checks before it. -/
theorem check_entryOnly {i : OpInfo} {s : State} {c : Ctx} (hdyn : i.dyn s c = [entryOnly c]) (hdirect : c.inPlan = false) (hstatic : i.staticCheck c.pkt = none) :
    i.check s c = some (badParam 0 0) := by
  rw [OpInfo.check, hdyn, firstBreach_append hstatic]
  simp [entryOnly, hdirect, firstBreach, bParam]

/-- A PLAN.BARRIER that no other barrier holds back runs in the frame of every command. -/
theorem exec_planBarrier_free {s : State} {id : Nat} (h : s.barrierHeld id = false) : exec (.planBarrier id) s = .next (s.settle (s.runCmd planBarrierInfo id effectPlanBarrier)) := by
  show execPlanBarrier id s = _
  simp only [execPlanBarrier, h, Bool.false_eq_true, if_false]

/-- So does a PLAN.AGREE. -/
theorem exec_planAgree_free {s : State} {id : Nat} (h : s.barrierHeld id = false) : exec (.planAgree id) s = .next (s.settle (s.runCmd planAgreeInfo id effectPlanAgree)) := by
  show execPlanAgree id s = _
  simp only [execPlanAgree, h, Bool.false_eq_true, if_false]

/-- Settles O2: each command runs in the frame of every command with the effect of its branch; one that acts only as a plan entry fails its check when it is none (`check_entryOnly`). -/
theorem planCommandsComplete : Obligations.PlanCommandsComplete := by
  intro s id c
  refine ⟨?load, ?unload, ?unloadBusy, ?runWaits, ?runParked, ?updateBarrier, ?scatterBarrier, ?barrierDirect, ?agree, ?agreeDirect⟩
  case load => exact fun img sc h himg hgood hhdr hscan hroom hidle => h.ends rfl (effectPlanLoad_installs himg hgood hhdr hscan hroom hidle)
  case unload => exact fun h hidle => h.ends rfl (effectPlanUnload_drops hidle)
  case unloadBusy => exact fun h hbusy => h.ends rfl (effectPlanUnload_busy hbusy)
  case runWaits => exact fun h hplan hjob hpark => h.runs rfl (effectStepRun_waits hplan hjob hpark)
  case runParked => exact fun h hplan hjob hpark => h.ends rfl (effectStepRun_parked hplan hjob hpark)
  case updateBarrier => exact fun h hfree _ hkind => h.runs (exec_planBarrier_free hfree) (if_neg (by simp [hkind]))
  case scatterBarrier => exact fun h hfree _ hkind => h.runs (exec_planBarrier_free hfree) (if_pos hkind)
  case barrierDirect =>
    exact fun k hk hfree hdirect hstatic => Runs.of_settle (exec_planBarrier_free hfree) (State.runCmd_fails hk (check_entryOnly rfl hdirect hstatic))
  case agree => exact fun h hfree _ => h.runs (exec_planAgree_free hfree) rfl
  case agreeDirect =>
    exact fun k hk hfree hdirect hstatic => Runs.of_settle (exec_planAgree_free hfree) (State.runCmd_fails hk (check_entryOnly rfl hdirect hstatic))

/-! ### Skipped entries (R58, R59) -/

/-- An entry of the step is in the state that it was given. -/
theorem StepRun.entryState_set {st st2 : StepRun} {i : Nat} {e : EntryState} (hi : i < st.entries.length) (h : st2.entries = st.entries.set i e) : st2.entryState i = e := by
  simp [StepRun.entryState, h, hi]

/-- An entry is skipped when its condition bit equals POLARITY. -/
theorem StepRun.skips?_iff {st : StepRun} {e : PlanEntry} {pol : Bool} {bit : Nat} (h : e.skip = some (pol, bit)) : st.skips? e = true ↔ st.cond.getLsbD bit = pol := by
  simp [StepRun.skips?, h]

/-- Settles O59: an entry that starts is skipped or issued by its condition bit (`planEntryStart_runs`, `StepRun.skips?_iff`). -/
theorem skippedEntriesComplete : Obligations.SkippedEntriesComplete := by
  intro s st i bit pol hst hi hwait hmet hturn hstage hskip
  have hrun := planEntryStart_runs hst hi hwait hmet hturn hstage
  refine ⟨fun hbit => ?skipped, fun hbit => ?issued⟩
  case skipped =>
    rw [if_pos ((StepRun.skips?_iff hskip).mpr hbit), State.updStep_running hst] at hrun
    exact ⟨st.skip i, hrun, rfl, StepRun.entryState_set hi rfl⟩
  case issued =>
    rw [if_neg (mt (StepRun.skips?_iff hskip).mp hbit), State.issueEntry_running hst] at hrun
    exact ⟨_, rfl, StepRun.entryState_set hi rfl, hrun⟩

end Sys2Proof.Machine
end

section
/-! SUPPORT. The settings of the GRAPH family (R75, R78, R102, R103, R108, R110, R582): what the effect of each command leaves, and O3 assembled from them. -/
namespace Sys2Proof.Machine

/-! ### Shards and feature tables (R75, R108) -/

/-- A shard whose descriptor and first and last offsets are right replaces the one of its ID. -/
theorem effectGraphShardSet_installs {s : State} {c : Ctx} {x : Shard} {rs : List (Nat × Nat)} (hx : x = shardOf (s.read (c.f 32 8) 64).data)
    (hrs : rs = [(c.f 32 8, 64), (x.offsets, 8), (x.offsets + 8 * x.nodes, 8)]) (hdesc : (s.read (c.f 32 8) 64).good = true) (hall : (s.readAll rs).good = true)
    (hfirst : leNat (s.read x.offsets 8).data = 0) (hlast : leNat (s.read (x.offsets + 8 * x.nodes) 8).data = x.edges) :
    effectGraphShardSet s c = ({ s.noteReads 1 rs with graph := { (s.noteReads 1 rs).graph with shards := (s.noteReads 1 rs).graph.shards.filter (fun y => y.id != x.id) ++ [x] } }, some resOK) := by
  subst hrs hx
  have hoffsets := not_or.mpr ⟨not_not.mpr hfirst, not_not.mpr hlast⟩
  simp only [effectGraphShardSet, readStatus_good hdesc, readStatus_good hall, if_neg hoffsets]

/-- A feature table whose descriptor can be read replaces the one of its ID. -/
theorem effectGraphFeatureSet_installs {s : State} {c : Ctx} {t : FTable} (hgood : (s.read (c.f 32 8) 64).good = true) (ht : t = ftableOf (s.read (c.f 32 8) 64).data) :
    effectGraphFeatureSet s c = ({ s.noteRead 1 (c.f 32 8) 64 with graph := { (s.noteRead 1 (c.f 32 8) 64).graph with ftables := (s.noteRead 1 (c.f 32 8) 64).graph.ftables.filter (fun y => y.id != t.id) ++ [t] } }, some resOK) := by
  subst ht
  simp only [effectGraphFeatureSet, readStatus_good hgood]

/-! ### GRAPH.ALIAS_STATUS (R78) -/

/-- The answer for a shard with no rebuild. -/
theorem effectGraphAliasStatus_idle {s : State} {c : Ctx} {x : Shard} (hx : s.shard? (c.f 32 1) = some x) (hr : x.rebuild = .idle) : effectGraphAliasStatus s c = (s, some resOK) := by
  simp only [effectGraphAliasStatus, hx, hr]
  rfl

/-- The answer for a rebuild that has finished and waits for the boundary. -/
theorem effectGraphAliasStatus_waiting {s : State} {c : Ctx} {x : Shard} (hx : s.shard? (c.f 32 1) = some x) (hr : x.rebuild = .waiting) :
    effectGraphAliasStatus s c = (s, some (resOf stOK 2 0)) := by
  simp only [effectGraphAliasStatus, hx, hr]

/-- The answer for a rebuild that has failed. -/
theorem effectGraphAliasStatus_failed {s : State} {c : Ctx} {x : Shard} {n : Nat} (hx : s.shard? (c.f 32 1) = some x) (hr : x.rebuild = .failed n) :
    effectGraphAliasStatus s c = (s, some { resIndex n with detail := detailOf 3 0 }) := by
  simp only [effectGraphAliasStatus, hx, hr]

/-- The pass of a running rebuild that a draw gives. -/
def aliasPass (draw : Nat) : Nat := 1 + (Config.freeWord draw 0).toNat % 2

/-- The nodes that a running rebuild of n nodes has left by a draw: all of them in the totalling pass. -/
def aliasLeft (draw n : Nat) : Nat := if aliasPass draw = 1 then n else (Config.freeWord draw 1).toNat % (n + 1)

theorem one_le_aliasPass (draw : Nat) : 1 ≤ aliasPass draw := Nat.le_add_right 1 _

theorem aliasPass_le_two (draw : Nat) : aliasPass draw ≤ 2 := by
  have := Nat.mod_lt (Config.freeWord draw 0).toNat Nat.two_pos
  unfold aliasPass
  omega

theorem aliasLeft_le (draw n : Nat) : aliasLeft draw n ≤ n := by
  unfold aliasLeft
  split
  · exact le_rfl
  · exact Nat.lt_succ_iff.mp (Nat.mod_lt _ n.succ_pos)

theorem aliasLeft_firstPass {draw : Nat} (n : Nat) (h : aliasPass draw = 1) : aliasLeft draw n = n := if_pos h

/-- The answer for a running rebuild: its pass and the nodes it has left are drawn. -/
theorem effectGraphAliasStatus_running {s : State} {c : Ctx} {x : Shard} {p n : Nat} (hx : s.shard? (c.f 32 1) = some x) (hr : x.rebuild = .running p n) :
    effectGraphAliasStatus s c = ({ s with free := s.free + 1 }, some { resIndex (aliasLeft s.free n) with detail := detailOf 1 (aliasPass s.free) }) := by
  simp only [effectGraphAliasStatus, hx, hr]
  rfl

/-- Settles O3: each command runs in the frame of every command (`Ready.ends`), with the effect that its branch gives on the state in which it has begun; the values that a running rebuild answers are `aliasPass` and `aliasLeft` of the draw. -/
theorem graphSettingsComplete : Obligations.GraphSettingsComplete := by
  intro s id c
  refine ⟨?shardSet, ?shardClear, ?job, ?aliasConfig, ?aliasRebuild, ?statusIdle, ?statusWaiting, ?statusFailed, ?statusRunning, ?featureSet, ?featureClear⟩
  case shardSet => exact fun x h hx hdesc hall hfirst hlast => h.ends rfl (effectGraphShardSet_installs (s := s.begun id) hx rfl hdesc hall hfirst hlast)
  case shardClear => exact fun h => h.ends rfl rfl
  case job => exact fun h => h.ends rfl rfl
  case aliasConfig => exact fun h => h.ends rfl rfl
  case aliasRebuild => exact fun h => h.ends rfl rfl
  case statusIdle => exact fun x h hx hr => h.ends rfl (effectGraphAliasStatus_idle hx hr)
  case statusWaiting => exact fun x h hx hr => h.ends rfl (effectGraphAliasStatus_waiting hx hr)
  case statusFailed => exact fun x n h hx hr => h.ends rfl (effectGraphAliasStatus_failed hx hr)
  case statusRunning =>
    exact fun x p n h hx hr => ⟨aliasPass s.free, aliasLeft s.free n, one_le_aliasPass _, aliasPass_le_two _, aliasLeft_le _ n, aliasLeft_firstPass n,
      h.ends rfl (effectGraphAliasStatus_running (s := s.begun id) hx hr)⟩
  case featureSet => exact fun t h hgood ht => h.ends rfl (effectGraphFeatureSet_installs (s := s.begun id) hgood ht)
  case featureClear => exact fun h => h.ends rfl rfl

end Sys2Proof.Machine
end

section
/-! SUPPORT. The data commands of the GRAPH family (R85, R93, R106, R112 to R114, R120, R124 to R130): what the effect of each command leaves, and O4 assembled from them. -/
namespace Sys2Proof.Machine

/-! ### GRAPH.SAMPLE (R85, R92, R106) -/

/-- A plan entry, or a hop that the state of its table lets pass, does not wait. -/
theorem noWait_of_goes {c : Ctx} {x : Shard} (hgo : c.inPlan = true ∨ waitsForAlias (hopSpec c.pkt) x = false) : (!c.inPlan && waitsForAlias (hopSpec c.pkt) x) = false := by
  rcases hgo with h | h <;> simp [h]

section
variable {s : State} {c : Ctx} {x : Shard} (hx : s.shard? (hopSpec c.pkt).shard = some x)
include hx

/-- A hop that no stale table holds back, and whose frontier can be read, begins. -/
theorem effectGraphSample_begins (hgo : c.inPlan = true ∨ waitsForAlias (hopSpec c.pkt) x = false)
    (hread : (hopSpec c.pkt).hop = 1 ∨ (s.read (hopFrontier c.pkt) 64).good = true) : effectGraphSample s c = (s.beginHop c.id c.pkt x, none) := by
  simp only [effectGraphSample, hx, noWait_of_goes hgo, Bool.false_and, Bool.false_eq_true, if_false]
  by_cases hfirst : (hopSpec c.pkt).hop = 1
  · simp only [hfirst, if_true]
    split <;> rfl
  · simp only [if_neg hfirst, readStatus_good (hread.resolve_left hfirst)]

/-- A later hop whose frontier log has no readable header writes a poisoned log and ends. -/
theorem effectGraphSample_unreadable {r : Result} (hgo : c.inPlan = true ∨ waitsForAlias (hopSpec c.pkt) x = false)
    (hlater : (hopSpec c.pkt).hop ≠ 1) (hr : readStatus (s.read (hopFrontier c.pkt) 64) = some r) :
    effectGraphSample s c = ((s.noteRead 1 (hopFrontier c.pkt) 64).writePoisonedLog s.step32 c.pkt, some r) := by
  simp only [effectGraphSample, hx, noWait_of_goes hgo, Bool.false_and, Bool.false_eq_true, if_false, if_neg hlater, hr]

/-- A directly submitted hop on a stale table waits for its rebuild. -/
theorem effectGraphSample_waits (hdirect : c.inPlan = false) (hstale : waitsForAlias (hopSpec c.pkt) x = true) (hok : x.rebuildFailed = false) :
    effectGraphSample s c = (s, none) := by
  simp [effectGraphSample, hx, hdirect, hstale, hok]

/-- It ends with UNCORRECTED when that rebuild has failed. -/
theorem effectGraphSample_rebuildFailed (hdirect : c.inPlan = false) (hstale : waitsForAlias (hopSpec c.pkt) x = true) (hfailed : x.rebuildFailed = true) :
    effectGraphSample s c = (s, some (resStatus stUncorrected)) := by
  simp [effectGraphSample, hx, hdirect, hstale, hfailed]

end

/-! ### GRAPH.GATHER (R112 to R114) -/

section
variable {s : State} {c : Ctx} {t : FTable} (ht : s.ftable? (gaTable c.pkt) = some t)
include ht

/-- A gather whose list can be read serves its own portions, asks for the others, and writes once all are there. -/
theorem effectGraphGather_begins {served : List (Portion × List (Nat × Nat) × Nat)} {a : State × List Portion}
    (hlist : gaSource c.pkt = 1 ∨ (s.read (gaList c.pkt) 64).good = true)
    (hserved : served = (((s.gaItems c.pkt).zipIdx).flatMap (fun (vs, i) => listPortion s.rank i vs.2 ++ rowPortions s.rank i vs.1)).map (s.servePortion t (decide (gaMode c.pkt ≠ 0))))
    (ha : a = ((s.noteReads 1 (s.gaListReads c.pkt ++ served.flatMap (·.2.1))).countNonfinite (served.foldl (fun n r => n + r.2.2) 0)).askPortions (gaTable c.pkt) (decide (gaMode c.pkt ≠ 0)) (served.map (·.1))) :
    effectGraphGather s c = (({ a.1 with graph := { a.1.graph with gathers := a.1.graph.gathers ++ [
      { cmd := c.id, items := (s.gaItems c.pkt).length, children := (s.gaItems c.pkt).map (·.1.length),
        poisoned := (decide (gaSource c.pkt = 0) && (s.pathLog (gaList c.pkt)).poisoned) || !(s.readAll (s.gaListReads c.pkt)).poisoned.isEmpty, portions := a.2 }] } } : State).finishGather c.id, none) := by
  have hhead : (if gaSource c.pkt = 1 then none else readStatus (s.read (gaList c.pkt) 64)) = none :=
    ite_eq_left_iff.mpr fun hlog => readStatus_good (hlist.resolve_left hlog)
  subst ha hserved
  simp only [effectGraphGather, ht, hhead]

/-- A gather whose path log has no readable header poisons its output and ends. -/
theorem effectGraphGather_unreadable {r : Result} (hlog : gaSource c.pkt ≠ 1) (hr : readStatus (s.read (gaList c.pkt) 64) = some r) :
    effectGraphGather s c = ((s.noteReads 1 [(gaList c.pkt, 64)]).poisonRanges 1 [(gaOut c.pkt, gaOutSize c.pkt)], some r) := by
  simp only [effectGraphGather, ht, if_neg hlog, hr]

end

/-! ### GRAPH.AGGREGATE and GRAPH.AGGREGATE_BWD (R120, R124) -/

/-- The state and the writes' outcome once the rows of every parent are written. -/
def State.aggWritten (s : State) (p : List Byte) (per : List (Option ItemFail × List (Nat × List Byte) × List (Nat × Nat) × Nat)) : State × WriteRes :=
  ((s.noteReads 1 (s.agGroupReads p ++ per.flatMap (·.2.2.1))).countNonfinite (per.foldl (fun n x => n + x.2.2.2) 0)).storeAll 1 (per.flatMap (·.2.1))

/-- Parents of which none fails have no failing item. -/
theorem filterMap_zipIdx_fail_eq_nil {β : Type} {per : List (Option ItemFail × β)} (h : ∀ x ∈ per, x.1 = none) :
    (per.zipIdx).filterMap (fun (x, i) => x.1.map (fun f => (i, f))) = [] :=
  List.filterMap_eq_nil_iff.mpr fun x hx => by simp [h x.1 (List.fst_mem_of_mem_zipIdx hx)]

/-- An aggregation without a failure, whose writes meet none, ends with OK. -/
theorem State.finishAgg_ok {s : State} {p : List Byte} {outs : List (Nat × Nat)} {per : List (Option ItemFail × List (Nat × List Byte) × List (Nat × Nat) × Nat)}
    (hclean : s.agPoisoned p = false) (hper : ∀ x ∈ per, x.1 = none) (hok : writeStatus (s.aggWritten p per).2 = none) :
    s.finishAgg p outs per = ((s.aggWritten p per).1, some resOK) := by
  have hr : itemsResult (s.agPoisoned p) ((per.zipIdx).filterMap (fun (x, i) => x.1.map (fun f => (i, f)))) = resOK := by
    rw [filterMap_zipIdx_fail_eq_nil hper, hclean]
    rfl
  have hsucceeds : resOK.failed = false := rfl
  simp only [State.aggWritten] at hok ⊢
  simp only [State.finishAgg, hr, hsucceeds, hok, Bool.false_eq_true, if_false, Option.getD_none]

/-- GRAPH.AGGREGATE whose group source can be read aggregates every parent. -/
theorem effectGraphAggregate_readable {s : State} {c : Ctx} (hhead : s.agHeadStatus c.pkt = none) :
    effectGraphAggregate s c = s.finishAgg c.pkt (s.agOuts c.pkt) (((s.agGroupsOf c.pkt).zipIdx).map (fun (g, i) => s.agForward c.pkt i g)) := by
  simp only [effectGraphAggregate, hhead]

/-- GRAPH.AGGREGATE_BWD whose group source can be read forms the gradients of every parent. -/
theorem effectGraphAggregateBwd_readable {s : State} {c : Ctx} (hhead : s.agHeadStatus c.pkt = none) :
    ∃ outs, effectGraphAggregateBwd s c = s.finishAgg c.pkt outs (((s.agGroupsOf c.pkt).zipIdx).map (fun (g, i) => s.agBackward c.pkt i g)) := by
  simp only [effectGraphAggregateBwd, hhead]
  exact ⟨_, rfl⟩

/-! ### GRAPH.SCATTER (R126 to R130) -/

/-- The state in which a scatter whose list can be read has read it and its rows, and is counted as issued. -/
def State.scatterRead (s : State) (c : Ctx) : State :=
  (s.noteReads 1 (s.scListReads c.pkt ++ (List.range (s.scEntries c.pkt)).map (scSrcRange c.pkt))).issued c

/-- No adds count for nothing. -/
theorem State.countAdds_zero (s : State) : s.countAdds (0, 0) = s := by
  simp [State.countAdds, State.countNonfinite]

section
variable {s : State} {c : Ctx} (hlist : scIndex c.pkt = 2 ∨ (s.read (scList c.pkt) 64).uncorr = [])
include hlist

/-- An index array, or a path log without an uncorrectable word in its header, does not end a scatter. -/
theorem scatterHead_eq_none : (if scIndex c.pkt = 2 || (s.read (scList c.pkt) 64).uncorr.isEmpty then none else some (resStatus stUncorrected)) = none := by
  rcases hlist with h | h <;> simp [h]

/-- A scatter by minimum, maximum or swap waits for its atomics. -/
theorem effectGraphScatter_atomics (hkind : scKind c.pkt = 1) :
    effectGraphScatter s c = ((s.scatterRead c).awaitScatter ⟨c.id, [], (s.scRowsOf c.pkt).1.flatMap (entryAtoms c.pkt), [], s.scPoisoned c.pkt, (s.scRowsOf c.pkt).2.foldl lowerFail none⟩, none) := by
  simp only [effectGraphScatter, scatterHead_eq_none hlist, hkind, State.scatterRead]

/-- A scatter of adds to GDDR-7 waits for its memory-side adds. -/
theorem effectGraphScatter_adds {k : List RowAdd × (Nat × Nat)} (hkind : scKind c.pkt = 0)
    (hk : k = (scContributions (s.scatterRead c).embed.policy.detMerge (scTy c.pkt) (s.scRowsOf c.pkt).1).run (0, 0)) (hdest : inScratch (scDest c.pkt) = false) :
    effectGraphScatter s c = (((s.scatterRead c).countAdds k.2).awaitScatter ⟨c.id, k.1.flatMap (sectorAdds c.pkt), [], [], s.scPoisoned c.pkt, (s.scRowsOf c.pkt).2.foldl lowerFail none⟩, none) := by
  subst hk
  simp only [effectGraphScatter, scatterHead_eq_none hlist, hkind, hdest, State.scatterRead, Bool.false_eq_true, if_false]

/-- A scatter of adds to scratch makes them in an order that is free. -/
theorem effectGraphScatter_scratch {k : List RowAdd × (Nat × Nat)} {s2 : State} {r : State × List (Nat × ItemFail)} (hkind : scKind c.pkt = 0)
    (hk : k = (scContributions (s.scatterRead c).embed.policy.detMerge (scTy c.pkt) (s.scRowsOf c.pkt).1).run (0, 0)) (hdest : inScratch (scDest c.pkt) = true)
    (hs2 : s2 = (s.scatterRead c).countAdds k.2) (hr : r = (arrivalOrder s2.free k.1).foldl (State.scratchAdd c.pkt) ({ s2 with free := s2.free + 1 }, [])) :
    effectGraphScatter s c = (r.1.awaitScatter ⟨c.id, [], [], [], s.scPoisoned c.pkt, r.2.foldl lowerFail ((s.scRowsOf c.pkt).2.foldl lowerFail none)⟩, none) := by
  subst hr hs2 hk
  simp only [effectGraphScatter, scatterHead_eq_none hlist, hkind, hdest, State.scatterRead, State.draw, if_true]

/-- A scatter to embedding rows under deterministic merge contributes every entry by itself (R129). -/
theorem effectGraphScatter_rowsDet {t : ETable} {k : Contributed} (hkind : scKind c.pkt = 2) (ht : (s.scatterRead c).etable? (scTable c.pkt) = some t)
    (hdet : (s.scatterRead c).embed.policy.detMerge = true)
    (hk : k = Contributed.scatter ⟨s.scatterRead c, [], []⟩ t ((s.scatterRead c).originOf c) ((s.scRowsOf c.pkt).1.map (fun e => ⟨e.1, e.2.1, e.2.2⟩))) :
    effectGraphScatter s c = (k.state.awaitScatter ⟨c.id, [], [], k.acks, s.scPoisoned c.pkt, k.fails.foldl lowerFail ((s.scRowsOf c.pkt).2.foldl lowerFail none)⟩, none) := by
  subst hk
  simp only [State.scatterRead] at ht hdet
  simp only [effectGraphScatter, scatterHead_eq_none hlist, hkind, ht, hdet, State.scatterRead, State.countAdds_zero, if_true]

/-- Without it the entries of a run that meet in a row contribute together (R127). -/
theorem effectGraphScatter_rowsRuns {t : ETable} {xs : List RowAdd × (Nat × Nat)} {k : Contributed} (hkind : scKind c.pkt = 2) (ht : (s.scatterRead c).etable? (scTable c.pkt) = some t)
    (hdet : (s.scatterRead c).embed.policy.detMerge = false) (hxs : xs = (scContributions false (scTy c.pkt) (s.scRowsOf c.pkt).1).run (0, 0))
    (hk : k = Contributed.scatter ⟨(s.scatterRead c).countAdds xs.2, [], []⟩ t ((s.scatterRead c).originOf c) xs.1) :
    effectGraphScatter s c = (k.state.awaitScatter ⟨c.id, [], [], k.acks, s.scPoisoned c.pkt, k.fails.foldl lowerFail ((s.scRowsOf c.pkt).2.foldl lowerFail none)⟩, none) := by
  subst hk hxs
  simp only [State.scatterRead] at ht hdet
  simp only [effectGraphScatter, scatterHead_eq_none hlist, hkind, ht, hdet, State.scatterRead, Bool.false_eq_true, if_false]

end

/-- Settles O4: each command runs in the frame of every command (`Ready.ends`, `Ready.runs`), with the effect that its branch gives on the state in which it has begun. -/
theorem graphDataCommandsComplete : Obligations.GraphDataCommandsComplete := by
  rintro s _ id c rfl
  refine ⟨?sampleBegins, ?sampleUnreadable, ?sampleWaits, ?sampleFails, ?gather, ?gatherUnreadable, ?aggregate, ?aggregateBwd, ?scatter⟩
  case sampleBegins => exact fun x h hx hgo hread => h.runs rfl (effectGraphSample_begins (s := s.begun id) hx hgo hread)
  case sampleUnreadable => exact fun x r h hx hgo hlater hr => h.ends rfl (effectGraphSample_unreadable (s := s.begun id) hx hgo hlater hr)
  case sampleWaits => exact fun x h hx hdirect hstale hok => h.runs rfl (effectGraphSample_waits hx hdirect hstale hok)
  case sampleFails => exact fun x h hx hdirect hstale hfailed => h.ends rfl (effectGraphSample_rebuildFailed hx hdirect hstale hfailed)
  case gather => exact fun t served a h ht hlist hserved ha => h.runs rfl (effectGraphGather_begins (s := s.begun id) ht hlist hserved ha)
  case gatherUnreadable => exact fun t r h ht hlog hr => h.ends rfl (effectGraphGather_unreadable (s := s.begun id) ht hlog hr)
  case aggregate =>
    rintro _ _ h hhead hclean rfl hper rfl hok
    exact h.ends rfl ((effectGraphAggregate_readable (s := s.begun id) hhead).trans (State.finishAgg_ok hclean hper hok))
  case aggregateBwd =>
    rintro _ _ h hhead hclean rfl hper rfl hok
    obtain ⟨outs, heffect⟩ := effectGraphAggregateBwd_readable (s := s.begun id) hhead
    exact h.ends rfl (heffect.trans (State.finishAgg_ok hclean hper hok))
  case scatter =>
    rintro _ _ h hread rfl rfl
    have hlist : scIndex c.pkt = 2 ∨ ((s.begun id).read (scList c.pkt) 64).uncorr = [] := hread
    refine ⟨?atomics, ?adds, ?scratch, ?rowsDet, ?rowsRuns⟩
    case atomics => exact fun hkind => h.runs rfl (effectGraphScatter_atomics hlist hkind)
    case adds => exact fun k hkind hk hdest => h.runs rfl (effectGraphScatter_adds hlist hkind hk hdest)
    case scratch => exact fun k s2 r hkind hk hdest hs2 hr => h.runs rfl (effectGraphScatter_scratch hlist hkind hk hdest hs2 hr)
    case rowsDet => exact fun t k hkind ht hdet hk => h.runs rfl (effectGraphScatter_rowsDet hlist hkind ht hdet hk)
    case rowsRuns => exact fun t xs k hkind ht hdet hxs hk => h.runs rfl (effectGraphScatter_rowsRuns hlist hkind ht hdet hxs hk)

end Sys2Proof.Machine
end

section
/-! SUPPORT. Events of graph sampling and row serving (R90 to R106, R114 to R116): one equation for each branch of their meaning, and O5 assembled from them. -/
namespace Sys2Proof.Machine

/-! ### Records from other chips (R389) -/

/-- A record that comes to a chip that is not halted has its effect. -/
theorem Runs.of_arrives {i : Instr} {s t u : State} (hlive : s.isHalted = false) (hx : exec i s = .next (s.settle (s.arrives t))) (h : t = u) : Runs i s u :=
  .of_settle hx (by simp [State.arrives, hlive, h])

/-- No step is the next one after itself. -/
theorem State.step32_ne_next (s : State) : s.step32 ≠ (s.step32 + 1) % 2 ^ 32 := by
  have : s.step32 < 2 ^ 32 := Nat.mod_lt _ (by decide)
  omega

/-! ### The end of a hop (R90, R98) -/

/-- A hop whose parents are all served writes its log and ends. -/
theorem hopComplete_ends {s : State} {id : Nat} {c : Ctx} {h : Hop} (hc : s.runningCtx id = some c) (hh : s.hop? id = some h) (hdone : h.parents.all HopParent.done = true) :
    Ends (.hopComplete id) s id h.result
      { s.writeLog c.pkt h h.result.failed with graph := { (s.writeLog c.pkt h h.result.failed).graph with hops := (s.writeLog c.pkt h h.result.failed).graph.hops.filter (fun k => k.cmd != id) } } := by
  refine Runs.of_settle rfl ?_
  simp only [hc, hh, hdone, if_true]

/-! ### Expansion requests (R96, R106) -/

/-- A request of the owner's next step is held. -/
theorem State.takeExpansion_next {s : State} {r : ExpReq} (src : Nat) (h : r.step = (s.step32 + 1) % 2 ^ 32) :
    s.takeExpansion src r = { s with graph := { s.graph with held := s.graph.held ++ [.expansion src r] } } :=
  if_pos h

/-- A request of neither the owner's step nor its next one is refused. -/
theorem State.takeExpansion_mismatch {s : State} {r : ExpReq} (src : Nat) (hnext : r.step ≠ (s.step32 + 1) % 2 ^ 32) (hown : r.step ≠ s.step32) :
    s.takeExpansion src r = s.send (.expansionAnswer src ⟨r.tag, stStepMismatch, 0, false, []⟩) := by
  simp only [State.takeExpansion, if_neg hnext, if_pos hown]

/-- A request of the owner's step that no stale table holds back is served. -/
theorem State.takeExpansion_serves {s : State} {r : ExpReq} {x : Shard} (src : Nat) (hown : r.step = s.step32) (hx : s.shard? r.shard = some x)
    (hfresh : r.kind ≠ 1 ∨ r.staleOk = true ∨ x.stale = false) :
    s.takeExpansion src r = ((s.noteReads 1 (s.answerExpansion r).2.1).countFaults r.shard (s.answerExpansion r).2.2).send (.expansionAnswer src (s.answerExpansion r).1) := by
  have hstuck : (decide (r.kind = 1) && !r.staleOk && x.stale) = false := by
    rcases hfresh with h | h | h <;> simp [h]
  simp only [State.takeExpansion, hown, if_neg s.step32_ne_next, ne_eq, not_true_eq_false, hx, hstuck, Bool.false_and, Bool.false_eq_true, if_false]

/-- A weighted request on a stale shard whose rebuild has not failed is held. -/
theorem State.takeExpansion_stale {s : State} {r : ExpReq} {x : Shard} (src : Nat) (hown : r.step = s.step32) (hx : s.shard? r.shard = some x)
    (hkind : r.kind = 1) (hstaleOk : r.staleOk = false) (hstale : x.stale = true) (hok : x.rebuildFailed = false) :
    s.takeExpansion src r = { s with graph := { s.graph with held := s.graph.held ++ [.expansion src r] } } := by
  have hstuck : (decide (r.kind = 1) && !r.staleOk && x.stale) = true := by simp [hkind, hstaleOk, hstale]
  simp only [State.takeExpansion, hown, if_neg s.step32_ne_next, ne_eq, not_true_eq_false, hx, hstuck, hok, Bool.and_false, Bool.false_eq_true, if_false, if_true]

/-! ### Expansion answers (R97) -/

/-- An answer serves the parent that its TAG names, and further requests follow. -/
theorem expansionResponse_serves {s s1 : State} {src : Nat} {r : ExpResp} {h : Hop} {p : HopParent} {c : Ctx} (hlive : s.isHalted = false) (hp : s.parentOf src r.tag = some (h, p))
    (hc : s.runningCtx h.cmd = some c) (hs1 : s1 = (s.noteReads 1 (s.answered (hopSpec c.pkt) p r).2).updParent h.cmd p.pos (fun _ => (s.answered (hopSpec c.pkt) p r).1)) :
    Runs (.expansionResponse src r) s
      ({ s1 with graph := { s1.graph with hops := mapWhere (fun k => k.cmd == h.cmd) (fun k => { k with stale := k.stale || r.stale }) s1.graph.hops } } : State).askAndFlush := by
  subst hs1
  refine .of_arrives hlive rfl ?_
  simp only [hp, hc]

/-! ### Row requests and answers (R96, R115, R116) -/

/-- A group of the owner's next step is held. -/
theorem State.takeRows_next {s : State} {g : List RowReq} (src : Nat) (h : (g.headD default).step = (s.step32 + 1) % 2 ^ 32) :
    s.takeRows src g = { s with graph := { s.graph with held := s.graph.held ++ [.rows src g] } } :=
  if_pos h

/-- A group of neither the owner's step nor its next one is refused. -/
theorem State.takeRows_mismatch {s : State} {g : List RowReq} (src : Nat) (hnext : (g.headD default).step ≠ (s.step32 + 1) % 2 ^ 32) (hown : (g.headD default).step ≠ s.step32) :
    s.takeRows src g = s.send (.rowAnswer src ⟨(g.headD default).tag, g.length, stStepMismatch, 0, []⟩) := by
  simp only [State.takeRows, if_neg hnext, if_pos hown]

/-- A group of the owner's step is served. -/
theorem State.takeRows_serves {s : State} {g : List RowReq} (src : Nat) (hown : (g.headD default).step = s.step32) :
    s.takeRows src g = ((s.noteReads 1 (s.answerRows g).2.1).countNonfinite (s.answerRows g).2.2).send (.rowAnswer src (s.answerRows g).1) := by
  simp only [State.takeRows, hown, if_neg s.step32_ne_next, ne_eq, not_true_eq_false, if_false]

/-- A request of one record is one group. -/
theorem rowRequest_single {s u : State} {src : Nat} {r : RowReq} (hlive : s.isHalted = false) (h : s.takeRows src [r] = u) : Runs (.rowRequest src [r]) s u :=
  .of_arrives hlive rfl h

/-- An answer reaches the portions that wait for it, and the gather ends with the last of them. -/
theorem rowResponse_answers {s : State} {src : Nat} {r : RowResp} {g : Gather} {c : Cmd} {t : FTable} (hlive : s.isHalted = false) (hg : s.graph.gathers = [g])
    (hawaits : g.portions.any (Portion.awaits src r.tag) = true) (hc : s.cmd? g.cmd = some c) (hop : opcodeOf c.pkt = 0x2110) (ht : s.ftable? (gaTable c.pkt) = some t) :
    Runs (.rowResponse src r) s
      (({ s with graph := { s.graph with gathers := [{ g with portions := mapWhere (Portion.awaits src r.tag) (answeredPortion (decide (gaMode c.pkt ≠ 0)) t.width r) g.portions }] } } : State).finishGather g.cmd) := by
  refine .of_arrives hlive rfl ?_
  simp [hg, hawaits, hc, hop, ht, mapWhere]

/-! ### Alias rebuilds (R102, R104) -/

/-- A rebuild stops when one of the words that it reads is uncorrectable. -/
theorem State.rebuildStops_iff {s : State} {x : Shard} : s.rebuildStops x = true ↔ ∃ r ∈ x.rebuildReads, (s.read r.1 r.2).uncorr ≠ [] := by
  simp [State.rebuildStops]

section
variable {s : State} {shard pass left : Nat} {x : Shard} (hx : s.shard? shard = some x) (hrun : x.rebuild = .running pass left)
include hx hrun

/-- A rebuild that has read every word writes the shadow, which becomes current at once when no step runs. -/
theorem aliasRebuildFinish_writes {w : State} (hread : ∀ r ∈ x.rebuildReads, (s.read r.1 r.2).uncorr = [])
    (hw : w = (((s.noteReads 5 x.rebuildReads).countFaults shard ((s.shardWeights x).filter weightFault).length).store 5 x.shadow (s.aliasBytes x x.nodes)).1) :
    Runs (.aliasRebuildFinish shard) s (if w.stepRunning then w.updShard shard (fun y => { y with rebuild := .waiting }) else (w.updShard shard (fun y => { y with rebuild := .waiting })).swapAlias shard) := by
  have hgoes : s.rebuildStops x = false := Bool.eq_false_iff.mpr fun h => by
    obtain ⟨r, hr, hne⟩ := State.rebuildStops_iff.mp h
    exact hne (hread r hr)
  subst hw
  refine .of_settle rfl ?_
  simp only [hx, hrun, hgoes, Bool.false_eq_true, if_false]
  rfl

/-- A rebuild that would end has stopped on an uncorrectable word. -/
theorem aliasRebuildFinish_stops (hstop : ∃ r ∈ x.rebuildReads, (s.read r.1 r.2).uncorr ≠ []) :
    Runs (.aliasRebuildFinish shard) s (s.draw.2.failAlias shard ((Config.freeWord s.draw.1 0).toNat % (x.nodes + 1)) x) := by
  refine .of_settle rfl ?_
  simp only [hx, hrun, State.rebuildStops_iff.mpr hstop, if_true]

/-- A rebuild that meets an uncorrectable word fails. -/
theorem aliasRebuildFail_stops (nodesLeft : Nat) (hstop : ∃ r ∈ x.rebuildReads, (s.read r.1 r.2).uncorr ≠ []) :
    Runs (.aliasRebuildFail shard nodesLeft) s (s.failAlias shard nodesLeft x) := by
  refine .of_settle rfl ?_
  simp only [hx, hrun, State.rebuildStops_iff.mpr hstop, if_true]

end

/-- Settles O5: each event has the equation of its branch; a request is judged by its step (`State.takeExpansion`, `State.takeRows`), a rebuild by the words that it reads (`State.rebuildStops_iff`). -/
theorem graphEventsComplete : Obligations.GraphEventsComplete := by
  intro s
  refine ⟨?hopComplete, ?batchSend, ?expansionNext, ?expansionMismatch, ?expansionServed, ?expansionStale, ?expansionResponse, ?rowsNext, ?rowsMismatch, ?rowsServed, ?rowResponse,
    ?rebuildFinish, ?rebuildStops, ?rebuildFail⟩
  case hopComplete => exact fun id c h hc hh hdone => hopComplete_ends hc hh hdone
  case batchSend => exact fun owner => .of_settle rfl rfl
  case expansionNext => exact fun src r hlive hnext => .of_arrives hlive rfl (State.takeExpansion_next src hnext)
  case expansionMismatch => exact fun src r hlive hnext hown => .of_arrives hlive rfl (State.takeExpansion_mismatch src hnext hown)
  case expansionServed => exact fun src r x hlive hown hx hfresh => .of_arrives hlive rfl (State.takeExpansion_serves src hown hx hfresh)
  case expansionStale => exact fun src r x hlive hown hx hkind hstaleOk hstale hok => .of_arrives hlive rfl (State.takeExpansion_stale src hown hx hkind hstaleOk hstale hok)
  case expansionResponse => exact fun src r h p c hlive hp hc => expansionResponse_serves hlive hp hc rfl
  case rowsNext => exact fun src r hlive hnext => rowRequest_single hlive (State.takeRows_next src hnext)
  case rowsMismatch => exact fun src r hlive hnext hown => rowRequest_single hlive (State.takeRows_mismatch src hnext hown)
  case rowsServed => exact fun src r hlive hown => rowRequest_single hlive (State.takeRows_serves src hown)
  case rowResponse => exact fun src r g c t hlive hg hawaits hc hop ht => rowResponse_answers hlive hg hawaits hc hop ht
  case rebuildFinish =>
    intro shard x pass left w hx hrun hread hw
    have hwrites := aliasRebuildFinish_writes hx hrun hread hw
    exact ⟨fun hstep => by rwa [if_pos hstep] at hwrites, fun hstep => by rwa [if_neg (Bool.eq_false_iff.mp hstep)] at hwrites⟩
  case rebuildStops => exact fun shard x pass left hx hrun hstop => aliasRebuildFinish_stops hx hrun hstop
  case rebuildFail => exact fun shard left x pass n hx hrun hstop => aliasRebuildFail_stops hx hrun left hstop

end Sys2Proof.Machine
end

section
/-! SUPPORT. The messages of embedding tables (R96, R128, R283, R284, R288, R290, R299, R301, R304, R305): one equation for each branch of their meaning, and O14 assembled from them. -/
namespace Sys2Proof.Machine

/-! ### Lookup requests (R96, R283, R305) -/

/-- A portion of the owner's next step is held. -/
theorem State.takeLookup_next {s : State} {g : List LookupReq} (src : Nat) (h : (g.headD default).step = (s.step32 + 1) % 2 ^ 32) :
    s.takeLookup src g = { s with graph := { s.graph with held := s.graph.held ++ [.lookup src g] } } :=
  if_pos h

/-- A portion of neither the owner's step nor its next one is refused. -/
theorem State.takeLookup_mismatch {s : State} {g : List LookupReq} (src : Nat) (hnext : (g.headD default).step ≠ (s.step32 + 1) % 2 ^ 32) (hown : (g.headD default).step ≠ s.step32) :
    s.takeLookup src g = s.send (.lookupAnswer src (lookupFail s g ⟨stStepMismatch, 0⟩)) := by
  simp only [State.takeLookup, if_neg hnext, if_pos hown]

/-- A record that its owner serves is the portion's part here. -/
theorem portionVerdict_serve (r : LookupReq) (a : Nat) : portionVerdict [(.serve a, r)] = .inr ([(r, a)], []) := rfl

/-- A record that has left is the part of its new owner. -/
theorem portionVerdict_forward (r : LookupReq) (o ten : Nat) : portionVerdict [(.forward o ten, r)] = .inr ([], [(o, [(r, ten)])]) := by
  simp [portionVerdict, itemFail, sortBy, insertBy]

/-- A record that fails fails its portion. -/
theorem portionVerdict_fail (r : LookupReq) (f : ItemFail) : portionVerdict [(.fail f, r)] = .inl f := rfl

section
variable {s : State} {r : LookupReq} {t : ETable} (src : Nat) (hown : r.step = s.step32) (ht : s.etable? r.table = some t)
include hown ht

/-- A portion of one record that this chip owns is served. -/
theorem State.takeLookup_serves {a : Nat} (hv : s.judge t r.key r.tenure = .serve a) : s.takeLookup src [r] = s.serveRecords src t r.part [r.tenure] [(r, a)] := by
  simp only [State.takeLookup, List.headD_cons, hown, if_neg s.step32_ne_next, ne_eq, not_true_eq_false, if_false, ht, List.map_cons, List.map_nil, hv, portionVerdict_serve]
  simp [bnat]

/-- One whose row has left is forwarded. -/
theorem State.takeLookup_forwards {o ten : Nat} (hv : s.judge t r.key r.tenure = .forward o ten) :
    s.takeLookup src [r] = s.forwardLookup src r.part [r.tenure] (o, [(r, ten)]) := by
  simp only [State.takeLookup, List.headD_cons, hown, if_neg s.step32_ne_next, ne_eq, not_true_eq_false, if_false, ht, List.map_cons, List.map_nil, hv, portionVerdict_forward]
  simp [bnat]

/-- One that is judged to fail is answered with its failure. -/
theorem State.takeLookup_fails {f : ItemFail} (hv : s.judge t r.key r.tenure = .fail f) : s.takeLookup src [r] = s.send (.lookupAnswer src (lookupFail s [r] f)) := by
  simp only [State.takeLookup, List.headD_cons, hown, if_neg s.step32_ne_next, ne_eq, not_true_eq_false, if_false, ht, List.map_cons, List.map_nil, hv, portionVerdict_fail]

end

section
variable {s s1 : State} {src : Nat} {t : ETable} {part : Bool} {tenures : List Nat} {xs : List (LookupReq × Nat)} {a : LookupResp × Option ServeLog × Nat}
  (ha : a = s.answerLookup src t (xs.map (·.1)) part tenures (xs.map (·.2)))
  (hs1 : s1 = (s.noteReads 1 ((xs.map (·.2)).map (fun a => (a, t.weightBytes)))).countNonfinite a.2.2)
include ha hs1

/-- An answer without a serve-log entry is sent. -/
theorem State.serveRecords_unlogged (h : a.2.1 = none) : s.serveRecords src t part tenures xs = s1.send (.lookupAnswer src a.1) := by
  simp only [State.serveRecords, ← ha, ← hs1, h]

/-- An answer with one is logged, and its rows count in the tracker. -/
theorem State.serveRecords_logged {l : ServeLog} (h : a.2.1 = some l) : s.serveRecords src t part tenures xs =
    (({ s1 with embed := { s1.embed with serveLogs := s1.embed.serveLogs ++ [l] } } : State).trackRows t.id l.keys src).send (.lookupAnswer src a.1) := by
  simp only [State.serveRecords, ← ha, ← hs1, h]

end

/-- One record as an old owner forwards it. -/
def forwardedRecord (r : LookupReq) (rank ten : Nat) : LookupReq := { r with tenure := ten, last := true, via := some (r.via.getD rank) }

theorem forwardedRecords_single (r : LookupReq) (rank ten : Nat) : forwardedRecords rank r.part [(r, ten)] = [forwardedRecord r rank ten] := by
  simp [forwardedRecords, forwardedRecord]

/-- The forwarding of one record is noted in the serve log. -/
theorem State.forwardLookup_single (s : State) (src o ten : Nat) (r : LookupReq) : s.forwardLookup src r.part [r.tenure] (o, [(r, ten)]) =
    ({ s with embed := { s.embed with serveLogs := s.embed.serveLogs ++ [⟨src, r.table, r.tag, r.pool, [r.key], [r.weight], [], [r.tenure], some (o, ten)⟩] } } : State).send
      (.forwardedLookup o src [forwardedRecord r s.rank ten]) := by
  rw [State.forwardLookup, forwardedRecords_single]
  rfl

/-- A request of one record is one portion. -/
theorem lookupRequest_single {s u : State} {src : Nat} {r : LookupReq} (hlive : s.isHalted = false) (h : s.takeLookup src [r] = u) : Runs (.lookupRequest src [r]) s u :=
  .of_arrives hlive rfl h

/-! ### Lookup answers (R284) -/

/-- An answer reaches the portion that waits for it, and the lookup ends with the last of them. -/
theorem lookupResponse_answers {s : State} {src : Nat} {r : LookupResp} {g : Gather} {c : Cmd} {t : ETable} {x : List Portion × Nat} (hlive : s.isHalted = false) (hg : s.graph.gathers = [g])
    (hawaits : g.portions.any (Portion.awaitsLookup src r) = true) (hc : s.cmd? g.cmd = some c) (hop : opcodeOf c.pkt = 0x6010) (ht : s.etable? (lkTable c.pkt) = some t)
    (hx : x = answerFirst src r (answeredLookup t (lkPool c.pkt) r) g.portions) :
    Runs (.lookupResponse src r) s ((({ s with graph := { s.graph with gathers := [{ g with portions := x.1 }] } } : State).countNonfinite x.2).finishLookup g.cmd) := by
  subst hx
  refine .of_arrives hlive rfl ?_
  simp [hg, hawaits, hc, hop, ht, mapWhere]

/-! ### Contributions (R128, R288, R290) -/

/-- The contribution of a row enters the churn of its owner, which acknowledges it. -/
theorem State.takeContribution_serves {s : State} {c : Contribution} {t : ETable} {a : Nat} (src : Nat) (hkind : c.kind ≠ 1) (ht : s.etable? c.table = some t)
    (hv : s.judge t c.key c.tenure = .serve a) :
    s.takeContribution src c = (s.churnAdd t c.key ⟨src, c.origin, c.seq, c.grad⟩).1.send (.contributionAnswer src (contribTag c) (s.churnAdd t c.key ⟨src, c.origin, c.seq, c.grad⟩).2) := by
  simp only [State.takeContribution, ht, if_neg hkind, hv]

/-- The gradient of a bag is expanded to the rows of its portion, which enter the churn. -/
theorem State.takeContribution_expands {s s1 : State} {c : Contribution} {t : ETable} {l : ServeLog} {x : List (List F32) × Nat} {k : State × Byte} {src : Nat} (hkind : c.kind = 1)
    (ht : s.etable? c.table = some t) (hl : s.useServeLog src c.table c.key = some (l, s1)) (hten : c.tenure ∈ l.tenures) (hhere : l.moved = none)
    (hx : x = (bagGrads l.pool l.weights l.winners l.keys.length c.grad).run 0) (hk : k = (s1.countNonfinite x.2).churnRows t src c.origin c.seq (l.keys.zip x.1)) :
    s.takeContribution src c = k.1.send (.contributionAnswer src (contribTag c) k.2) := by
  have hcarried : (!l.tenures.contains c.tenure) = false := by simpa using hten
  subst hk hx
  simp only [State.takeContribution, ht, if_pos hkind, State.takeBagGradient, hl, hcarried, hhere, Bool.false_eq_true, if_false]

/-- An acknowledgement without a failure shrinks what its scatter awaits. -/
theorem contributionAck_ok {s : State} {src tag : Nat} {x : Scatter} (hlive : s.isHalted = false) (hs : s.scatters = [x]) (hmem : (src, tag) ∈ x.acks) :
    Runs (.contributionAck src tag stOK) s (({ s with scatters := [{ x with acks := x.acks.erase (src, tag) }] } : State).finishScatter x.cmd) := by
  refine .of_arrives hlive rfl ?_
  simp [hs, hmem, mapWhere]

/-! ### Subscriptions and replicas (R299, R301) -/

/-- The copy of a row that this chip owns leaves with its weights and tenure. -/
theorem State.sendCopy_owned {s : State} {table key : Nat} {w : Nat × List Byte} (dests : List Nat) (h : s.ownedWeights table key = some w) :
    s.sendCopy table key dests = s.send (.refresh dests table key w.1 w.2) := by
  simp only [State.sendCopy, h]

/-- A subscription within the limits, for a row that this chip owns and keeps, is taken; the copy leaves at once where the refresh has run. -/
theorem subscriptionRequest_accepted {s s1 : State} {src table key : Nat} {w : Nat × List Byte} (hlive : s.isHalted = false) (hw : s.ownedWeights table key = some w)
    (hstays : s.forwardOf table key = none) (hkeeps : ∀ m ∈ s.embed.migrating, (m.1, m.2.1) ≠ (table, key)) (hrows : (s.embed.subs.map (fun x => (x.1, x.2.1))).dedup.length < 4096)
    (hsubs : s.embed.subs.length < 1048576) (hnew : (table, key, src) ∉ s.embed.subs) (hs1 : s1 = { s with embed := { s.embed with subs := s.embed.subs ++ [(table, key, src)] } }) :
    Runs (.subscriptionRequest src table key) s (if s.refreshOpen then s1.send (.refresh [src] table key w.1 w.2) else s1) := by
  have hnoMove : s.embed.migrating.any (fun m => m.1 == table && m.2.1 == key) = false := List.any_eq_false.mpr fun m hm => by simpa using hkeeps m hm
  have hcopy : s1.sendCopy table key [src] = s1.send (.refresh [src] table key w.1 w.2) := State.sendCopy_owned [src] (by subst hs1; exact hw)
  have hunknown : s.embed.subs.contains (table, key, src) = false := by simpa using hnew
  refine .of_arrives hlive rfl ?_
  simp only [hw, hstays, hnoMove, decide_eq_false (Nat.not_le.mpr hrows), decide_eq_false (Nat.not_le.mpr hsubs), hunknown, Option.isNone_some, Option.isSome_none, Bool.and_false, Bool.or_self,
    Bool.false_eq_true, if_false, ← hs1, hcopy]

/-- A subscription to a row that this chip does not own is refused and counted. -/
theorem subscriptionRequest_refused {s : State} {table key : Nat} (src : Nat) (hlive : s.isHalted = false) (hw : s.ownedWeights table key = none) :
    Runs (.subscriptionRequest src table key) s
      (({ s with health := { s.health with counts := { s.health.counts with subsRefused := satAdd32 s.health.counts.subsRefused 1 } } } : State).send (.subscriptionRefused src table key)) := by
  refine .of_arrives hlive rfl ?_
  simp only [hw, Option.isNone_none, Bool.true_or, if_true]

/-- A refusal of what the chip asked for is kept for 64 steps and logged. -/
theorem subscriptionRefused_waits {s : State} {table key owner : Nat} (src : Nat) (hlive : s.isHalted = false) (hasked : (table, key, owner) ∈ s.embed.asked) :
    Runs (.subscriptionRefused src table key) s
      (({ s with embed := { s.embed with
          asked := s.embed.asked.filter (fun a => !(a.1 == table && a.2.1 == key))
          refused := s.embed.refused.filter (fun (r : Nat × Nat × W64) => !(r.1 == table && r.2.1 == key)) ++ [(table, key, s.plans.stepNo + 64)] } } : State).rowDecision 8 table key [s.embed.countOf table key / 16] 2) := by
  have hany : s.embed.asked.any (fun a => a.1 == table && a.2.1 == key) = true := List.any_eq_true.mpr ⟨_, hasked, by simp⟩
  refine .of_arrives hlive rfl ?_
  simp only [hany, if_true]

/-- A copy renews the replica of its row: at once, or at the next boundary under ONE_STALE. -/
theorem replicaRefresh_renews {s : State} {table key : Nat} {r : Replica} (src tenure : Nat) (weights : List Byte) (hlive : s.isHalted = false) (hr : r ∈ s.embed.replicas)
    (htable : r.table = table) (hkey : r.key = key) :
    Runs (.replicaRefresh src table key tenure weights) s
      { s with embed := { s.embed with replicas := mapWhere (fun r => r.table == table && r.key == key) (fun r => if s.embed.policy.oneStale then { r with nextWeights := some weights } else { r with weights := weights, tenure := tenure }) s.embed.replicas } } := by
  have hany : s.embed.replicas.any (fun r => r.table == table && r.key == key) = true := List.any_eq_true.mpr ⟨r, hr, by simp [htable, hkey]⟩
  refine .of_arrives hlive rfl ?_
  simp only [hany, if_true]

/-! ### Migration (R304) -/

/-- A migrated row that comes home enters its home slot and is acknowledged. -/
theorem migrationCopy_home {s : State} {m : MigCopy} {t : ETable} {a ten : Nat} (hlive : s.isHalted = false) (ht : s.etable? m.table = some t) (hhome : t.homeRank s.jobN m.key = s.rank)
    (ha : a = t.base + t.homeSlot s.jobN m.key * t.stride) (hten : ten = nextTenure m.tenure) :
    Runs (.migrationCopy m) s
      ((({ s with embed := { s.embed with
          forwards := s.embed.forwards.filter (fun f => !(f.table == m.table && f.key == m.key))
          notices := s.embed.notices ++ [⟨m.table, m.key, s.rank, ten⟩]
          migrated := s.embed.migrated ++ [(m.table, m.key, s.plans.stepNo)] } } : State).store 2 a (withTenure t m.record ten)).1.send (.migrationAnswer m.src m.table m.key true)) := by
  subst hten ha
  refine .of_arrives hlive rfl ?_
  simp only [ht, hhome, decide_true, if_true]

/-- A migrated row that finds no guest slot is declined. -/
theorem migrationCopy_declines {s : State} {m : MigCopy} {t : ETable} (hlive : s.isHalted = false) (ht : s.etable? m.table = some t) (haway : t.homeRank s.jobN m.key ≠ s.rank)
    (hfull : s.freeGuest t = none) : Runs (.migrationCopy m) s (s.send (.migrationAnswer m.src m.table m.key false)) := by
  refine .of_arrives hlive rfl ?_
  simp only [ht, decide_eq_false haway, hfull, Bool.false_eq_true, if_false, Option.map_none]

section
variable {s : State} {src table key a : Nat} {t : ETable} (hlive : s.isHalted = false) (hleaving : (table, key, src) ∈ s.embed.migrating) (ht : s.etable? table = some t) (ha : s.rowAddr t key = some a)
include hlive hleaving ht ha

/-- The old owner of a row that was taken keeps a forwarding entry in its place. -/
theorem migrationAck_accepted : Runs (.migrationAck src table key true) s
    (({ s with embed := { s.embed with
        migrating := s.embed.migrating.filter (· != (table, key, src))
        forwards := s.embed.forwards ++ [⟨table, key, src, nextTenure (s.heldTenure t a), BitVec.ofNat 32 (s.step32 + 2)⟩]
        guests := s.embed.guests.filter (fun g => !(g.table == table && g.key == key)) } } : State).refreshDue) := by
  have hout : (!s.embed.migrating.contains (table, key, src)) = false := by simpa using hleaving
  refine .of_arrives hlive rfl ?_
  simp only [hout, ht, ha, Bool.false_eq_true, if_false]

/-- A row that was declined stays, and the failed decision is logged. -/
theorem migrationAck_declined : Runs (.migrationAck src table key false) s
    ((({ s with embed := { s.embed with migrating := s.embed.migrating.filter (· != (table, key, src)) } } : State).rowDecision 9 table key [src, nextTenure (s.heldTenure t a)] 2).refreshDue) := by
  have hout : (!s.embed.migrating.contains (table, key, src)) = false := by simpa using hleaving
  refine .of_arrives hlive rfl ?_
  simp only [hout, ht, ha, Bool.false_eq_true, if_false, Option.map_some, Option.getD_some]

end

/-- Settles O14: each message has the equation of its branch on a chip that is not halted (`Runs.of_arrives`); a portion or contribution of one row is judged by `State.judge`. -/
theorem embeddingEventsComplete : Obligations.EmbeddingEventsComplete := by
  intro s
  refine ⟨?lookupNext, ?lookupMismatch, ?lookupServed, ?lookupForwarded, ?lookupFails, ?lookupAnswer, ?rowContribution, ?bagContribution, ?ack, ?subscribed, ?notSubscribed, ?refused, ?unsubscribe,
    ?renewedNow, ?renewedLater, ?copyHome, ?copyDeclined, ?ackAccepted, ?ackDeclined, ?notice⟩
  case lookupNext => exact fun src r hlive hnext => lookupRequest_single hlive (State.takeLookup_next src hnext)
  case lookupMismatch => exact fun src r hlive hnext hown => lookupRequest_single hlive (State.takeLookup_mismatch src hnext hown)
  case lookupServed =>
    intro src r t a hlive hown ht hv x s1 hx hs1
    have hserves := State.takeLookup_serves src hown ht hv
    exact ⟨fun h => lookupRequest_single hlive (hserves.trans (State.serveRecords_unlogged (xs := [(r, a)]) hx hs1 h)), fun l h => lookupRequest_single hlive (hserves.trans (State.serveRecords_logged (xs := [(r, a)]) hx hs1 h))⟩
  case lookupForwarded =>
    rintro src r t o ten _ hlive hown ht hv rfl
    exact lookupRequest_single hlive ((State.takeLookup_forwards src hown ht hv).trans (s.forwardLookup_single src o ten r))
  case lookupFails => exact fun src r t f hlive hown ht hv => lookupRequest_single hlive (State.takeLookup_fails src hown ht hv)
  case lookupAnswer => exact fun src r g c t x hlive hg hawaits hc hop ht hx => lookupResponse_answers hlive hg hawaits hc hop ht hx
  case rowContribution => exact fun src c t a hlive hkind ht hv => .of_arrives hlive rfl (State.takeContribution_serves src hkind ht hv)
  case bagContribution => exact fun src c t l s1 x k hlive hkind ht hl hten hhere hx hk => .of_arrives hlive rfl (State.takeContribution_expands hkind ht hl hten hhere hx hk)
  case ack => exact fun src tag x hlive hs hmem => contributionAck_ok hlive hs hmem
  case subscribed =>
    intro src table key w s1 hlive hw hstays hkeeps hrows hsubs hnew hs1
    have haccepted := subscriptionRequest_accepted hlive hw hstays hkeeps hrows hsubs hnew hs1
    exact ⟨fun hopen => by rwa [hopen, if_neg Bool.false_ne_true] at haccepted, fun hopen => by rwa [if_pos hopen] at haccepted⟩
  case notSubscribed => exact fun src table key hlive hw => subscriptionRequest_refused src hlive hw
  case refused => exact fun src table key owner hlive hasked => subscriptionRefused_waits src hlive hasked
  case unsubscribe => exact fun src table key hlive => .of_arrives hlive rfl rfl
  case renewedNow =>
    intro src table key tenure weights r hlive hr htable hkey hstale
    have hrenews := replicaRefresh_renews src tenure weights hlive hr htable hkey
    simpa only [hstale, Bool.false_eq_true, if_false] using hrenews
  case renewedLater =>
    intro src table key tenure weights r hlive hr htable hkey hstale
    have hrenews := replicaRefresh_renews src tenure weights hlive hr htable hkey
    simpa only [hstale, if_true] using hrenews
  case copyHome => exact fun m t a ten hlive ht hhome ha hten => migrationCopy_home hlive ht hhome ha hten
  case copyDeclined => exact fun m t hlive ht haway hfull => migrationCopy_declines hlive ht haway hfull
  case ackAccepted => exact fun src table key t a hlive hleaving ht ha => migrationAck_accepted hlive hleaving ht ha
  case ackDeclined => exact fun src table key t a hlive hleaving ht ha => migrationAck_declined hlive hleaving ht ha
  case notice => exact fun r hlive => .of_arrives hlive rfl rfl

end Sys2Proof.Machine
end

section
/-! SUPPORT. Adds and atomics on their way to memory (R128, R415, R416, R427 to R430): what a port and a slice do to a sector that can be read, one equation for each branch, and O6 assembled from them. -/
namespace Sys2Proof.Machine

/-! ### Adds at the port of their sector (R415, R416) -/

section
variable {s s1 : State} {r : AddReq} {n : List Byte × (Nat × Nat)} (hgood : (s.read r.addr 32).good = true)
  (hs1 : s1 = ({ s with mem := s.mem.release r.addr } : State).noteRead 0 r.addr 32) (hn : n = (sectorAdd r (s.read r.addr 32).data).run (0, 0))
include hgood hs1 hn

/-- In the line of a pinned accumulator the add is made in the line, which stays, and no add buffer takes the sector: the reading of R427 to R429 in log entry 144. -/
theorem State.memoryAdd_pinned (hpin : s.mem.pinnedLine r.addr = true) : s.memoryAdd r = (((s1.countAdds n.2).store 2 r.addr n.1).1, none) := by
  subst hs1 hn
  simp only [State.memoryAdd, readStatus_good hgood, if_pos hpin]

/-- Elsewhere the port makes the add and holds the sector in its add buffer. -/
theorem State.memoryAdd_port (hpin : s.mem.pinnedLine r.addr = false) :
    s.memoryAdd r = (((({ s1 with mem := s1.mem.release r.addr } : State).countAdds n.2).store 5 r.addr n.1).1.holdSector r.addr, none) := by
  subst hs1 hn
  simp only [State.memoryAdd, readStatus_good hgood, hpin, Bool.false_eq_true, if_false]

end

/-- An add that a scatter waits for is made, and shrinks what its scatter has left. -/
theorem memorySideAdd_awaited {s t : State} {id : Nat} {r : AddReq} {x : Scatter} (hx : s.scatters.find? (fun x => x.cmd == id) = some x) (hr : r ∈ x.adds) (ht : s.memoryAdd r = (t, none)) :
    Runs (.memorySideAdd id r) s (t.scatterDone id r.addr (fun y => { y with adds := y.adds.erase r }) none) := by
  have hwaits : (!x.adds.contains r) = false := by simpa using hr
  refine .of_settle rfl ?_
  simp only [hx, hwaits, ht, Bool.false_eq_true, if_false]

/-! ### Atomics at their slice (R430) -/

/-- An atomic on integers stores its new value and answers the old one; no non-finite result is counted. -/
theorem State.sliceAtomic_integer {s : State} {r : AtomReq} (hgood : (s.read r.addr (tyBytes r.ty)).good = true) (hint : r.ty ≠ .fp32) :
    s.sliceAtomic r = (((s.noteRead 0 r.addr (tyBytes r.ty)).store 0 r.addr
      (toLE (tyBytes r.ty) (atomValue r.op r.ty (leNat (s.read r.addr (tyBytes r.ty)).data) r.operand r.compare))).1, .inr (leNat (s.read r.addr (tyBytes r.ty)).data)) := by
  simp only [State.sliceAtomic, readStatus_good hgood, hint, false_and, if_false]

/-- An atomic that a scatter waits for is made, and shrinks what its scatter has left. -/
theorem sliceAtomic_awaited {s t : State} {id old : Nat} {r : AtomReq} {x : Scatter} (hx : s.scatters.find? (fun x => x.cmd == id) = some x) (hr : r ∈ x.atomics)
    (ht : s.sliceAtomic r = (t, .inr old)) : Runs (.sliceAtomic id r) s (t.scatterDone id r.addr (fun y => { y with atomics := y.atomics.erase r }) none) := by
  have hwaits : (!x.atomics.contains r) = false := by simpa using hr
  refine .of_settle rfl ?_
  simp only [hx, hwaits, ht, Bool.false_eq_true, if_false]

/-- Settles O6: an add or atomic that its scatter waits for is made as the equation of its branch says, and the scatter's work shrinks by it (`State.scatterDone`). -/
theorem memorySideAddsComplete : Obligations.MemorySideAddsComplete := by
  intro s
  refine ⟨?addPinned, ?addPort, ?atomic, ?evict⟩
  case addPinned => exact fun id r x s1 n hx hr hpin hgood hs1 hn => memorySideAdd_awaited hx hr (State.memoryAdd_pinned hgood hs1 hn hpin)
  case addPort => exact fun id r x s1 n hx hr hpin hgood hs1 hn => memorySideAdd_awaited hx hr (State.memoryAdd_port hgood hs1 hn hpin)
  case atomic => exact fun id r x hx hr hgood hint => sliceAtomic_awaited hx hr (State.sliceAtomic_integer hgood hint)
  case evict => exact fun port sector => .of_settle rfl rfl

end Sys2Proof.Machine
end

section
/-! SUPPORT. Accumulation groups (R138, R144 to R154, R255): what opening, a close, a discard and a product leave, one equation for each branch, and O7 assembled from them. -/
namespace Sys2Proof.Machine

/-! ### The frame of a command into a group (R148) -/

/-- A command into a group that no earlier one holds back runs in the frame of every command. -/
theorem State.runGroupCmd_free {s : State} {id : Nat} (h : s.groupWait id = false) (info : OpInfo) (e : State → Ctx → State × Option Result) :
    s.runGroupCmd info id e = s.runCmd info id e :=
  if_neg (by simp [h])

/-- A ready command into a group whose effect gives a result ends with it. -/
theorem Ready.groupEnds {i : Instr} {s u : State} {id : Nat} {info : OpInfo} {c : Ctx} {e : State → Ctx → State × Option Result} {r : Result} (h : Ready s info id c)
    (hfree : s.groupWait id = false) (hx : exec i s = .next (s.settle (s.runGroupCmd info id e))) (he : e (s.begun id) c = (u, some r)) : Ends i s id r u :=
  h.ends (hx.trans (by rw [State.runGroupCmd_free hfree])) he

/-- A ready command into a group whose effect gives no result leaves that effect's state. -/
theorem Ready.groupRuns {i : Instr} {s u : State} {id : Nat} {info : OpInfo} {c : Ctx} {e : State → Ctx → State × Option Result} (h : Ready s info id c)
    (hfree : s.groupWait id = false) (hx : exec i s = .next (s.settle (s.runGroupCmd info id e))) (he : e (s.begun id) c = (u, none)) : Runs i s u :=
  h.runs (hx.trans (by rw [State.runGroupCmd_free hfree])) he

/-- MATRIX.ACC_OPEN and SPARSE.ACC_OPEN open a group in the same way (R144, R254). -/
theorem exec_accOpen {i : Instr} {info : OpInfo} {id : Nat} (h : (i = .matrixAccOpen id ∧ info = matrixAccOpenInfo) ∨ (i = .sparseAccOpen id ∧ info = sparseAccOpenInfo)) (s : State) :
    exec i s = .next (s.settle (s.runGroupCmd info id State.runOpen)) := by
  obtain ⟨rfl, rfl⟩ | ⟨rfl, rfl⟩ := h
  · rfl
  · rfl

/-- MATRIX.MATMUL and SPARSE.MATMUL take a product in the same way (R138, R255). -/
theorem exec_matmul {i : Instr} {info : OpInfo} {id : Nat} (h : (i = .matrixMatmul id ∧ info = matrixMatmulInfo) ∨ (i = .sparseMatmul id ∧ info = sparseMatmulInfo)) (s : State) :
    exec i s = .next (s.settle (s.runGroupCmd info id State.startProduct)) := by
  obtain ⟨rfl, rfl⟩ | ⟨rfl, rfl⟩ := h
  · rfl
  · rfl

section
variable {s : State} {c : Ctx} {g : Group}

/-! ### Opening (R144, R146) -/

/-- A slot that is free, that no waiting command opens, and for whose stacks there is room can be opened. -/
theorem State.openFails_eq_none (hslot : s.group? c.branch (mGroup c.pkt) = none) (hwaking : s.wakingOn c (fun p => opensGroup p && !freesGroup p) = false)
    (hroom : s.stackLacks (s.newGroup c) c.ridges = false) : s.openFails c = none := by
  simp [State.openFails, hslot, hwaking, hroom]

/-- An opening command without ACC_CLOSE leaves the empty group open. -/
theorem State.runOpen_opens (hopen : s.openFails c = none) (hclose : flagAccClose c.pkt = false) : s.runOpen c = (s.openGroup c, some resOK) := by
  simp only [State.runOpen, hopen, hclose, Bool.false_eq_true, if_false]

/-- An opening command with ACC_CLOSE closes the empty group again (R29). -/
theorem State.runOpen_closes (hopen : s.openFails c = none) (hclose : flagAccClose c.pkt = true) :
    s.runOpen c = (((s.openGroup c).closeGroup c (s.newGroup c)).1, some ((s.openGroup c).closeGroup c (s.newGroup c)).2) := by
  simp only [State.runOpen, hopen, hclose, if_true]

/-! ### Closing, discarding, status (R149, R150, R153, R154) -/

/-- The close of a poisoned group poisons its output. -/
theorem State.closeGroup_poisoned (h : g.poisoned = true) :
    s.closeGroup c g = ((s.freeGroup g).poisonGroupOut g, ⟨stPoisoned, 0, detailOf (bnat g.anyRegister) 0, 0, 0, 0⟩) :=
  if_pos h

/-- The close of a group whose result can be written writes it and counts a long sum. -/
theorem State.closeGroup_written {r : List (List F32) × Nat} {w : State × Option Result} (h : g.poisoned = false) (hr : r = g.results.run 0)
    (hw : w = ((s.freeGroup g).countNonfinite r.2).writeGroup c g r.1) (hok : w.2 = none) : s.closeGroup c g = (w.1.countLongSum g, g.closeResult) := by
  subst hr hw
  simp only [State.closeGroup, h, hok, Bool.false_eq_true, if_false]

/-- MATRIX.ACC_CLOSE closes the group that it finds open. -/
theorem effectMatrixAccClose_closes (hg : s.groupFor c = some g) : effectMatrixAccClose s c = ((s.closeGroup c g).1, some (s.closeGroup c g).2) := by
  simp only [effectMatrixAccClose, hg]

/-- MATRIX.ACC_DISCARD frees the group that it finds open. -/
theorem effectMatrixAccDiscard_frees (hg : s.groupFor c = some g) : effectMatrixAccDiscard s c = (s.freeGroup g, some resOK) := by
  simp only [effectMatrixAccDiscard, hg]

/-- MATRIX.ACC_STATUS of a slot that is free. -/
theorem effectMatrixAccStatus_free (hslot : s.group? c.branch (mGroup c.pkt) = none) :
    effectMatrixAccStatus s c = (s, some (resOf stOK 0 (assocGet s.matrix.longSums (mGroup c.pkt) 0).toNat)) := by
  simp only [effectMatrixAccStatus, State.groupStatus, hslot]

/-- MATRIX.ACC_STATUS of an open group. -/
theorem effectMatrixAccStatus_open (hslot : s.group? c.branch (mGroup c.pkt) = some g) :
    effectMatrixAccStatus s c = (s, some { resOf stOK (if g.poisoned then 2 else 1) (assocGet s.matrix.longSums (mGroup c.pkt) 0).toNat with
      index := BitVec.ofNat 32 (min (g.passes.foldl max 0) 0xFFFFFFFF) }) := by
  simp only [effectMatrixAccStatus, State.groupStatus, hslot]

/-! ### Products (R17, R138, R148) -/

/-- An open group with the M and N of the packet suits it. -/
theorem groupMismatch_eq_none {p : List Byte} (hm : mM p = g.m) (hn : mN p = g.n) : groupMismatch p (some g) = none := by
  simp [groupMismatch, hm, hn]

/-- A product into an open group waits for its ridge-matrix domains. -/
theorem State.startProduct_waits (hopens : mOpens c.pkt = false) (hg : s.groupFor c = some g) (hm : mM c.pkt = g.m) (hn : mN c.pkt = g.n) (hoff : s.dormant g c.ridges ≠ []) :
    s.startProduct c = (s.wakeFor c.id (s.dormant g c.ridges), none) := by
  simp only [State.startProduct, hopens, hg, groupMismatch_eq_none hm hn, List.isEmpty_iff, hoff, Bool.false_eq_true, if_false]

/-- A product into an open group whose domains are on runs on it. -/
theorem State.startProduct_intoOpen (hopens : mOpens c.pkt = false) (hg : s.groupFor c = some g) (hm : mM c.pkt = g.m) (hn : mN c.pkt = g.n) (hon : s.dormant g c.ridges = []) :
    s.startProduct c = s.runProduct c g := by
  simp only [State.startProduct, hopens, hg, groupMismatch_eq_none hm hn, hon, List.isEmpty_nil, Bool.false_eq_true, if_false, if_true]

/-- A product that opens its group runs on the group it opened, when the group's domains are on. -/
theorem State.startProduct_intoNew (hopens : mOpens c.pkt = true) (hopen : s.openFails c = none) (hon : s.dormant (s.newGroup c) c.ridges = []) :
    s.startProduct c = (s.openGroup c).runProduct c (s.newGroup c) := by
  simp only [State.startProduct, hopens, hopen, hon, List.isEmpty_nil, if_true]

/-- A product with readable operands adds its passes to its group; with ACC_CLOSE it closes the group too. -/
theorem State.runProduct_adds {x : ProductInput} {a : Group × Nat} {s2 : State} (hx : x = s.productInput c.pkt) (hgood : (s.readAll x.reads).good = true) (hpoison : x.poisoned = false)
    (hfailure : x.failure = none) (ha : a = (g.accumulate x.shape (mK c.pkt) x.as x.bs).run 0) (hs2 : s2 = ((s.noteReads 0 x.reads).countNonfinite a.2).updGroup g (fun _ => a.1)) :
    s.runProduct c g = if flagAccClose c.pkt then ((s2.closeGroup c a.1).1, some (s2.closeGroup c a.1).2) else (s2, some resOK) := by
  subst hx ha hs2
  simp only [State.runProduct, readStatus_good hgood, hpoison, hfailure, Option.map_none, Bool.false_eq_true, if_false]

end

/-- Settles O7: each command into a group runs in the frame of every command once none holds it back (`Ready.groupEnds`, `Ready.groupRuns`); a product runs on the group that it finds open or has opened (`State.runProduct_adds`). -/
theorem accumulationCommandsComplete : Obligations.AccumulationCommandsComplete := by
  rintro s _ id c rfl
  refine ⟨?accOpen, ?closePoisoned, ?closeWritten, ?discard, ?statusFree, ?statusOpen, ?product⟩
  case accOpen =>
    intro i info hi h hfree hslot hwaking hroom
    have hopen := State.openFails_eq_none hslot hwaking hroom
    exact ⟨fun hclose => h.groupEnds hfree (exec_accOpen hi s) (State.runOpen_opens hopen hclose), fun hclose => h.groupEnds hfree (exec_accOpen hi s) (State.runOpen_closes hopen hclose)⟩
  case closePoisoned =>
    intro g h hfree hg hpoison
    refine h.groupEnds hfree rfl ?_
    rw [effectMatrixAccClose_closes hg, State.closeGroup_poisoned hpoison]
  case closeWritten =>
    intro g r w h hfree hg hpoison hr hw hok
    refine h.groupEnds hfree rfl ?_
    rw [effectMatrixAccClose_closes hg, State.closeGroup_written hpoison hr hw hok]
  case discard => exact fun g h hfree hg => h.groupEnds hfree rfl (effectMatrixAccDiscard_frees hg)
  case statusFree => exact fun h hslot => h.ends rfl (effectMatrixAccStatus_free (s := s.begun id) hslot)
  case statusOpen => exact fun g h hslot => h.ends rfl (effectMatrixAccStatus_open (s := s.begun id) hslot)
  case product =>
    refine fun i info hi h hfree => ⟨fun g hopens hg hm hn hoff => h.groupRuns hfree (exec_matmul hi s) (State.startProduct_waits hopens hg hm hn hoff), ?_⟩
    intro g b1 x htarget hon hx hgood hpoison hfailure a s2 ha hs2
    have hstart : (s.begun id).startProduct c = b1.runProduct c g := by
      obtain ⟨hopens, hg, hm, hn, rfl⟩ | ⟨hopens, hopen, rfl, rfl⟩ := htarget
      · exact State.startProduct_intoOpen hopens hg hm hn hon
      · exact State.startProduct_intoNew hopens hopen hon
    have hadds := hstart.trans (State.runProduct_adds hx hgood hpoison hfailure ha hs2)
    refine ⟨fun hclose => h.groupEnds hfree (exec_matmul hi s) ?_, fun hclose => h.groupEnds hfree (exec_matmul hi s) ?_⟩
    · rw [hadds, hclose, if_neg Bool.false_ne_true]
    · rw [hadds, if_pos hclose]

end Sys2Proof.Machine
end

section
/-! SUPPORT. The settings of the number formats (R190, R191, R193, R200, R219): what the effect of each leaves at once and while a step runs, and O9 assembled from them. -/
namespace Sys2Proof.Machine

/-! ### Settings that wait for the boundary while a step runs (R190, R200, R219) -/

/-- What CFG.RATIO_SET sets: STALL_N 0 stands for 64, and the mask may lie in the mailbox buffer (R200, R560). -/
def ratioOf (c : Ctx) : RatioCfg :=
  { low := BitVec.ofNat 32 (c.f 32 4), high := BitVec.ofNat 32 (c.f 36 4), stallN := if c.f 40 2 = 0 then 64 else c.f 40 2, enable := bitAt (c.f 42 1) 0,
    global := bitAt (c.f 42 1) 1, tagMask := c.f 48 8, maskInBox := c.mailboxOffset (c.f 48 8) }

section
variable {s : State} (c : Ctx)

/-- With no step running CFG.WIDE takes both its settings. -/
theorem effectCfgWide_atOnce (h : s.stepRunning = false) :
    effectCfgWide s c = ({ s with num := { s.num with wideState := bitAt (c.f 32 1) 0, wideReduce := bitAt (c.f 32 1) 1, pendingReduce := none } }, some resOK) :=
  if_neg (by simp [h])

/-- While a step runs CFG.WIDE takes WIDE_STATE, and WIDE_REDUCE waits. -/
theorem effectCfgWide_atBoundary (h : s.stepRunning = true) :
    effectCfgWide s c = ({ s with num := { s.num with wideState := bitAt (c.f 32 1) 0, pendingReduce := some (bitAt (c.f 32 1) 1) } }, some resOK) :=
  if_pos h

/-- With no step running CFG.RATIO_SET sets the monitor. -/
theorem effectCfgRatioSet_atOnce (h : s.stepRunning = false) : effectCfgRatioSet s c = ({ s with num := { s.num with ratio := ratioOf c, pendingRatio := none } }, some resOK) :=
  if_neg (by simp [h])

/-- While a step runs the setting of the monitor waits. -/
theorem effectCfgRatioSet_atBoundary (h : s.stepRunning = true) : effectCfgRatioSet s c = ({ s with num := { s.num with pendingRatio := some (ratioOf c) } }, some resOK) :=
  if_pos h

/-- With no step running VEC.RNG_SEED sets the seed. -/
theorem effectVecRngSeed_atOnce (h : s.stepRunning = false) :
    effectVecRngSeed s c = ({ s with vec := { s.vec with seed := BitVec.ofNat 64 (c.f 40 8), pendingSeed := none } }, some resOK) :=
  if_neg (by simp [h])

/-- While a step runs the seed waits. -/
theorem effectVecRngSeed_atBoundary (h : s.stepRunning = true) : effectVecRngSeed s c = ({ s with vec := { s.vec with pendingSeed := some (BitVec.ofNat 64 (c.f 40 8)) } }, some resOK) :=
  if_pos h

end

/-! ### CFG.NUM_READ (R193) -/

/-- The state with the counts of every counter set cleared. -/
def State.clearSets (s : State) : State := { s with num := { s.num with sets := s.num.sets.map (fun x => { x with flush := 0, nonfinite := 0, miss := 0 }) } }

/-- The records as they stood are written, whether or not the sets are cleared, and a whole write answers their count. -/
theorem effectCfgNumRead_written {s : State} {c : Ctx} {w : State × WriteRes}
    (hw : w = (if bitAt (c.f 33 1) 0 then s.clearSets else s).storeAt c 0 (c.f 40 8) (s.numRecords (c.f 32 1)).flatten) (hok : writeStatus w.2 = none) :
    effectCfgNumRead s c = (w.1, some (resIndex (s.numRecords (c.f 32 1)).length)) := by
  have heffect : effectCfgNumRead s c = (w.1, some ((writeStatus w.2).getD (resIndex (s.numRecords (c.f 32 1)).length))) := by
    rw [hw]
    rfl
  rw [heffect, hok, Option.getD_none]

/-- Settles O9: each command runs in the frame of every command (`Ready.ends`), with the effect that its branch gives on the state in which it has begun. -/
theorem numericSettingsComplete : Obligations.NumericSettingsComplete := by
  rintro s _ id c rfl
  refine ⟨?wideNow, ?wideLater, ?scalePool, ?ratio, ?numRead, ?seedNow, ?seedLater⟩
  case wideNow => exact fun h hidle => h.ends rfl (effectCfgWide_atOnce (s := s.begun id) c hidle)
  case wideLater => exact fun h hruns => h.ends rfl (effectCfgWide_atBoundary (s := s.begun id) c hruns)
  case scalePool => exact fun h => h.ends rfl rfl
  case ratio =>
    rintro _ h rfl
    exact ⟨fun hidle => h.ends rfl (effectCfgRatioSet_atOnce (s := s.begun id) c hidle), fun hruns => h.ends rfl (effectCfgRatioSet_atBoundary (s := s.begun id) c hruns)⟩
  case numRead => exact fun w h hw hok => h.ends rfl (effectCfgNumRead_written (s := s.begun id) hw hok)
  case seedNow => exact fun h hidle => h.ends rfl (effectVecRngSeed_atOnce (s := s.begun id) c hidle)
  case seedLater => exact fun h hruns => h.ends rfl (effectVecRngSeed_atBoundary (s := s.begun id) c hruns)

end Sys2Proof.Machine
end

section
/-! SUPPORT. Vector commands and function pairs (R201 to R223, R237): the equation of each effect that has branches, when a command waits for no pair, and O10 and O11 assembled from them. -/
namespace Sys2Proof.Machine

/-! ### VEC.SOFTMAX and VEC.LOSS (R207) -/

/-- A vector command with readable operands that computes a failure ends with it and poisons its outputs. -/
theorem State.runVec_fails {s : State} {reads : List (Nat × Nat)} {o : VecOut} {r : Result} (c : Ctx) (outs : List (Nat × Nat)) (hgood : (s.readAll reads).good = true) (hfail : o.fail = some r) :
    s.runVec c reads outs o = ((s.noteReads 0 reads).poisonRanges 0 outs, some r) := by
  simp only [State.runVec, readStatus_good hgood, hfail]

/-- The soft maximum of a row of X, after the row of the mask is added where there is one. -/
def maskedSoftRow (narrow masked : Bool) (mask : List (List F32)) (x : List F32 × Nat) : FpM (List F32) := do
  let zs ← if masked then (x.1.zipIdx).mapM (fun e => do
    let z ← addF e.1 (rowAt mask x.2 e.2)
    pure (maybeBf16 narrow z)) else pure x.1
  softRow narrow zs

/-- The effect reads a mask only where there is one; without it no value of the mask matters. -/
theorem maskedSoftRow_unmasked {narrow masked : Bool} (mask : List (List F32)) : maskedSoftRow narrow masked (if masked then mask else []) = maskedSoftRow narrow masked mask := by
  cases masked
  · rfl
  · rfl

/-- What VEC.LOSS commits: the losses at OUT, and the gradients converted at SAVE. -/
def lossOut (s : State) (c : Ctx) (r : List (F32 × List F32) × Nat) : VecOut :=
  let k := vecConverted s c (r.1.map (·.2))
  ⟨none, (vOut c.pkt, f32Bytes (r.1.map (·.1))) :: ({ vOutTensor c.pkt with addr := vSave c.pkt } : Tensor).writes k, r.2, k.count, []⟩

/-- Some label, other than the one of an ignored row, names no column of X. -/
def badLabel (p : List Byte) (labels : List Nat) : Bool := labels.any (fun l => decide (l ≠ 0xFFFFFFFF) && decide (vCols p ≤ l))

/-- The outputs of VEC.LOSS. -/
def lossOuts (p : List Byte) : List (Nat × Nat) := (vOut p, 4 * vRows p) :: ({ vOutTensor p with addr := vSave p } : Tensor).ranges

section
variable {s : State} {c : Ctx}

/-- SUB 0 is the soft maximum of each row of X with the mask at Y. -/
theorem effectVecSoftmax_forward (h : vSub c.pkt = 0) :
    effectVecSoftmax s c = s.runVec c ((vXTensor c.pkt).reads ++ (if decide (vY c.pkt ≠ 0) then (vOperand c.pkt 0 (vY c.pkt)).reads else [])) (vOutTensor c.pkt).ranges
      (vecOutOf s c ((((s.tensorF32 (vXTensor c.pkt)).zipIdx).mapM (maskedSoftRow s.narrowReduce (decide (vY c.pkt ≠ 0)) (s.tensorF32 (vOperand c.pkt 0 (vY c.pkt))))).run 0)) := by
  rw [← maskedSoftRow_unmasked]
  exact if_pos h

/-- SUB 1 is the gradient of each row, from the soft maximum in X and the gradient of its result at Z. -/
theorem effectVecSoftmax_backward (h : vSub c.pkt = 1) :
    effectVecSoftmax s c = s.runVec c ((vXTensor c.pkt).reads ++ (vOperand c.pkt (vYFmt c.pkt) (vZ c.pkt)).reads) (vOutTensor c.pkt).ranges
      (vecOutOf s c ((((s.tensorF32 (vXTensor c.pkt)).zipIdx).mapM (fun x => softBwdRow s.narrowReduce x.1 ((s.tensorF32 (vOperand c.pkt (vYFmt c.pkt) (vZ c.pkt))).getD x.2 []))).run 0)) :=
  if_neg (by simp [h])

/-- SUB 0 is cross-entropy against the labels at Y; a label out of range fails it. -/
theorem effectVecLoss_cross {labels : List Nat} {r : List (F32 × List F32) × Nat} (h : vSub c.pkt = 0) (hlabels : labels = (s.tensorRows (labelTensor c.pkt)).map leNat)
    (hr : r = (((s.tensorF32 (vXTensor c.pkt)).zip labels).mapM (fun x => crossRow s.narrowReduce (vParamA c.pkt) (if x.2 = 0xFFFFFFFF then none else some x.2) x.1)).run 0) :
    effectVecLoss s c = s.runVec c ((vXTensor c.pkt).reads ++ (labelTensor c.pkt).reads) (lossOuts c.pkt)
      (if badLabel c.pkt labels then ⟨some (resOf stIndexRange 0x07 0), [], 0, .zero, []⟩ else lossOut s c r) := by
  subst hlabels hr
  exact if_pos h

/-- SUB 1 is squared error against Y. -/
theorem effectVecLoss_square {r : List (F32 × List F32) × Nat} (h : vSub c.pkt = 1)
    (hr : r = (((s.tensorF32 (vXTensor c.pkt)).zipIdx).mapM (fun x => squareRow s.narrowReduce (vParamA c.pkt) x.1 ((s.tensorF32 (vOperand c.pkt (vYFmt c.pkt) (vY c.pkt))).getD x.2 []))).run 0) :
    effectVecLoss s c = s.runVec c ((vXTensor c.pkt).reads ++ (vOperand c.pkt (vYFmt c.pkt) (vY c.pkt)).reads) (lossOuts c.pkt) (lossOut s c r) := by
  subst hr
  exact if_neg (by simp [h])

end

/-- Settles O10: each command commits what its effect computes (`Ready.commits`), by the equation of its SUB where it has one; a label out of range is the failure that `State.runVec_fails` ends. How BF16
rates round, and exp and ln by the function unit's pairs, are the model's own reading (log entries 52 and 56). -/
theorem vectorCommandsComplete : Obligations.VectorCommandsComplete := by
  rintro s _ id c rfl
  refine ⟨?map, ?reduce, ?norm, ?normBwd, ?softmax, ?softmaxBwd, ?cross, ?square, ?dropout, ?init, ?randomBits, ?gumbel⟩
  case map => exact fun h => h.commits rfl ⟨_, rfl⟩
  case reduce =>
    rintro _ h rfl
    exact h.commits rfl ⟨_, rfl⟩
  case norm =>
    rintro _ _ h rfl rfl
    exact h.commits rfl ⟨_, rfl⟩
  case normBwd => exact fun h => h.commits rfl ⟨_, rfl⟩
  case softmax =>
    rintro _ _ h hsub rfl rfl
    exact h.commits rfl ⟨_, effectVecSoftmax_forward (s := s.begun id) hsub⟩
  case softmaxBwd => exact fun h hsub => h.commits rfl ⟨_, effectVecSoftmax_backward (s := s.begun id) hsub⟩
  case cross =>
    intro labels r h hsub hlabels hr
    have hcross := effectVecLoss_cross (s := s.begun id) hsub hlabels hr
    refine ⟨fun hin => ?inRange, fun hout hgood => ?outOfRange⟩
    case inRange =>
      rw [show badLabel c.pkt labels = false from hin, if_neg Bool.false_ne_true] at hcross
      exact h.commits rfl ⟨_, hcross⟩
    case outOfRange =>
      rw [if_pos (show badLabel c.pkt labels = true from hout)] at hcross
      exact h.ends rfl (hcross.trans (State.runVec_fails c _ hgood rfl))
  case square => exact fun r h hsub hr => h.commits rfl ⟨_, effectVecLoss_square (s := s.begun id) hsub hr⟩
  case dropout =>
    rintro _ h rfl
    exact h.commits rfl ⟨_, rfl⟩
  case init => exact fun h => h.commits rfl ⟨(vOutTensor c.pkt).ranges, rfl⟩
  case randomBits => exact fun h => h.commits rfl ⟨(vTensor 0 (vRows c.pkt) (vCols c.pkt) (vOut c.pkt) .row 0).ranges, rfl⟩
  case gumbel =>
    rintro _ h rfl
    exact h.commits rfl ⟨_, rfl⟩

/-! ### Commands that name a pair (R212) -/

/-- An arm that a load, a clear or a use of its pair may hold back runs its command when none does. -/
theorem exec_unheld {i : Instr} {s u : State} {held : Bool} (hx : exec i s = .next (s.settle (if held then s else u))) (h : held = false) : exec i s = .next (s.settle u) := by
  rw [hx, h, if_neg Bool.false_ne_true]

section
variable {s : State} {c : Ctx}

/-- FUNC.APPLY evaluates the pair that it names. -/
theorem effectFuncApply_evaluates {f : FPair} (hf : s.pair? (c.f 39 1) = some f) :
    effectFuncApply s c = s.runVec c (vXTensor c.pkt).reads (vOutTensor c.pkt).ranges (vecOutOf s c (((s.tensorF32 (vXTensor c.pkt)).mapM (fun (row : List F32) => row.mapM (f.eval false))).run 0)) := by
  have hpair : (s.pair? (vFunc c.pkt)).getD (builtinPair 0) = f := (congrArg (Option.getD · _) hf :)
  rw [← hpair]
  rfl

/-- FUNC.DERIV multiplies Y by the derivative of the pair that it names. -/
theorem effectFuncDeriv_evaluates {f : FPair} (hf : s.pair? (c.f 39 1) = some f) :
    effectFuncDeriv s c = s.runVec c ((vXTensor c.pkt).reads ++ (vOperand c.pkt (vYFmt c.pkt) (vY c.pkt)).reads) (vOutTensor c.pkt).ranges
      (vecOutOf s c ((((s.tensorF32 (vXTensor c.pkt)).zipIdx).mapM (fun (x : List F32 × Nat) => (x.1.zipIdx).mapM (fun (e : F32 × Nat) => do
        let d ← f.eval true e.1
        mulF (rowAt (s.tensorF32 (vOperand c.pkt (vYFmt c.pkt) (vY c.pkt))) x.2 e.2) d))).run 0)) := by
  have hpair : (s.pair? (vFunc c.pkt)).getD (builtinPair 0) = f := (congrArg (Option.getD · _) hf :)
  rw [← hpair]
  rfl

/-- FUNC.LOAD_PAIR installs an image that is right and extends the measurement with it. -/
theorem effectFuncLoadPair_installs {extend : State → List Byte → State} {img : List Byte} {s1 : State} (himg : img = (s.read (c.f 40 8) 8256).data) (hgood : (s.read (c.f 40 8) 8256).good = true)
    (hok : pairImageOk img = true) (hs1 : s1 = s.noteRead 0 (c.f 40 8) 8256) :
    effectFuncLoadPair extend s c = (extend { s1 with vec := { s1.vec with pairs := assocSet s1.vec.pairs (c.f 32 1) img } } img, some resOK) := by
  subst himg hs1
  simp only [effectFuncLoadPair, readStatus_good hgood, hok, Bool.not_true, Bool.false_eq_true, if_false]

/-- FUNC.READ_PAIR writes the image of a pair that was loaded. -/
theorem effectFuncReadPair_loaded {e : Nat × List Byte} {w : State × WriteRes} (he : s.vec.pairs.find? (fun e => e.1 == c.f 32 1) = some e) (hw : w = s.storeAt c 0 (c.f 40 8) e.2)
    (hok : writeStatus w.2 = none) : effectFuncReadPair s c = (w.1, some resOK) := by
  subst hw
  simp only [effectFuncReadPair, he, hok]

/-- FUNC.READ_PAIR writes the image of a pair that the chip has built in. -/
theorem effectFuncReadPair_builtin {w : State × WriteRes} (hnone : s.vec.pairs.find? (fun e => e.1 == c.f 32 1) = none)
    (hw : w = s.storeAt c 0 (c.f 40 8) (imageOfPair (builtinPair (c.f 32 1)))) (hok : writeStatus w.2 = none) : effectFuncReadPair s c = (w.1, some resOK) := by
  subst hw
  simp only [effectFuncReadPair, hnone, hok]

end

/-- Settles O11: each command runs once nothing holds its pair back (`exec_unheld`), with the effect that its branch gives on the state in which it has begun. -/
theorem functionCommandsComplete : Obligations.FunctionCommandsComplete := by
  rintro s _ id c rfl
  refine ⟨?apply, ?deriv, ?load, ?clear, ?readLoaded, ?readBuiltin⟩
  case apply => exact fun f h hfree hnamed hf => h.commits (exec_unheld rfl (hnamed ▸ hfree)) ⟨_, effectFuncApply_evaluates (s := s.begun id) hf⟩
  case deriv => exact fun f h hfree hnamed hf => h.commits (exec_unheld rfl (hnamed ▸ hfree)) ⟨_, effectFuncDeriv_evaluates (s := s.begun id) hf⟩
  case load =>
    intro img s1 h hfree hunused hnamed himg hgood hok hs1
    exact h.ends (exec_unheld rfl (by rw [hnamed, hunused, hfree, Bool.or_false])) (effectFuncLoadPair_installs (s := s.begun id) himg hgood hok hs1)
  case clear =>
    intro h hfree hunused hnamed
    exact h.ends (e := effectFuncClearPair) (exec_unheld rfl (by rw [hnamed, hunused, hfree, Bool.or_false])) rfl
  case readLoaded => exact fun e w h hfree hnamed he hw hok => h.ends (exec_unheld rfl (hnamed ▸ hfree)) (effectFuncReadPair_loaded (s := s.begun id) he hw hok)
  case readBuiltin => exact fun w h hfree hnamed hnone hw hok => h.ends (exec_unheld rfl (hnamed ▸ hfree)) (effectFuncReadPair_builtin (s := s.begun id) hnone hw hok)

end Sys2Proof.Machine
end

section
/-! SUPPORT. Curd-form commands (R264, R272): the equation of each effect when its inputs can be read, and O8 assembled from them. -/
namespace Sys2Proof.Machine

section
variable {s : State} {c : Ctx} {d : CurdDesc}

/-- SPARSE.SKIM with a readable input ends with OK when the skimmer reports nothing (R264). -/
theorem effectSparseSkim_written {w : State × Option Result} (hgood : (s.readAll (skTensor c.pkt).reads).good = true)
    (hw : w = (s.noteReads 0 (skTensor c.pkt).reads).runSkim c (skJob c.pkt) (s.tensorF32 (skTensor c.pkt)) (s.skimOverlaps c.pkt)) (hok : w.2 = none) :
    effectSparseSkim s c = (w.1, some resOK) := by
  subst hw
  simp only [effectSparseSkim, readStatus_good hgood, hok, Option.getD_none]

/-- SPARSE.EXPAND of a readable curd tensor stores the rows of its whole form, PITCH apart (R272). -/
theorem effectSparseExpand_written {w : State × WriteRes} (hd : d = s.curdAt (c.f 32 8)) (hread : s.curdReadStatus (c.f 32 8) = none)
    (hw : w = (s.noteReads 0 ((c.f 32 8, 64) :: d.reads)).storeAll 0 (((expandRows (c.f 40 1) d (s.curdValues d)).zipIdx).map (fun e => (c.f 48 8 + e.2 * c.f 56 4, e.1))))
    (hok : writeStatus w.2 = none) : effectSparseExpand s c = (w.1, some resOK) := by
  have heffect : effectSparseExpand s c = (w.1, some ((writeStatus w.2).getD resOK)) := by
    subst hd hw
    simp only [effectSparseExpand, hread]
    rfl
  rw [heffect, hok, Option.getD_none]

/-- The words of a curd tensor that reads well can be read. -/
theorem State.readStatus_of_curdReadStatus {a : Nat} (h : s.curdReadStatus a = none) : readStatus (s.readAll ((a, 64) :: (s.curdAt a).reads)) = none := by
  cases hr : readStatus (s.readAll ((a, 64) :: (s.curdAt a).reads)) with
  | none => rfl
  | some r => simp [State.curdReadStatus, hr] at h

/-- SPARSE.CHECK of a readable curd tensor answers its non-zeros and whether every tile is two-way (R272). -/
theorem effectSparseCheck_answers {ts : List TileIndex} (hd : d = s.curdAt (c.f 32 8)) (hts : ts = s.curdIndex d) (hread : s.curdReadStatus (c.f 32 8) = none) :
    effectSparseCheck s c = (s.noteReads 0 ((c.f 32 8, 64) :: d.reads),
      some { resIndex (ts.foldl (fun n t => n + t.counts.foldl (· + ·) 0) 0) with detail := detailOf 0 (bnat (allTwoWay d.cap ts)) }) := by
  subst hd hts
  simp only [effectSparseCheck, State.readStatus_of_curdReadStatus hread, hread]

end

/-- Settles O8: each command runs in the frame of every command (`Ready.ends`), with the effect that its branch gives on the state in which it has begun. -/
theorem curdCommandsComplete : Obligations.CurdCommandsComplete := by
  rintro s _ id c rfl
  refine ⟨?skim, ?expand, ?check⟩
  case skim => exact fun w h hgood hw hok => h.ends rfl (effectSparseSkim_written (s := s.begun id) hgood hw hok)
  case expand => exact fun d w h hd hread hw hok => h.ends rfl (effectSparseExpand_written (s := s.begun id) hd hread hw hok)
  case check => exact fun d ts h hd hts hread => h.ends rfl (effectSparseCheck_answers (s := s.begun id) hd hts hread)

end Sys2Proof.Machine
end

section
/-! SUPPORT. The EMBED commands (R277, R281, R282, R288, R294, R302, R325): the equation of each effect when its operands can be read and its checks pass, and O12 assembled from them. -/
namespace Sys2Proof.Machine

/-- A read is good when no word of it is poisoned and none uncorrectable. -/
theorem ReadRes.good_iff {r : ReadRes} : r.good = true ↔ r.poisoned = [] ∧ r.uncorr = [] := by
  simp [ReadRes.good, List.isEmpty_iff]

section
variable {s : State} {c : Ctx} {t : ETable}

/-! ### EMBED.TABLE_SET and EMBED.LOOKUP (R277, R281, R282, R325) -/

/-- A readable descriptor installs its table with the chip's step number as its counter. -/
theorem effectEmbedTableSet_installs {s1 : State} (hgood : (s.read (c.f 32 8) 64).good = true) (hs1 : s1 = s.noteRead 2 (c.f 32 8) 64) :
    effectEmbedTableSet s c = ({ s1 with embed := { s1.embed with tables := s1.embed.tables ++ [etableOf (s.read (c.f 32 8) 64).data s1.plans.stepNo] } }, some resOK) := by
  subst hs1
  simp only [effectEmbedTableSet, readStatus_good hgood]

/-- A lookup in an installed table serves its local portions, asks for the others, is logged, and writes once every portion is there. -/
theorem effectEmbedLookup_begins {qs : List Portion} {served : List (Portion × List (Nat × Nat) × Nat)} {counts : List Nat} {s1 s2 : State}
    (ht : s.etable? (lkTable c.pkt) = some t)
    (hqs : qs = chargePortions t (lkPool c.pkt) (s.embed.policy.serveLogSize - s.logUsed) (((s.lkBagList c.pkt).zipIdx).flatMap (fun (x, i) => s.bagPortions t (lkPool c.pkt) (lkId c.pkt) i x)))
    (hserved : served = qs.map (s.serveLookup t (lkPool c.pkt)))
    (hcounts : counts = (s.lkBagList c.pkt).map (fun x => x.entries.length + x.fails.length))
    (hs1 : s1 = (s.noteReads 1 (s.lkListReads c.pkt ++ served.flatMap (·.2.1))).countNonfinite (served.foldl (fun n r => n + r.2.2) 0))
    (hs2 : s2 = (({ s1 with embed := { s1.embed with
        lookupLogs := s1.embed.lookupLogs ++ [⟨t.id, lkId c.pkt, lkPool c.pkt, lkBags c.pkt, counts, served.map (·.1), false⟩]
        serveLogs := s1.embed.serveLogs ++ s.ownServeLogs t (lkPool c.pkt) (served.map (·.1)) } } : State).trackRows t.id
          (((served.map (·.1)).filter (fun q => q.fromOwn && !q.fail.isSome)).flatMap (·.keys)) s.rank).askLookups t (lkPool c.pkt) (served.map (·.1))) :
    effectEmbedLookup s c = (({ s2 with graph := { s2.graph with gathers := s2.graph.gathers ++
      [⟨c.id, (s.lkBagList c.pkt).length, counts, !(s.readAll (s.lkListReads c.pkt)).poisoned.isEmpty, served.map (·.1)⟩] } } : State).finishLookup c.id, none) := by
  subst hs2 hs1 hcounts hserved hqs
  simp only [effectEmbedLookup, ht]

/-! ### EMBED.LOOKUP_BWD (R288) -/

/-- One portion of a lookup's log contributes the gradient row at its range, and fails its bag when that row cannot be read. -/
def State.bwdPortion (s : State) (c : Ctx) (t : ETable) (l : LookupLog) (origin : Nat) (k : Contributed) (x : Portion × Nat) : Contributed :=
  let row := (c.f 40 8 + 4 * t.width * (if l.pool = 0 then x.2 else x.1.item), 4 * t.width)
  match s.failOf [row] with
  | some f => { k with fails := k.fails ++ [(x.1.item, f)] }
  | none => k.portion t l.pool (nth l.counts x.1.item 1) origin x.1 (s.f32sAt row)

/-- The backward pass of a lookup whose log is kept sends the gradients of its portions and waits for their acknowledgements. -/
theorem effectEmbedLookupBwd_contributes {l : LookupLog} {r : Nat × Nat} {s1 : State} {k : Contributed}
    (hl : s.bwdLog c.pkt = some l) (ht : s.etable? (c.f 32 1) = some t) (hr : r = (c.f 40 8, 4 * t.width * bwdRows l)) (hs1 : s1 = (s.noteReads 1 [r]).issued c)
    (hk : k = ((if l.pool = 0 then l.portions else sortBy Portion.sentBefore l.portions).zipIdx).foldl (s.bwdPortion c t l (s1.originOf c)) ⟨s1, [], []⟩) :
    effectEmbedLookupBwd s c = (k.state.awaitScatter ⟨c.id, [], [], k.acks, !(s.read r.1 r.2).poisoned.isEmpty, k.fails.foldl lowerFail none⟩, none) := by
  subst hk hs1 hr
  have htable : s.etable? (field c.pkt 32 1) = some t := ht
  simp only [effectEmbedLookupBwd, hl, htable]
  rfl

/-! ### EMBED.APPLY (R294) -/

section
variable {h : Hyper} {s1 : State} (ht : s.etable? (c.f 32 1) = some t) (hs1 : s1 = s.noteHyper c t.layerTag) (hchecks : s1.updateChecks c t.layerTag (some t.rule) t.counter = .inr h)
include ht hs1 hchecks

/-- A frozen record only frees the accumulators of the touched rows. -/
theorem effectEmbedApply_frozen (hfrozen : h.frozen = true) : effectEmbedApply s c = (s1.freeAccums t.id, some resOK) := by
  subst hs1
  simp only [effectEmbedApply, ht, hchecks, hfrozen, if_true]

/-- Otherwise the touched rows, when all of their words can be read, are updated and written. -/
theorem effectEmbedApply_updates {us : List RowUpdate × Nat} {rs : List (Nat × Nat)} {r : State × Option Result} (hlive : h.frozen = false) (hus : us = (s1.touched t).run 0)
    (hrs : rs = us.1.flatMap (fun u => u.reads t)) (hgood : (s1.readAll rs).good = true)
    (hr : r = (((s1.noteReads 2 rs).countNonfinite us.2).freeAccums t.id).applyRows c t h us.1 true) (hok : r.2 = none) : effectEmbedApply s c = (r.1, some resOK) := by
  subst hr hrs hus hs1
  obtain ⟨hclean, hcorrected⟩ := ReadRes.good_iff.mp hgood
  simp only [effectEmbedApply, ht, hchecks, hlive, hclean, hcorrected, hok, List.isEmpty_nil, Bool.not_true, Bool.false_eq_true, if_false, Option.getD_none]

end

end

/-- Settles O12: each command runs in the frame of every command (`Ready.ends`, `Ready.runs`), with the effect that its branch gives on the state in which it has begun. How a lookup is
charged to the serve-log area, and that a policy waits for a boundary with no step running too, are the model's own reading (log entries 61 and 64). -/
theorem embeddingCommandsComplete : Obligations.EmbeddingCommandsComplete := by
  rintro s _ id c rfl
  refine ⟨?tableSet, ?tableClear, ?policy, ?lookup, ?lookupBwd, ?apply⟩
  case tableSet => exact fun s1 h hgood hs1 => h.ends rfl (effectEmbedTableSet_installs (s := s.begun id) hgood hs1)
  case tableClear =>
    rintro _ _ h rfl rfl
    exact h.ends rfl rfl
  case policy => exact fun h => h.ends rfl rfl
  case lookup =>
    rintro t qs served _ counts s1 s2 h ht hqs hserved rfl hcounts hs1 hs2
    exact h.runs rfl (effectEmbedLookup_begins (s := s.begun id) ht hqs hserved hcounts hs1 hs2)
  case lookupBwd => exact fun l t r s1 k h hl ht hr hs1 hk => h.runs rfl (effectEmbedLookupBwd_contributes (s := s.begun id) hl ht hr hs1 hk)
  case apply =>
    intro t hyper s1 h ht hs1 hchecks
    refine ⟨fun hfrozen => ?frozen, fun us rs r hlive hus hrs hgood hr hok => ?updates⟩
    case frozen => exact h.ends rfl (effectEmbedApply_frozen (s := s.begun id) ht hs1 hchecks hfrozen)
    case updates => exact h.ends rfl (effectEmbedApply_updates (s := s.begun id) ht hs1 hchecks hlive hus hrs hgood hr hok)

end Sys2Proof.Machine
end

section
/-! SUPPORT. The UPDATE commands (R310, R320, R321, R325): the equation of each effect when its operands can be read and its checks pass, and O13 assembled from them. -/
namespace Sys2Proof.Machine

section
variable {s : State} {c : Ctx} {x : DShard} {h : Hyper} {s1 : State}

/-- A readable descriptor installs its shard, in place of the one of its tag, with the chip's step number as its counter (R320, R325). -/
theorem effectUpdateShardSet_installs {t : DShard} (hgood : (s.read (c.f 32 8) 64).good = true) (hs1 : s1 = s.noteRead 2 (c.f 32 8) 64)
    (ht : t = dshardOf (s.read (c.f 32 8) 64).data s1.plans.stepNo) :
    effectUpdateShardSet s c = ({ s1 with update := { s1.update with shards := s1.update.shards.filter (fun y => y.tag != t.tag) ++ [t] } }, some resOK) := by
  subst ht hs1
  simp only [effectUpdateShardSet, readStatus_good hgood]

section
variable (hx : s.dshard? (c.f 32 2) = some x) (hs1 : s1 = s.noteHyper c x.tag) (hchecks : s1.updateChecks c x.tag none x.counter = .inr h)
include hx hs1 hchecks

/-- A frozen record leaves the elements of its shard as they are (R321). -/
theorem effectUpdateRun_frozen (hfrozen : h.frozen = true) : effectUpdateRun s c = (s1, some resOK) := by
  subst hs1
  simp only [effectUpdateRun, hx, hchecks, hfrozen, if_true]

/-- Otherwise every sector of a shard whose words can all be read is updated and written, and the count of elements updated is answered (R321). -/
theorem effectUpdateRun_updates {ks : List Nat} {r : State × Nat} (hlive : h.frozen = false) (hgood : (s1.readAll (s1.denseReads x 0 x.elements)).good = true)
    (hinputs : (s1.readAll (s1.denseReads x 0 x.elements).tail).poisoned = []) (hks : ks = List.range (s1.denseSectors x))
    (hr : r = ((s1.noteReads 2 (s1.denseReads x 0 x.elements)).takesOff ⟨c.id, x.tag, s1.oldSectors x ks⟩).denseWrite c h x ks true) : effectUpdateRun s c = (r.1, some (resIndex r.2)) := by
  subst hr hks hs1
  obtain ⟨hclean, hcorrected⟩ := ReadRes.good_iff.mp hgood
  simp only [effectUpdateRun, hx, hchecks, hlive, hinputs, hclean, hcorrected, List.isEmpty_nil, Bool.not_true, Bool.false_eq_true, if_false]

end

end

/-- Settles O13: each command runs in the frame of every command (`Ready.ends`), with the effect that its branch gives on the state in which it has begun. That an update is
under way from its row until its command completes (`State.takesOff`) is the model's own reading (log entry 113). -/
theorem updateCommandsComplete : Obligations.UpdateCommandsComplete := by
  rintro s _ id c rfl
  refine ⟨?shardSet, ?shardClear, ?hyperTable, ?stepSet, ?run⟩
  case shardSet => exact fun s1 t h hgood hs1 ht => h.ends rfl (effectUpdateShardSet_installs (s := s.begun id) hgood hs1 ht)
  case shardClear => exact fun h => h.ends rfl rfl
  case hyperTable => exact fun h => h.ends rfl rfl
  case stepSet =>
    rintro _ h rfl
    exact h.ends rfl rfl
  case run =>
    intro x hyper b1 h hx hb1 hchecks
    refine ⟨fun hfrozen => ?frozen, fun ks r hlive hgood hinputs hks hr => ?updates⟩
    case frozen => exact h.ends rfl (effectUpdateRun_frozen (s := s.begun id) hx hb1 hchecks hfrozen)
    case updates => exact h.ends rfl (effectUpdateRun_updates (s := s.begun id) hx hb1 hchecks hlive hgood hinputs hks hr)

end Sys2Proof.Machine
end

section
/-! SUPPORT. Every command and the queue: the shape of each row's meaning, and O42 and O43 assembled from it. -/
namespace Sys2Proof.Machine

/-- A reset from outside, or the level of the service button: the rows that act while reset is asserted (R567, R578). -/
def actsInReset (c : Instr) : Prop := c = .powerOnReset ∨ c = .pcieReset ∨ c = .buttonPress ∨ ∃ ms, c = .buttonRelease ms

/-- Every row settles the state that its effect leaves, heeding an asserted reset unless it acts in reset. -/
theorem exec_settles (c : Instr) (s : State) : (∃ u, exec c s = .next (s.settle u)) ∨ (actsInReset c ∧ ∃ u, exec c s = .next (s.settled u)) := by
  cases c with
  | powerOnReset => exact .inr ⟨.inl rfl, _, rfl⟩
  | pcieReset => exact .inr ⟨.inr (.inl rfl), _, rfl⟩
  | buttonPress => exact .inr ⟨.inr (.inr (.inl rfl)), _, rfl⟩
  | buttonRelease ms => exact .inr ⟨.inr (.inr (.inr ⟨ms, rfl⟩)), _, rfl⟩
  | _ => exact .inl ⟨_, rfl⟩

/-- What a settled state is: the state before, or one in which all that follows a command has been done. -/
theorem State.settle_cases (s u : State) : s.settle u = s ∨ s.settle u = s.settled u := by
  unfold State.settle
  split
  · exact .inl rfl
  · exact .inr rfl

/-- What a command leaves is the state before, or the settled state of its effect. -/
theorem exec_next_cases {c : Instr} {s t : State} (h : exec c s = .next t) : t = s ∨ ∃ u, t = s.settled u := by
  rcases exec_settles c s with ⟨u, hu⟩ | ⟨-, u, hu⟩
  · obtain rfl : s.settle u = t := by rwa [hu, Host.Outcome.next.injEq] at h
    exact (s.settle_cases u).imp id fun hs => ⟨u, hs⟩
  · rw [hu, Host.Outcome.next.injEq] at h
    exact .inr ⟨u, h.symm⟩

/-- What a step leaves is the state with the queue's rest, or a settled one. -/
theorem step_next_cases {s t : State} (h : step s = .next t) : (∃ rest, t = { s with pending := rest }) ∨ ∃ s0 u : State, t = s0.settled u := by
  unfold step at h
  split at h
  · cases h
    exact .inl ⟨s.pending, rfl⟩
  · next c rest _ =>
    exact (exec_next_cases h).imp (fun ht => ⟨rest, ht⟩) fun ⟨u, hu⟩ => ⟨_, u, hu⟩

/-- Settles O42: `step` looks at the front of the queue alone. -/
theorem stepRunsTheFront : Obligations.StepRunsTheFront := by
  refine ⟨fun c rest s h => ?_, fun s h => ?_⟩
  · simp only [step, h]
  · simp only [step, h]

/-- Settles O43: every row settles its effect (`exec_settles`), and both ways to settle keep the queue. -/
theorem commandsAnswerAndKeepTheQueue : Obligations.CommandsAnswerAndKeepTheQueue := by
  intro c s
  rcases exec_settles c s with ⟨u, hu⟩ | ⟨-, u, hu⟩
  · exact ⟨_, hu, State.settle_pending s u⟩
  · exact ⟨_, hu, State.settled_pending s u⟩

end Sys2Proof.Machine
end

section
/-! SUPPORT. What follows every command (R160, R357, R388, R389, R474, R500, R564, R568): what each of its operations keeps, and O44 and O46 to O50 assembled from that. -/
namespace Sys2Proof.Machine

/-! ### The boot registers and the form of memory -/

/-- An operation keeps the boot registers and the canonical form of memory. -/
structure KeepsForm (s t : State) : Prop where
  boot : t.boot = s.boot
  wf : s.mem.wf = true → t.mem.wf = true

theorem KeepsForm.of_eq {s t : State} (hboot : t.boot = s.boot) (hmem : t.mem = s.mem) : KeepsForm s t := ⟨hboot, by rw [hmem]; exact id⟩

theorem KeepsForm.refl (s : State) : KeepsForm s s := .of_eq rfl rfl

/-- The later operation after the earlier one. -/
theorem KeepsForm.after {s t u : State} (h2 : KeepsForm t u) (h1 : KeepsForm s t) : KeepsForm s u := ⟨h2.boot.trans h1.boot, h2.wf ∘ h1.wf⟩

/-- A run of such operations is one. -/
theorem KeepsForm.foldl {α : Type} {f : State → α → State} (hf : ∀ s x, KeepsForm s (f s x)) (xs : List α) (s : State) : KeepsForm s (xs.foldl f s) := by
  induction xs generalizing s with
  | nil => exact .refl s
  | cons x xs ih => exact (ih _).after (hf s x)

/-- Operations on memory that each keep its canonical form keep it in a run. -/
theorem Memory.foldl_wf {α : Type} {f : Memory → α → Memory} (hf : ∀ m x, m.wf = true → (f m x).wf = true) (xs : List α) {m : Memory} (h : m.wf = true) : (xs.foldl f m).wf = true := by
  induction xs generalizing m with
  | nil => exact h
  | cons x xs ih => exact ih (hf m x h)

/-! ### Operations that leave no flagged bank behind -/

/-- An operation keeps the boot registers and the form of memory and, unless the chip is halted after it, all on which the quarantine of banks depends (R474). -/
structure KeepsBanks (s t : State) : Prop extends KeepsForm s t where
  banks : t.isHalted = true ∨ (t.stepRunning = s.stepRunning ∧ t.isHalted = s.isHalted ∧ t.matrix.groups = s.matrix.groups ∧ t.mem.flagged = s.mem.flagged)

/-- An operation that leaves boot, memory and groups as they are, neither begins nor ends a step, and does not halt the chip. -/
theorem KeepsBanks.of_eq {s t : State} (hboot : t.boot = s.boot) (hmem : t.mem = s.mem) (hstep : t.stepRunning = s.stepRunning) (hhalt : t.isHalted = s.isHalted)
    (hmatrix : t.matrix = s.matrix) : KeepsBanks s t :=
  ⟨.of_eq hboot hmem, .inr ⟨hstep, hhalt, by rw [hmatrix], by rw [hmem]⟩⟩

/-- An operation keeps the form, and all on which the quarantine depends. -/
structure KeepsChip (s t : State) : Prop extends KeepsForm s t where
  step : t.stepRunning = s.stepRunning
  halt : t.isHalted = s.isHalted
  groups : t.matrix.groups = s.matrix.groups
  flagged : t.mem.flagged = s.mem.flagged

theorem KeepsChip.of_eq {s t : State} (hboot : t.boot = s.boot) (hmem : t.mem = s.mem) (hstep : t.stepRunning = s.stepRunning) (hhalt : t.isHalted = s.isHalted)
    (hmatrix : t.matrix = s.matrix) : KeepsChip s t :=
  ⟨.of_eq hboot hmem, hstep, hhalt, by rw [hmatrix], by rw [hmem]⟩

theorem KeepsChip.refl (s : State) : KeepsChip s s := .of_eq rfl rfl rfl rfl rfl

theorem KeepsChip.after {s t u : State} (h2 : KeepsChip t u) (h1 : KeepsChip s t) : KeepsChip s u :=
  ⟨h2.toKeepsForm.after h1.toKeepsForm, h2.step.trans h1.step, h2.halt.trans h1.halt, h2.groups.trans h1.groups, h2.flagged.trans h1.flagged⟩

theorem KeepsChip.keepsBanks {s t : State} (h : KeepsChip s t) : KeepsBanks s t := ⟨h.toKeepsForm, .inr ⟨h.step, h.halt, h.groups, h.flagged⟩⟩

theorem KeepsBanks.refl (s : State) : KeepsBanks s s := .of_eq rfl rfl rfl rfl rfl

/-- The later operation after the earlier one. -/
theorem KeepsBanks.after {s t u : State} (h2 : KeepsBanks t u) (h1 : KeepsBanks s t) : KeepsBanks s u := by
  refine ⟨h2.toKeepsForm.after h1.toKeepsForm, ?_⟩
  rcases h2.banks with h | ⟨hstep, hhalt, hgroups, hflagged⟩
  · exact .inl h
  · rw [hstep, hhalt, hgroups, hflagged]
    exact h1.banks

/-- A run of such operations is one. -/
theorem KeepsBanks.foldl {α : Type} {f : State → α → State} (hf : ∀ s x, KeepsBanks s (f s x)) (xs : List α) (s : State) : KeepsBanks s (xs.foldl f s) := by
  induction xs generalizing s with
  | nil => exact .refl s
  | cons x xs ih => exact (ih _).after (hf s x)

/-- After such an operation no flagged bank waits where none waited before it. -/
theorem KeepsBanks.flagInv {s t : State} (h : KeepsBanks s t) (hs : s.FlagInv) : t.FlagInv := by
  intro hstep hhalt hgroups
  rcases h.banks with hh | ⟨e1, e2, e3, e4⟩
  · rw [hh] at hhalt
    cases hhalt
  · rw [e4]
    exact hs (e1 ▸ hstep) (e2 ▸ hhalt) (e3 ▸ hgroups)

/-! ### Telemetry and the wave -/

/-- A telemetry record changes words of memory, the ring's registers and the free counter alone. -/
theorem State.telem_keepsChip (s : State) (ty island action cause : Nat) (body : List Byte) : KeepsChip s (s.telem ty island action cause body) := by
  have hwf := fun h => State.telem_wf (s := s) h ty island action cause body
  revert hwf
  unfold State.telem
  split
  · exact fun _ => .of_eq rfl rfl rfl rfl rfl
  · next base n _ mask _ =>
    dsimp only
    generalize (if s.health.head.toNat % (2 ^ n / 32) + (1 + body.length / 32) ≤ 2 ^ n / 32 then 0 else 2 ^ n / 32 - s.health.head.toNat % (2 ^ n / 32)) = pad
    split
    · exact fun _ => .of_eq rfl rfl rfl rfl rfl
    · split
      · exact fun _ => .of_eq rfl rfl rfl rfl rfl
      · refine fun hwf => ⟨⟨rfl, hwf⟩, rfl, rfl, rfl, ?_⟩
        dsimp only [Memory.putWords]
        split <;> rfl

theorem State.decision_keepsChip (s : State) (policy obj : Nat) (vals : List Nat) (action cause : Nat) : KeepsChip s (s.decision policy obj vals action cause) :=
  s.telem_keepsChip _ _ _ _ _

/-- Whatever updates a halt leaves mixed, memory keeps its form (R327). -/
theorem State.mixFlights_keepsForm (s : State) : KeepsForm s s.mixFlights := by
  unfold State.mixFlights
  dsimp only
  split
  · exact .of_eq rfl rfl
  · exact ⟨rfl, fun h => Memory.foldl_wf (fun m w hm => Memory.write_wf hm _ _) _ h⟩

/-- Open contents are written as any others are. -/
theorem State.openRanges_keepsForm (s : State) (rs : List (Nat × Nat)) : KeepsForm s (s.openRanges rs) := by
  refine KeepsForm.foldl (fun s r => ?_) rs s
  exact ⟨rfl, fun h => Memory.write_wf (m := s.mem) h _ _⟩

theorem State.logSwaps_keepsBanks (s : State) (xs : List Shard) : KeepsBanks s (s.logSwaps xs) :=
  .foldl (fun s _ => (s.decision_keepsChip _ _ _ _ _).keepsBanks) _ s

/-- The halt of a chip sets the halt registers that it is given. -/
theorem State.haltChip_keepsBanks (s : State) {h : HaltPace} (hh : h.halted = true) : KeepsBanks s (s.haltChip h) := by
  have hform : KeepsForm s s.mixFlights.openColls := (State.openRanges_keepsForm _ _).after s.mixFlights_keepsForm
  exact (State.logSwaps_keepsBanks _ _).after ⟨⟨hform.boot, hform.wf⟩, .inl hh⟩

theorem State.send_keepsBanks (s : State) (m : Sent) : KeepsBanks s (s.send m) := .of_eq rfl rfl rfl rfl rfl

theorem State.console_keepsBanks (s : State) (w : UartWhat) : KeepsBanks s (s.console w) := .of_eq rfl rfl rfl rfl rfl

/-- A chip that raises the wave is halted after it. -/
theorem State.raiseWave_keepsBanks (s : State) (cause status : Byte) : KeepsBanks s (s.raiseWave cause status) := by
  unfold State.raiseWave
  split
  · exact .refl s
  · exact (KeepsBanks.foldl (fun s p => s.send_keepsBanks _) _ _).after ((State.console_keepsBanks _ _).after ((State.telem_keepsChip _ _ _ _ _ _).keepsBanks.after (s.haltChip_keepsBanks rfl)))

theorem State.failStep_keepsBanks (s : State) (r : Result) (entry : Option Nat) (cause : Byte) : KeepsBanks s (s.failStep r entry cause) := by
  unfold State.failStep
  split
  · exact .refl s
  · exact (State.raiseWave_keepsBanks _ _ _).after (.of_eq rfl rfl rfl rfl rfl)

/-! ### The barrier of the running step (R380) -/

theorem State.passBarrier_keepsBanks (s : State) (b : Barrier) : KeepsBanks s (s.passBarrier b) := by
  unfold State.passBarrier
  refine (KeepsBanks.foldl (fun s r => s.send_keepsBanks _) _ _).after (.of_eq rfl rfl rfl ?_ rfl)
  simp only [State.isHalted]
  split <;> rfl

theorem State.takeFlag_keepsBanks (s : State) (f : Flag) : KeepsBanks s (s.takeFlag f) := by
  unfold State.takeFlag
  split
  · exact .refl s
  · split
    · exact s.failStep_keepsBanks _ _ _
    · split
      · split
        · exact .of_eq rfl rfl rfl rfl rfl
        · exact .refl s
      · split
        · exact s.passBarrier_keepsBanks _
        · exact .refl s

theorem State.reachBoundary_keepsBanks (s : State) : KeepsBanks s s.reachBoundary := by
  unfold State.reachBoundary
  split
  · split
    · exact .of_eq rfl rfl rfl rfl rfl
    · exact .refl s
  · exact .refl s

theorem State.takeEarly_keepsBanks (s : State) : KeepsBanks s s.takeEarly := by
  unfold State.takeEarly
  split
  · split
    · exact .refl s
    · exact (KeepsBanks.foldl State.takeFlag_keepsBanks _ _).after (.of_eq rfl rfl rfl rfl rfl)
  · exact .refl s

theorem State.climb_keepsBanks (s : State) : KeepsBanks s s.climb := by
  unfold State.climb
  split
  · dsimp only
    split
    · split
      · exact (State.passBarrier_keepsBanks _ _).after (.of_eq rfl rfl rfl rfl rfl)
      · exact .of_eq rfl rfl rfl rfl rfl
    · exact .of_eq rfl rfl rfl rfl rfl
  · exact .refl s

/-- An agreement writes condition bits into the step, which runs on (R61). -/
theorem State.finishAgree_keepsBanks (s : State) : KeepsBanks s s.finishAgree := by
  unfold State.finishAgree
  split
  · next st b hst _ =>
    have hrun : s.stepRunning = true := by simp [State.stepRunning, hst]
    split
    · dsimp only
      split
      · exact .of_eq rfl rfl (by rw [hrun]; rfl) rfl rfl
      · exact .of_eq rfl rfl (by rw [hrun]; rfl) rfl rfl
    · exact .refl s
  · exact .refl s

theorem State.serveBarrier_keepsBanks (s : State) : KeepsBanks s s.serveBarrier :=
  (State.finishAgree_keepsBanks _).after ((State.climb_keepsBanks _).after ((State.takeEarly_keepsBanks _).after s.reachBoundary_keepsBanks))

/-! ### Ports and packets -/

theorem State.sendSlots_keepsBanks (s : State) (p : Nat) (ls : List Nat) (f : CtlSlot → CtlSlot) : KeepsBanks s (s.sendSlots p ls f) := by
  unfold State.sendSlots
  split
  · exact .refl s
  · exact .of_eq rfl rfl rfl rfl rfl

theorem State.sendControl_keepsBanks (s : State) (p : Nat) (f : CtlSlot → CtlSlot) : KeepsBanks s (s.sendControl p f) := by
  unfold State.sendControl
  split
  · exact .refl s
  · exact s.sendSlots_keepsBanks _ _ _

theorem State.serveSlots_keepsBanks (s : State) : KeepsBanks s s.serveSlots := .foldl (fun s p => s.sendControl_keepsBanks p id) _ s

theorem State.updPort_keepsBanks (s : State) (p : Nat) (f : Port → Port) : KeepsBanks s (s.updPort p f) := .of_eq rfl rfl rfl rfl rfl

theorem State.sendCells_keepsBanks (s : State) (p : Nat) (cells : List SentCell) : KeepsBanks s (s.sendCells p cells) := by
  unfold State.sendCells
  split
  · exact .refl s
  · exact .of_eq rfl rfl rfl rfl rfl

theorem State.sendWaiting_keepsBanks (s : State) (p : Nat) (w : Waiting) : KeepsBanks s (s.sendWaiting p w) := by
  unfold State.sendWaiting
  split
  · exact .refl s
  · have hsent := fun f cells => (State.sendCells_keepsBanks _ p cells).after (s.updPort_keepsBanks p f)
    dsimp only
    split
    · exact (State.updPort_keepsBanks _ _ _).after (hsent _ _)
    · exact hsent _ _

theorem State.drainPort_keepsBanks (p : Nat) : ∀ (n : Nat) (s : State), KeepsBanks s (State.drainPort p n s)
  | 0, s => .refl s
  | n + 1, s => by
    unfold State.drainPort
    split
    · exact .refl s
    · split
      · exact (State.drainPort_keepsBanks p n _).after (s.sendWaiting_keepsBanks p _)
      · split
        · exact .refl s
        · dsimp only
          split
          · exact (State.drainPort_keepsBanks p n _).after (s.updPort_keepsBanks p _)
          · split
            · exact (State.drainPort_keepsBanks p n _).after ((State.updPort_keepsBanks _ p _).after (s.sendWaiting_keepsBanks p _))
            · exact (State.drainPort_keepsBanks p n _).after (s.updPort_keepsBanks p _)

theorem State.drain_keepsBanks (s : State) (p : Nat) : KeepsBanks s (s.drain p) := by
  unfold State.drain
  split
  · exact .refl s
  · exact State.drainPort_keepsBanks _ _ _

theorem State.enqueue_keepsBanks (s : State) (q : Nat) (w : Waiting) : KeepsBanks s (s.enqueue q w) := (State.drain_keepsBanks _ _).after (s.updPort_keepsBanks q _)

/-- A packet counted as discarded, for want of a path or of hops. -/
theorem State.discardPacket_keepsBanks (s : State) (noPath : Bool) : KeepsBanks s (s.discardPacket noPath) := by
  unfold State.discardPacket
  generalize hs1 : (if noPath then { s with link := { s.link with noPath := satAdd16 s.link.noPath 1 } } else { s with link := { s.link with hopLimitDrops := satAdd16 s.link.hopLimitDrops 1 } } : State) = s1
  have hcount : KeepsBanks s s1 := by
    subst hs1
    split <;> exact .of_eq rfl rfl rfl rfl rfl
  dsimp only
  split
  · exact (State.raiseWave_keepsBanks _ _ _).after hcount
  · exact hcount

theorem State.launch_keepsBanks (s : State) (x : Post) (p : Packet) : KeepsBanks s (s.launch x p) := by
  unfold State.launch
  dsimp only
  split
  · exact s.enqueue_keepsBanks _ _
  · split
    · exact .refl s
    · split
      · exact s.discardPacket_keepsBanks true
      · exact s.enqueue_keepsBanks _ _

theorem State.post_keepsBanks (s : State) (x : Post) : KeepsBanks s (s.post x) :=
  (KeepsBanks.foldl (fun s p => s.launch_keepsBanks x p) _ _).after (.of_eq rfl rfl rfl rfl rfl)

theorem State.postAll_keepsBanks : ∀ (n : Nat) (s : State), KeepsBanks s (State.postAll n s)
  | 0, s => .refl s
  | n + 1, s => by
    unfold State.postAll
    split
    · exact .refl s
    · exact (State.postAll_keepsBanks n _).after ((KeepsBanks.foldl State.post_keepsBanks _ _).after (.of_eq rfl rfl rfl rfl rfl))

theorem State.servePosts_keepsBanks (s : State) : KeepsBanks s s.servePosts := State.postAll_keepsBanks _ s

theorem State.proveSelf_keepsBanks (s : State) (p : Nat) : KeepsBanks s (s.proveSelf p) := by
  unfold State.proveSelf
  split
  · exact .refl s
  · exact .of_eq rfl rfl rfl rfl rfl

theorem State.beginAuth_keepsBanks (s : State) (p : Nat) : KeepsBanks s (s.beginAuth p) := by
  unfold State.beginAuth
  split
  · exact .refl s
  · split
    · exact .refl s
    · dsimp only
      split
      · exact .of_eq rfl rfl rfl rfl rfl
      · exact (State.proveSelf_keepsBanks _ _).after (.of_eq rfl rfl rfl rfl rfl)

theorem State.serveAuth_keepsBanks (s : State) : KeepsBanks s s.serveAuth := .foldl State.beginAuth_keepsBanks _ s

/-! ### Register mode, the park, the summary and MGT_ALERT_N -/

theorem State.leaveRegister_keepsBanks (s : State) : KeepsBanks s s.leaveRegister := by
  unfold State.leaveRegister
  split
  · exact .refl s
  · exact .of_eq rfl rfl rfl rfl rfl

theorem State.servePark_keepsBanks (s : State) : KeepsBanks s s.servePark := by
  unfold State.servePark
  split
  · exact .of_eq rfl rfl rfl rfl rfl
  · exact .refl s

theorem State.pullAlert_keepsBanks (s : State) : KeepsBanks s s.pullAlert := by
  unfold State.pullAlert
  split
  · exact .of_eq rfl rfl rfl rfl rfl
  · exact .refl s

theorem State.signalRisen_keepsBanks (s u : State) : KeepsBanks u (State.signalRisen s u) := .of_eq rfl rfl rfl rfl rfl

/-- All that follows the quarantine of banks. -/
theorem State.settled_keepsBanks (s u : State) : KeepsBanks u.serveQuarantine (s.settled u) := by
  have hbarrier : KeepsBanks u.serveQuarantine u.serveQuarantine.leaveRegister.serveBarrier := (State.serveBarrier_keepsBanks _).after (State.leaveRegister_keepsBanks _)
  have hposts := ((State.servePosts_keepsBanks _).after (State.serveAuth_keepsBanks _)).after hbarrier
  have hslots := ((State.serveSlots_keepsBanks _).after (State.servePark_keepsBanks _)).after hposts
  have halert := ((State.pullAlert_keepsBanks _).after (State.signalRisen_keepsBanks s _)).after hslots
  exact ⟨⟨halert.boot, halert.wf⟩, halert.banks⟩

/-! ### The quarantine of flagged banks (R474) -/

/-- The state with some flagged banks no longer flagged. -/
def State.unflagged (s : State) (bs : List (Nat × Nat)) : State := { s with mem := { s.mem with flagged := s.mem.flagged.filter (fun b => !bs.contains b) } }

@[simp] theorem Memory.repair_flagged (m : Memory) (wa : Nat) : (m.repair wa).flagged = m.flagged := by
  unfold Memory.repair
  dsimp only
  split <;> rfl

@[simp] theorem Memory.copyWord_flagged (m : Memory) (wa : Nat) : (m.copyWord wa).flagged = m.flagged := by
  unfold Memory.copyWord
  split
  · rfl
  · exact m.repair_flagged wa

/-- The copy of a bank flags none. -/
theorem Memory.foldl_copyWord_flagged (ws : List Nat) (m : Memory) : (ws.foldl Memory.copyWord m).flagged = m.flagged := by
  induction ws generalizing m with
  | nil => rfl
  | cons w ws ih => exact (ih _).trans (m.copyWord_flagged w)

theorem State.retirePending_keepsChip (s : State) (phys test cause : Nat) : KeepsChip s (s.retirePending phys test cause) :=
  (State.decision_keepsChip _ _ _ _ _ _).after (.of_eq rfl rfl rfl rfl rfl)

/-- The quarantine of a bank takes its flag, and is otherwise as a record and a copy are. -/
theorem State.quarantineBank_keepsChip (s : State) (b : Nat × Nat) : KeepsChip (s.unflagged [b]) (s.quarantineBank b) := by
  have hs : s.unflagged [b] = { s with mem := { s.mem with flagged := s.mem.flagged.filter (· != b) } } := by
    simp only [State.unflagged, List.contains_cons, List.contains_nil, Bool.or_false, bne]
  rw [hs]
  unfold State.quarantineBank
  dsimp only
  split
  · refine (State.decision_keepsChip _ _ _ _ _ _).after ⟨⟨rfl, fun h => ?_⟩, rfl, rfl, rfl, Memory.foldl_copyWord_flagged _ _⟩
    exact Memory.foldl_wf (fun _ _ hm => Memory.copyWord_wf hm _) _ h
  · split
    · exact State.decision_keepsChip _ _ _ _ _ _
    · split
      · exact .refl _
      · exact State.retirePending_keepsChip _ _ _ _

/-- Banks are quarantined one after the other. -/
theorem State.foldl_quarantineBank_keepsChip (bs : List (Nat × Nat)) (s : State) : KeepsChip (s.unflagged bs) (bs.foldl State.quarantineBank s) := by
  induction bs generalizing s with
  | nil =>
    rw [show s.unflagged [] = s by simp [State.unflagged]]
    exact .refl s
  | cons b bs ih =>
    have h := s.quarantineBank_keepsChip b
    refine (ih _).after ⟨⟨h.boot, h.wf⟩, h.step, h.halt, h.groups, ?_⟩
    show (s.quarantineBank b).mem.flagged.filter _ = _
    rw [h.flagged]
    simp [State.unflagged, List.filter_filter, Bool.and_comm]

/-- Banks are quarantined when no step runs, the chip is not halted and no group is open, and then none is left flagged. -/
theorem State.serveQuarantine_flagInv (s : State) : s.serveQuarantine.FlagInv := by
  unfold State.serveQuarantine
  split
  · next hbusy =>
    intro hstep hhalt hgroups
    simp [hstep, hhalt, hgroups] at hbusy
  · intro _ _ _
    rw [(State.foldl_quarantineBank_keepsChip _ s).flagged]
    simp [State.unflagged]

theorem State.serveQuarantine_keepsForm (s : State) : KeepsForm s s.serveQuarantine := by
  unfold State.serveQuarantine
  split
  · exact .refl s
  · have h := State.foldl_quarantineBank_keepsChip s.mem.flagged s
    exact ⟨h.boot, h.wf⟩

/-! ### What a settled state keeps and holds -/

/-- What follows a command keeps the boot registers and the form of memory. -/
theorem State.settled_keepsForm (s u : State) : KeepsForm u (s.settled u) := (s.settled_keepsBanks u).toKeepsForm.after u.serveQuarantine_keepsForm

theorem State.settled_flagInv (s u : State) : (s.settled u).FlagInv := (s.settled_keepsBanks u).flagInv u.serveQuarantine_flagInv

/-- MGT_ALERT_N is pulled last, when everything else is in place. -/
theorem State.settled_alertInv (s u : State) : (s.settled u).AlertInv := by
  intro h
  have hpull : ∀ v : State, v.attentionUnmasked = true → v.pullAlert.mgt.alertLow = true := fun v hv => by simp [State.pullAlert, hv]
  exact hpull _ ((State.pullAlert_attention _).symm.trans h)

theorem State.servePark_parkInv (s : State) : s.servePark.ParkInv := by
  unfold State.servePark
  split
  · exact fun _ _ => rfl
  · next hnot =>
    intro hpark hidle
    by_contra hparked
    apply hnot
    rcases hidle with h | h <;> simp [hpark, Bool.eq_false_iff.mpr hparked, h]

/-- An operation that keeps the host's registers, the halt and whether a step runs keeps a park in force. -/
theorem State.ParkInv.of_eq {s t : State} (hs : s.ParkInv) (hhost : t.host.park = s.host.park ∧ t.host.parked = s.host.parked) (hstep : t.stepRunning = s.stepRunning) (hhalt : t.isHalted = s.isHalted) :
    t.ParkInv := by
  intro hpark hidle
  rw [hhost.2]
  exact hs (hhost.1 ▸ hpark) (hidle.imp (hstep ▸ ·) (hhalt ▸ ·))

/-- Control slots leave the host's registers, the step and the halt as they are. -/
theorem State.sendControl_frame (s : State) (p : Nat) (f : CtlSlot → CtlSlot) : (s.sendControl p f).host = s.host ∧ (s.sendControl p f).plans = s.plans ∧ (s.sendControl p f).halt = s.halt := by
  unfold State.sendControl
  split <;> simp

theorem State.serveSlots_frame (s : State) : s.serveSlots.host = s.host ∧ s.serveSlots.plans = s.plans ∧ s.serveSlots.halt = s.halt := by
  unfold State.serveSlots
  generalize (s.link.ports.filter Port.slotDue).map (·.num) = ps
  induction ps generalizing s with
  | nil => exact ⟨rfl, rfl, rfl⟩
  | cons p ps ih =>
    obtain ⟨hhost, hplans, hhalt⟩ := s.sendControl_frame p id
    obtain ⟨hhost2, hplans2, hhalt2⟩ := ih (s.sendControl p id)
    exact ⟨hhost2.trans hhost, hplans2.trans hplans, hhalt2.trans hhalt⟩

theorem State.ParkInv.serveSlots {s : State} (h : s.ParkInv) : s.serveSlots.ParkInv := by
  obtain ⟨hhost, hplans, hhalt⟩ := s.serveSlots_frame
  exact h.of_eq (by rw [hhost]; exact ⟨rfl, rfl⟩) (by rw [State.stepRunning, hplans]; rfl) (by rw [State.isHalted, hhalt]; rfl)

theorem State.ParkInv.pullAlert {s : State} (h : s.ParkInv) : s.pullAlert.ParkInv := by
  unfold State.pullAlert
  split
  · exact h.of_eq ⟨rfl, rfl⟩ rfl rfl
  · exact h

theorem State.ParkInv.signalRisen {u : State} (h : u.ParkInv) (s : State) : (State.signalRisen s u).ParkInv := h.of_eq ⟨rfl, rfl⟩ rfl rfl

theorem State.ParkInv.queue {s : State} (h : s.ParkInv) (rest : List Instr) : State.ParkInv { s with pending := rest } := h

/-- A park takes effect after all that may halt the chip or end its step. -/
theorem State.settled_parkInv (s u : State) : (s.settled u).ParkInv :=
  (((State.servePark_parkInv _).serveSlots.signalRisen s).pullAlert).queue s.pending

/-! ### The invariants after every step -/

/-- An invariant that every settled state has, and that does not look at the queue, holds after every step. -/
theorem step_keeps {P : State → Prop} (hsettled : ∀ s u : State, P (s.settled u)) (hqueue : ∀ (s : State) rest, P s → P { s with pending := rest }) {s t : State} (h : P s) (hstep : step s = .next t) : P t := by
  rcases step_next_cases hstep with ⟨rest, rfl⟩ | ⟨s0, u, rfl⟩
  · exact hqueue s rest h
  · exact hsettled s0 u

/-- Settles O49: after the quarantine of banks no operation leaves one flagged (`KeepsBanks`), for one that ends a step by a fault halts the chip. -/
theorem flaggedBanksAreServed : Obligations.FlaggedBanksAreServed := fun _ _ => step_keeps State.settled_flagInv fun _ _ h => h

/-- Settles O47: MGT_ALERT_N is pulled last (`State.settled_alertInv`). -/
theorem alertFollowsAttention : Obligations.AlertFollowsAttention := fun _ _ => step_keeps State.settled_alertInv fun _ _ h => h

/-- Settles O48: what follows the park does not end a step or halt the chip (`State.settled_parkInv`). -/
theorem parkTakesEffect : Obligations.ParkTakesEffect := fun _ _ => step_keeps State.settled_parkInv fun _ _ h => h

/-- Settles O50: a chip at reset has no attention bit, no park and no flagged bank. -/
theorem invariantsHoldAtReset : Obligations.InvariantsHoldAtReset := by
  refine ⟨fun h => ?attention, fun h => ?park, fun _ _ _ => rfl, rfl, rfl⟩
  case attention => exact absurd h (by decide)
  case park => exact absurd h (by decide)

/-! ### A calm chip, and one in reset -/

/-- On a calm chip the signals and the alert are all that follows. -/
theorem State.calm.settled {u : State} (h : u.calm) (s : State) : s.settled u = { u with
    pending := s.pending
    host := { u.host with signals := u.host.signals ++ (State.risen s u).map (fun _ => 63) }
    mgt := { u.mgt with alertLow := u.mgt.alertLow || u.attentionUnmasked } } := by
  have hattn : (State.signalRisen s u).attentionUnmasked = u.attentionUnmasked := rfl
  unfold State.settled
  rw [h.served, State.pullAlert, hattn]
  cases u.attentionUnmasked
  · simp [State.signalRisen]
  · simp [State.signalRisen]

/-- Settles O46: on a calm chip nothing that follows a command has anything to do (`State.calm.served`) but the signals and the alert. -/
theorem calmStepsAddNothing : Obligations.CalmStepsAddNothing := by
  intro s u hlive hcalm
  rw [State.settle, hlive, if_neg Bool.false_ne_true, hcalm.settled]

/-- Settles O44: only a row that acts in reset settles a state in which reset stays asserted (`exec_settles`); what follows a command keeps the boot registers. -/
theorem resetHoldsTheChip : Obligations.ResetHoldsTheChip := by
  intro c s t hreset hexec hpower hpcie hpress hrelease
  rcases exec_settles c s with ⟨u, hu⟩ | ⟨hacts, -⟩
  · obtain rfl : s.settle u = t := by rwa [hu, Host.Outcome.next.injEq] at hexec
    cases hstays : u.boot.inReset
    · right
      rw [State.settle, hstays, Bool.and_false, if_neg Bool.false_ne_true, (s.settled_keepsForm u).boot, hstays]
    · exact .inl (State.settle_reset hreset hstays)
  · rcases hacts with h | h | h | ⟨ms, h⟩
    · exact absurd h hpower
    · exact absurd h hpcie
    · exact absurd h hpress
    · exact absurd h (hrelease ms)

end Sys2Proof.Machine
end

section
/-! SUPPORT. Resets (R567, R578) and HEALTH.CLEAR_HALT (R491): what a reset leaves, O45 and O60 assembled from it. -/
namespace Sys2Proof.Machine

/-! ### Resets -/

/-- A ridge at reset is not enabled, and stays in register mode. -/
theorem State.normalRidge_blank (s : State) (n : Nat) : s.normalRidge (Ridge.blank n) = Ridge.blank n := rfl

/-- Nothing is due on a chip that a reset has just reached. -/
theorem State.resetBy_calm (s : State) (k : Nat) : (s.resetBy k).calm where
  noFlag := rfl
  modes r hr := by
    obtain ⟨n, -, rfl⟩ := List.mem_map.mp (show r ∈ (List.range 64).map Ridge.blank from hr)
    exact State.normalRidge_blank _ n
  noStep := rfl
  noBarrier := rfl
  noPark := rfl
  auths x hx := absurd (show x ∈ ([] : List Port) from hx) List.not_mem_nil
  posted := Nat.zero_le _
  slots x hx := absurd (show x ∈ ([] : List Port) from hx) List.not_mem_nil

/-- The state that a reset leaves, with what follows it. -/
theorem State.settled_resetBy (s : State) (k : Nat) : s.settled (s.resetBy k) = { s.resetBy k with
    pending := s.pending
    host := { (s.resetBy k).host with signals := (s.resetBy k).host.signals ++ (State.risen s (s.resetBy k)).map (fun _ => 63) }
    mgt := { (s.resetBy k).mgt with alertLow := (s.resetBy k).mgt.alertLow || (s.resetBy k).attentionUnmasked } } :=
  (s.resetBy_calm k).settled s

/-- A reset whose cause no power-on reset overlaps, with no image being written. -/
theorem State.resetBy_eq {s : State} {k : Nat} (himage : ∀ img act, s.sec.image ≠ .writing img act) (hfirst : k = 0 ∨ ¬ (s.boot.inReset = true ∧ s.boot.resetCause = 0)) :
    s.resetBy k = { State.reset with
      pending := s.pending
      fuses := s.fuses
      flash := { s.flash with cairnWaiting := [], remapWaiting := [] }
      trip := if k = 0 then State.reset.trip else { s.trip with pending := none }
      boot := { State.reset.boot with inReset := true, resetCause := k }
      host := { State.reset.host with button := s.host.button, buttonIgnored := s.host.button }
      out := { State.reset.out with wire := s.out.wire, uart := s.out.uart }
      free := s.free } := by
  have hcause : (if s.boot.inReset = true ∧ s.boot.resetCause = 0 then 0 else k) = k := by
    rcases hfirst with rfl | h
    · exact ite_self 0
    · exact if_neg h
  unfold State.resetBy
  rw [hcause]
  split
  · next img act h => exact absurd h (himage img act)
  · rfl

/-- MGT_RESET with its key resets; the answer that acknowledges it is lost with all else. -/
theorem mgtReset_runs (s : State) : Runs (.mgtReset 0xB007 true) s (s.resetBy 5) := by
  have hlost : ∀ m : Mgt, State.resetBy { s with mgt := m } 5 = s.resetBy 5 := fun _ => by
    unfold State.resetBy
    dsimp only
    cases s.sec.image <;> rfl
  refine .of_settle rfl ?_
  rw [State.mgtWrite, if_pos rfl, if_pos rfl, hlost]

/-- Each reset, as the row that brings it, settles the state of its cause. -/
theorem settled_of_reset {s t : State} {k : Nat}
    (h : (k = 0 ∧ exec .powerOnReset s = .next t) ∨ (k = 1 ∧ exec .pcieReset s = .next t ∧ ¬ (s.boot.inReset = true ∧ s.boot.resetCause = 0)) ∨
      (k = 2 ∧ exec (.hstReset 0xB0070001) s = .next t ∧ s.boot.inReset = false ∧ s.host.d3hot = false) ∨ (k = 5 ∧ exec (.mgtReset 0xB007 true) s = .next t ∧ s.boot.inReset = false) ∨
      (k = 6 ∧ exec .jtagChipReset s = .next t ∧ s.boot.inReset = false ∧ s.sec.level ≠ 0)) :
    t = s.settled (s.resetBy k) ∧ (k = 0 ∨ ¬ (s.boot.inReset = true ∧ s.boot.resetCause = 0)) := by
  have hout : s.boot.inReset = false → ¬ (s.boot.inReset = true ∧ s.boot.resetCause = 0) := fun hlive hr => by simp [hlive] at hr
  have hruns : ∀ {i : Instr} {u : State}, Runs i s u → exec i s = .next t → s.boot.inReset = false → t = s.settled u := fun hr hx hlive => by
    rw [Runs, State.settle_live hlive, hx, Host.Outcome.next.injEq] at hr
    exact hr
  rcases h with ⟨rfl, hx⟩ | ⟨rfl, hx, hfirst⟩ | ⟨rfl, hx, hlive, hd0⟩ | ⟨rfl, hx, hlive⟩ | ⟨rfl, hx, hlive, hlevel⟩
  · exact ⟨(Host.Outcome.next.inj hx).symm, .inl rfl⟩
  · exact ⟨(Host.Outcome.next.inj hx).symm, .inr hfirst⟩
  · exact ⟨hruns (.of_bar hd0 rfl (hostReset_key s)) hx hlive, .inr (hout hlive)⟩
  · exact ⟨hruns (mgtReset_runs s) hx hlive, .inr (hout hlive)⟩
  · exact ⟨hruns (.of_settle rfl (if_neg hlevel)) hx hlive, .inr (hout hlive)⟩

/-- Settles O45: each reset settles `State.resetBy` of its cause (`settled_of_reset`), a calm state (`State.settled_resetBy`), which keeps fuses, flash and PWR_TRIP alone (`State.resetBy_eq`). -/
theorem resetKeepsFusesAndFlash : Obligations.ResetKeepsFusesAndFlash := by
  intro s t k himage h
  obtain ⟨rfl, hfirst⟩ := settled_of_reset h
  rw [State.settled_resetBy, State.resetBy_eq himage hfirst]
  refine ⟨rfl, rfl, fun hk => ?trip, fun hk => ?tripLost, rfl, rfl, rfl, rfl, rfl, rfl, rfl, rfl, rfl, rfl, rfl, rfl, rfl, rfl, rfl, rfl, rfl, rfl, rfl, rfl⟩
  case trip =>
    dsimp only
    rw [if_neg hk]
    exact ⟨rfl, rfl, rfl⟩
  case tripLost => exact if_pos hk

/-! ### HEALTH.CLEAR_HALT (R491) -/

/-- The check of a command whose packet breaks no reserved field is the one that BUSY needs. -/
theorem check_clearHalt {s : State} {us : Nat} {c : Ctx} (h : firstBreach (reservedBreaches (healthClearHaltInfo us) c.pkt) = none) :
    (healthClearHaltInfo us).check s c = if s.isHalted && (decide (us < 100) || s.halt.cause == tripCause) then some (resStatus stBusy) else none := by
  have hstatic : reservedBreaches (healthClearHaltInfo us) c.pkt ++ (healthClearHaltInfo us).static c.pkt = reservedBreaches (healthClearHaltInfo us) c.pkt := List.append_nil _
  rw [OpInfo.check, hstatic, firstBreach_append h]
  cases hb : (s.isHalted && (decide (us < 100) || s.halt.cause == tripCause)) <;> simp [firstBreach, healthClearHaltInfo, bBusy, hb, resStatus]

/-- Settles O60: the command's one check of its own is BUSY (`check_clearHalt`); with it passed a halted chip discards what is transient. -/
theorem clearHaltFollowsItsRule : Obligations.ClearHaltFollowsItsRule := by
  intro s id us k hstart hreserved
  have hcheck := check_clearHalt (s := s) (c := s.ctxOf k) hreserved
  refine ⟨fun hrun => ?running, fun hhalt hbusy => ?busy, fun hhalt hus hcause => ?clears⟩
  case running =>
    have hready : Ready s (healthClearHaltInfo us) id (s.ctxOf k) := ⟨k, hstart, rfl, by rw [hcheck]; simp [State.isHalted, hrun]⟩
    exact hready.ends rfl (effectHealthClearHalt_running (s := s.begun id) _ hrun)
  case busy =>
    have hfails : (healthClearHaltInfo us).check s (s.ctxOf k) = some (resStatus stBusy) := by
      rw [hcheck]
      rcases hbusy with h | h <;> simp [State.isHalted, hhalt, h, tripCause]
    exact .of_settle rfl (State.runCmd_fails hstart hfails)
  case clears =>
    have hother : (s.halt.cause == tripCause) = false := beq_false_of_ne hcause
    have hready : Ready s (healthClearHaltInfo us) id (s.ctxOf k) := ⟨k, hstart, rfl, by rw [hcheck]; simp [Nat.not_lt.mpr hus, hother]⟩
    refine hready.ends rfl ((effectHealthClearHalt_halted (s := s.begun id) _ hhalt).trans ?_)
    simp [State.discardTransient, Memory.unpin, Numerics.sumsCleared]

end Sys2Proof.Machine
end

section
/-! SUPPORT. The word code (R436, R437): multiplication by α is a linear map of bytes, the syndromes of a word are the values of a polynomial under its powers, and O56 assembled from that. -/
namespace Sys2Proof.Machine

/-! ### Multiplication by α -/

/-- A double that leaves the byte is reduced by the field's polynomial. -/
theorem gfDouble_eq {a : Nat} (h : a < 256) : gfDouble a = (a <<< 1) ^^^ (if a.testBit 7 then 0x11D else 0) := by
  have hall : ∀ a : Fin 256, gfDouble a = (a.val <<< 1) ^^^ (if a.val.testBit 7 then 0x11D else 0) := by decide +kernel
  exact hall ⟨a, h⟩

theorem gfDouble_lt {a : Nat} (h : a < 256) : gfDouble a < 256 := by
  unfold gfDouble
  split
  · omega
  · exact Nat.xor_lt_two_pow (n := 8) (by omega) (by omega)

/-- Multiplication by α is linear. -/
theorem gfDouble_xor {a b : Nat} (ha : a < 256) (hb : b < 256) : gfDouble (a ^^^ b) = gfDouble a ^^^ gfDouble b := by
  rw [gfDouble_eq ha, gfDouble_eq hb, gfDouble_eq (Nat.xor_lt_two_pow (n := 8) ha hb), Nat.shiftLeft_xor_distrib, Nat.testBit_xor]
  cases a.testBit 7 <;> cases b.testBit 7 <;> simp [Nat.xor_assoc, Nat.xor_comm, Nat.xor_left_comm]

/-- A byte multiplied by α^m. -/
def gfShift (m a : Nat) : Nat := gfDouble^[m] a

@[simp] theorem gfShift_zero_exp (a : Nat) : gfShift 0 a = a := rfl

theorem gfShift_succ (m a : Nat) : gfShift (m + 1) a = gfDouble (gfShift m a) := Function.iterate_succ_apply' _ _ _

theorem gfShift_add (m n a : Nat) : gfShift (m + n) a = gfShift m (gfShift n a) := Function.iterate_add_apply _ _ _ _

theorem gfShift_lt (m : Nat) {a : Nat} (h : a < 256) : gfShift m a < 256 := by
  induction m with
  | zero => exact h
  | succ m ih => rw [gfShift_succ]; exact gfDouble_lt ih

theorem gfShift_xor (m : Nat) {a b : Nat} (ha : a < 256) (hb : b < 256) : gfShift m (a ^^^ b) = gfShift m a ^^^ gfShift m b := by
  induction m with
  | zero => rfl
  | succ m ih => rw [gfShift_succ, ih, gfDouble_xor (gfShift_lt m ha) (gfShift_lt m hb), gfShift_succ, gfShift_succ]

@[simp] theorem gfShift_zero (m : Nat) : gfShift m 0 = 0 := by
  induction m with
  | zero => rfl
  | succ m ih => rw [gfShift_succ, ih]; rfl

/-! ### Multiplication by a power of α -/

theorem gfMulBits_lt (n : Nat) {a : Nat} (ha : a < 256) (b : Nat) : gfMulBits n a b < 256 := by
  induction n generalizing a b with
  | zero => exact Nat.zero_lt_succ _
  | succ n ih =>
    refine Nat.xor_lt_two_pow (n := 8) ?_ (ih (gfDouble_lt ha) _)
    split
    · exact ha
    · exact Nat.zero_lt_succ _

theorem gfMul_lt {a : Nat} (ha : a < 256) (b : Nat) : gfMul a b < 256 := gfMulBits_lt 8 ha b

/-- The product is linear in the first factor's double. -/
theorem gfMulBits_double (n : Nat) {a : Nat} (ha : a < 256) (b : Nat) : gfMulBits n (gfDouble a) b = gfDouble (gfMulBits n a b) := by
  induction n generalizing a b with
  | zero => rfl
  | succ n ih =>
    unfold gfMulBits
    rw [ih (gfDouble_lt ha), gfDouble_xor _ (gfMulBits_lt n (gfDouble_lt ha) _)]
    · congr 1
      split <;> rfl
    · split
      · exact ha
      · exact Nat.zero_lt_succ _

/-- The product is linear in the second factor. -/
theorem gfMulBits_xor (n a b c : Nat) : gfMulBits n a (b ^^^ c) = gfMulBits n a b ^^^ gfMulBits n a c := by
  induction n generalizing a b c with
  | zero => simp [gfMulBits]
  | succ n ih =>
    have hbit : (if (b ^^^ c) % 2 = 1 then a else 0) = (if b % 2 = 1 then a else 0) ^^^ (if c % 2 = 1 then a else 0) := by
      rw [Nat.xor_mod_two_eq, Nat.add_mod]
      rcases Nat.mod_two_eq_zero_or_one b with hb | hb <;> rcases Nat.mod_two_eq_zero_or_one c with hc | hc <;> simp [hb, hc]
    simp only [gfMulBits, Nat.xor_div_two, ih, hbit, Nat.xor_assoc, Nat.xor_left_comm]

/-- A bit of the second factor that is not set adds nothing. -/
theorem gfMulBits_succ {n a b : Nat} (hb : b < 2 ^ n) : gfMulBits (n + 1) a b = gfMulBits n a b := by
  induction n generalizing a b with
  | zero =>
    obtain rfl : b = 0 := by omega
    simp [gfMulBits]
  | succ n ih =>
    rw [gfMulBits, ih (by omega)]
    rfl

/-- Multiplication by the double of a byte doubles the product: for a byte without its top bit that is the product of the double, and the top bit itself is checked for every factor. -/
theorem gfMul_double {a b : Nat} (ha : a < 256) (hb : b < 256) : gfMul a (gfDouble b) = gfDouble (gfMul a b) := by
  have hxor : ∀ c d, gfMul a (c ^^^ d) = gfMul a c ^^^ gfMul a d := gfMulBits_xor 8 a
  have hlow : ∀ c < 128, gfMul a (gfDouble c) = gfDouble (gfMul a c) := by
    intro c hc
    have h2 : gfDouble c = 2 * c := if_pos hc
    calc gfMul a (gfDouble c) = gfMulBits 7 (gfDouble a) c := by rw [h2, gfMul, gfMulBits]; simp
      _ = gfDouble (gfMulBits 7 a c) := gfMulBits_double 7 ha c
      _ = gfDouble (gfMul a c) := by rw [gfMul, gfMulBits_succ (n := 7) hc]
  have htop : gfMul a (gfDouble 128) = gfDouble (gfMul a 128) := by
    have hall : ∀ a : Fin 256, gfMul a (gfDouble 128) = gfDouble (gfMul a 128) := by decide +kernel
    exact hall ⟨a, ha⟩
  by_cases h : b < 128
  · exact hlow b h
  · obtain ⟨c, hc, rfl⟩ : ∃ c < 128, b = c ^^^ 128 := by
      have hall : ∀ b : Fin 256, 128 ≤ b.val → b.val = (b.val - 128) ^^^ 128 := by decide +kernel
      exact ⟨b - 128, by omega, hall ⟨b, hb⟩ (Nat.not_lt.mp h)⟩
    rw [gfDouble_xor (by omega) (by omega), hxor, hxor, gfDouble_xor (gfMul_lt ha c) (gfMul_lt ha 128), hlow c hc, htop]

theorem gfPow_lt (m : Nat) : gfPow m < 256 := by
  induction m with
  | zero => exact Nat.one_lt_ofNat
  | succ m ih => exact gfDouble_lt ih

/-- A product with a power of α is a shift. -/
theorem gfMul_gfPow {a : Nat} (ha : a < 256) (m : Nat) : gfMul a (gfPow m) = gfShift m a := by
  induction m with
  | zero =>
    have hall : ∀ a : Fin 256, gfMul a 1 = a := by decide +kernel
    exact hall ⟨a, ha⟩
  | succ m ih => rw [gfPow, gfMul_double ha (gfPow_lt m), ih, gfShift_succ]

/-! ### Syndromes -/

/-- The value under α^k of the polynomial whose coefficients are bytes, the lowest first. -/
def gfEval (k : Nat) : List Nat → Nat
  | [] => 0
  | c :: cs => c ^^^ gfShift k (gfEval k cs)

/-- The coefficients are bytes. -/
def areBytes (cs : List Nat) : Prop := ∀ c ∈ cs, c < 256

theorem areBytes_toNat (bs : List Byte) : areBytes (bs.map BitVec.toNat) := by
  intro c hc
  obtain ⟨b, -, rfl⟩ := List.mem_map.mp hc
  exact b.isLt

theorem gfEval_lt (k : Nat) {cs : List Nat} (h : areBytes cs) : gfEval k cs < 256 := by
  induction cs with
  | nil => exact Nat.zero_lt_succ _
  | cons c cs ih =>
    exact Nat.xor_lt_two_pow (n := 8) (h c List.mem_cons_self) (gfShift_lt k (ih fun x hx => h x (List.mem_cons_of_mem c hx)))

/-- The value of a polynomial that continues another. -/
theorem gfEval_append (k : Nat) {cs ds : List Nat} (hc : areBytes cs) (hd : areBytes ds) : gfEval k (cs ++ ds) = gfEval k cs ^^^ gfShift (k * cs.length) (gfEval k ds) := by
  induction cs with
  | nil => simp [gfEval]
  | cons c cs ih =>
    have hcs : areBytes cs := fun x hx => hc x (List.mem_cons_of_mem c hx)
    rw [List.cons_append, gfEval, ih hcs, gfShift_xor k (gfEval_lt k hcs) (gfShift_lt _ (gfEval_lt k hd)), ← gfShift_add, gfEval, List.length_cons, Nat.mul_succ, Nat.add_comm k, Nat.xor_assoc]

/-- The syndrome of symbols from a position on is their value, shifted to that position. -/
theorem foldl_syndrome (k : Nat) (syms : List Byte) (i acc : Nat) :
    ((syms.zipIdx i).map (fun p => (p.2, p.1))).foldl (fun a s => a ^^^ gfMul s.2.toNat (gfPow (k * s.1))) acc = acc ^^^ gfShift (k * i) (gfEval k (syms.map BitVec.toNat)) := by
  induction syms generalizing i acc with
  | nil => simp [gfEval]
  | cons b bs ih =>
    have hb : b.toNat < 256 := b.isLt
    have hbs := gfEval_lt k (areBytes_toNat bs)
    simp only [List.zipIdx_cons, List.map_cons, List.foldl_cons, ih, gfEval]
    rw [gfMul_gfPow hb, gfShift_xor _ hb (gfShift_lt k hbs), ← gfShift_add, Nat.mul_succ, Nat.xor_assoc]

/-- The syndrome of a whole word is the value of its polynomial. -/
theorem syndrome_positions (k : Nat) (syms : List Byte) : syndrome k (positions syms) = gfEval k (syms.map BitVec.toNat) := by
  rw [syndrome, positions, foldl_syndrome, Nat.zero_xor, Nat.mul_zero, gfShift_zero_exp]

/-! ### The check bytes -/

/-- The products of a byte with the coefficients g0 to g3 of g, the remainder of that byte times x^4. -/
def remOf (t : Nat) : List Nat := [gfMul t 0x40, gfMul t 0x78, gfMul t 0x36, gfMul t 0x0F]

/-- One step of the division by g: the remainder takes in one more byte of data. -/
def remStep (r : List Nat) (b : Byte) : List Nat :=
  (List.range 4).map (fun i => (if i = 0 then 0 else nth r (i - 1) 0) ^^^ gfMul (nth r 3 0 ^^^ b.toNat) (nth genPoly i 0))

/-- The check bytes of data are the remainder that the steps leave. -/
theorem checkBytes_eq (data : List Byte) : checkBytes data = (data.foldr (fun b r => remStep r b) [0, 0, 0, 0]).map (BitVec.ofNat 8) := by
  rw [← List.foldl_reverse]
  rfl

/-- The four coefficients of g are 0x40, 0x78, 0x36 and 0x0F. -/
theorem remStep_eq (r0 r1 r2 r3 : Nat) (b : Byte) : remStep [r0, r1, r2, r3] b = List.zipWith (· ^^^ ·) [0, r0, r1, r2] (remOf (r3 ^^^ b.toNat)) := by
  have hg : genPoly = [0x40, 0x78, 0x36, 0x0F, 1] := by decide +kernel
  simp [remStep, remOf, hg, List.range_succ, nth]

theorem remOf_areBytes {t : Nat} (h : t < 256) : areBytes (remOf t) := by
  simp [areBytes, remOf, gfMul_lt h]

/-- α^0 to α^3 are roots of g: there the remainder of a byte times x^4 has that value. -/
theorem gfEval_remOf {k t : Nat} (hk : k < 4) (ht : t < 256) : gfEval k (remOf t) = gfShift (4 * k) t := by
  have hall : ∀ k : Fin 4, ∀ t : Fin 256, gfEval k (remOf t) = gfShift (4 * k) t := by decide +kernel
  exact hall ⟨k, hk⟩ ⟨t, ht⟩

/-- The value of a sum of polynomials. -/
theorem gfEval_zipWith_xor (k : Nat) {cs ds : List Nat} (hlen : cs.length = ds.length) (hc : areBytes cs) (hd : areBytes ds) :
    gfEval k (List.zipWith (· ^^^ ·) cs ds) = gfEval k cs ^^^ gfEval k ds := by
  induction cs generalizing ds with
  | nil =>
    obtain rfl := List.length_eq_zero_iff.mp hlen.symm
    exact (Nat.xor_self 0).symm
  | cons c cs ih =>
    cases ds with
    | nil => simp at hlen
    | cons d ds =>
      have hcs : areBytes cs := fun x hx => hc x (List.mem_cons_of_mem c hx)
      have hds : areBytes ds := fun x hx => hd x (List.mem_cons_of_mem d hx)
      rw [List.zipWith_cons_cons, gfEval, ih (by simpa using hlen) hcs hds, gfShift_xor k (gfEval_lt k hcs) (gfEval_lt k hds), gfEval, gfEval]
      simp only [Nat.xor_assoc, Nat.xor_left_comm]

/-- A remainder: four bytes. -/
def isRem (r : List Nat) : Prop := ∃ r0 r1 r2 r3, r = [r0, r1, r2, r3] ∧ areBytes [r0, r1, r2, r3]

theorem isRem_remStep {r : List Nat} (h : isRem r) (b : Byte) : isRem (remStep r b) := by
  obtain ⟨r0, r1, r2, r3, rfl, hr⟩ := h
  have ht : r3 ^^^ b.toNat < 256 := Nat.xor_lt_two_pow (n := 8) (hr r3 (by simp)) b.isLt
  refine ⟨_, _, _, _, remStep_eq r0 r1 r2 r3 b, ?_⟩
  simp only [areBytes, List.mem_cons, forall_eq_or_imp] at hr ⊢
  obtain ⟨h0, h1, h2, -, -⟩ := hr
  exact ⟨Nat.xor_lt_two_pow (n := 8) (Nat.zero_lt_succ _) (gfMul_lt ht _), Nat.xor_lt_two_pow (n := 8) h0 (gfMul_lt ht _), Nat.xor_lt_two_pow (n := 8) h1 (gfMul_lt ht _),
    Nat.xor_lt_two_pow (n := 8) h2 (gfMul_lt ht _), by simp⟩

/-- Under a root of g a step takes the value of the remainder times x, and the byte times x^4. -/
theorem gfEval_remStep {k : Nat} (hk : k < 4) {r : List Nat} (h : isRem r) (b : Byte) : gfEval k (remStep r b) = gfShift (4 * k) b.toNat ^^^ gfShift k (gfEval k r) := by
  obtain ⟨r0, r1, r2, r3, rfl, hr⟩ := h
  have hb : b.toNat < 256 := b.isLt
  have h3 : r3 < 256 := hr r3 (by simp)
  have hlow : areBytes [r0, r1, r2] := fun x hx => hr x (List.mem_append_left [r3] hx)
  have hshifted : areBytes [0, r0, r1, r2] := fun x hx => by
    rcases List.mem_cons.mp hx with rfl | hx
    · exact Nat.zero_lt_succ _
    · exact hlow x hx
  have ht : r3 ^^^ b.toNat < 256 := Nat.xor_lt_two_pow (n := 8) h3 hb
  have hlast : gfEval k [r3] = r3 := by simp [gfEval]
  have happend := gfEval_append k hlow (ds := [r3]) fun x hx => hr x (List.mem_append_right [r0, r1, r2] hx)
  calc gfEval k (remStep [r0, r1, r2, r3] b) = gfShift k (gfEval k [r0, r1, r2]) ^^^ gfShift (4 * k) (r3 ^^^ b.toNat) := by
        rw [remStep_eq, gfEval_zipWith_xor k (cs := [0, r0, r1, r2]) (ds := remOf (r3 ^^^ b.toNat)) rfl hshifted (remOf_areBytes ht), gfEval_remOf hk ht, gfEval, Nat.zero_xor]
    _ = gfShift (4 * k) b.toNat ^^^ gfShift k (gfEval k [r0, r1, r2] ^^^ gfShift (k * 3) r3) := by
        rw [gfShift_xor _ h3 hb, gfShift_xor k (gfEval_lt k hlow) (gfShift_lt _ h3), ← gfShift_add, show k + k * 3 = 4 * k by omega]
        simp only [Nat.xor_assoc, Nat.xor_comm]
    _ = gfShift (4 * k) b.toNat ^^^ gfShift k (gfEval k [r0, r1, r2, r3]) := by
        rw [show [r0, r1, r2, r3] = [r0, r1, r2] ++ [r3] from rfl, happend, hlast]
        rfl

/-- The remainder of data has the value of the data times x^4. -/
theorem gfEval_rem {k : Nat} (hk : k < 4) (data : List Byte) : isRem (data.foldr (fun b r => remStep r b) [0, 0, 0, 0]) ∧
    gfEval k (data.foldr (fun b r => remStep r b) [0, 0, 0, 0]) = gfShift (4 * k) (gfEval k (data.map BitVec.toNat)) := by
  induction data with
  | nil => exact ⟨⟨0, 0, 0, 0, rfl, by simp [areBytes]⟩, by simp [gfEval]⟩
  | cons b bs ih =>
    obtain ⟨hrem, hval⟩ := ih
    refine ⟨isRem_remStep hrem b, ?_⟩
    rw [List.foldr_cons, gfEval_remStep hk hrem, hval, List.map_cons, gfEval, gfShift_xor _ b.isLt (gfShift_lt k (gfEval_lt k (areBytes_toNat bs))), ← gfShift_add, ← gfShift_add, Nat.add_comm k]

theorem toNat_ofNat_of_areBytes {cs : List Nat} (h : areBytes cs) : (cs.map (BitVec.ofNat 8)).map BitVec.toNat = cs := by
  rw [List.map_map]
  exact (List.map_congr_left fun c hc => Nat.mod_eq_of_lt (h c hc)).trans (List.map_id _)

theorem isRem.areBytes {r : List Nat} (h : isRem r) : areBytes r := by
  obtain ⟨r0, r1, r2, r3, rfl, hr⟩ := h
  exact hr

/-- The four syndromes of a word are 0. -/
theorem syndrome_wordSymbols {k : Nat} (hk : k < 4) (data : List Byte) : gfEval k ((wordSymbols data).map BitVec.toNat) = 0 := by
  obtain ⟨hrem, hval⟩ := gfEval_rem hk data
  have hlen : (data.foldr (fun b r => remStep r b) [0, 0, 0, 0]).length = 4 := by
    obtain ⟨r0, r1, r2, r3, hr, -⟩ := hrem
    rw [hr]
    rfl
  rw [wordSymbols, List.map_append, checkBytes_eq, toNat_ofNat_of_areBytes hrem.areBytes, gfEval_append k hrem.areBytes (areBytes_toNat data), hlen, hval, Nat.mul_comm k, Nat.xor_self]

theorem checkBytes_length (data : List Byte) : (checkBytes data).length = 4 := by
  obtain ⟨⟨r0, r1, r2, r3, hr, -⟩, -⟩ := gfEval_rem (k := 0) (by omega) data
  rw [checkBytes_eq, hr]
  rfl

/-! ### A word with an error in one symbol -/

/-- An error of a symbol enters each syndrome, shifted to its place. -/
theorem gfEval_set_xor (k : Nat) (syms : List Byte) {p : Nat} (hp : p < syms.length) (e : Byte) :
    gfEval k ((syms.set p (syms.getD p 0 ^^^ e)).map BitVec.toNat) = gfEval k (syms.map BitVec.toNat) ^^^ gfShift (k * p) e.toNat := by
  induction syms generalizing p with
  | nil => simp at hp
  | cons b bs ih =>
    have hbs := gfEval_lt k (areBytes_toNat bs)
    cases p with
    | zero => simp [gfEval, Nat.xor_assoc, Nat.xor_comm]
    | succ p =>
      rw [List.set_cons_succ, List.getD_cons_succ, List.map_cons, gfEval, ih (by simpa using hp), gfShift_xor k hbs (gfShift_lt _ e.isLt), ← gfShift_add, List.map_cons, gfEval, Nat.mul_succ,
        Nat.add_comm k, Nat.xor_assoc]

/-- No power of α takes a byte that is not 0 to 0. -/
theorem eq_zero_of_gfShift {m a : Nat} (ha : a < 256) (h : gfShift m a = 0) : a = 0 := by
  induction m with
  | zero => exact h
  | succ m ih =>
    have hall : ∀ b : Fin 256, gfDouble b = 0 → b.val = 0 := by decide +kernel
    exact ih (hall ⟨gfShift m a, gfShift_lt m ha⟩ (by rwa [gfShift_succ] at h))

/-- The order of α is 255: no lower power among the places of a word leaves a byte that is not 0 as it is. -/
theorem gfShift_ne_self {d e : Nat} (he : e < 256) (h0 : e ≠ 0) (hd : 0 < d) (hlt : d < 36) : gfShift d e ≠ e := by
  have hall : ∀ e : Fin 256, e.val ∈ List.iterate gfDouble (gfDouble e) 35 → e.val = 0 := by decide +kernel
  intro h
  refine h0 (hall ⟨e, he⟩ (List.mem_iterate.mpr ⟨d - 1, by omega, ?_⟩))
  rw [← Function.iterate_succ_apply, Nat.succ_eq_add_one, Nat.sub_one_add_one hd.ne']
  exact h.symm

/-- Different places shift an error differently. -/
theorem gfShift_inj_of_le {e l p : Nat} (he : e < 256) (h0 : e ≠ 0) (hp : p < 36) (hle : l ≤ p) (h : gfShift l e = gfShift p e) : l = p := by
  obtain ⟨d, rfl⟩ := Nat.exists_eq_add_of_le hle
  have hxor : e ^^^ gfShift d e = 0 := by
    refine eq_zero_of_gfShift (m := l) (Nat.xor_lt_two_pow (n := 8) he (gfShift_lt d he)) ?_
    rw [gfShift_xor l he (gfShift_lt d he), ← gfShift_add, h, Nat.xor_self]
  rcases Nat.eq_zero_or_pos d with rfl | hd
  · rfl
  · exact absurd (Nat.xor_eq_zero_iff.mp hxor).symm (gfShift_ne_self he h0 hd (by omega))

theorem gfShift_inj {e l p : Nat} (he : e < 256) (h0 : e ≠ 0) (hl : l < 36) (hp : p < 36) (h : gfShift l e = gfShift p e) : l = p := by
  rcases Nat.le_total l p with hle | hle
  · exact gfShift_inj_of_le he h0 hp hle h
  · exact (gfShift_inj_of_le he h0 hl hle h.symm).symm

/-- A word all of whose syndromes are 0 is clean. -/
theorem wordState_clean {syms : List (Nat × Byte)} (h : ∀ k < 4, syndrome k syms = 0) : wordState syms = .clean := by
  simp [wordState, h]

/-- A word whose syndromes are those of one error is corrected at its place. -/
theorem wordState_corrected {syms : List (Nat × Byte)} {p : Nat} {e : Byte} (hp : p < 36) (he : e ≠ 0) (h : ∀ k < 4, syndrome k syms = gfShift (k * p) e.toNat) :
    wordState syms = .corrected p e := by
  have he0 : e.toNat ≠ 0 := fun h0 => he (BitVec.eq_of_toNat_eq h0)
  have h0 : syndrome 0 syms = e.toNat := by simpa using h 0 (by omega)
  have hfind : (List.range 36).find? (fun l => syndrome 0 syms ≠ 0 && syndrome 1 syms = gfMul (syndrome 0 syms) (gfPow l) && syndrome 2 syms = gfMul (syndrome 0 syms) (gfPow (2 * l)) &&
      syndrome 3 syms = gfMul (syndrome 0 syms) (gfPow (3 * l))) = some p := by
    simp only [h0, h 1 (by omega), h 2 (by omega), h 3 (by omega), gfMul_gfPow e.isLt, Nat.one_mul]
    refine List.find?_range_eq_some.mpr ⟨?_, List.mem_range.mpr hp, fun l hl => ?_⟩
    · simp [he0]
    · have hne : gfShift p e.toNat ≠ gfShift l e.toNat := fun heq => hl.ne' (gfShift_inj e.isLt he0 hp (hl.trans hp) heq)
      simp [hne]
  unfold wordState
  dsimp only
  rw [hfind, if_neg (by simp [h0, he0]), h0, BitVec.ofNat_toNat, BitVec.setWidth_eq]

/-- Settles O56: the syndromes of a word are 0 (`syndrome_wordSymbols`), an error of one symbol enters each shifted to its place (`gfEval_set_xor`), and its place can be told from them (`gfShift_inj`). -/
theorem oneSymbolErrorsAreCorrected : Obligations.OneSymbolErrorsAreCorrected := by
  intro data p e hlen hp he
  have hdrop : (wordSymbols data).drop 4 = data := List.drop_left' (checkBytes_length data)
  have hsyms : (wordSymbols data).length = 36 := by rw [wordSymbols, List.length_append, checkBytes_length, hlen]
  have hclean : wordState (positions (wordSymbols data)) = .clean := wordState_clean fun k hk => (syndrome_positions k _).trans (syndrome_wordSymbols hk data)
  have hcorrected : wordState (positions ((wordSymbols data).set p ((wordSymbols data).getD p 0 ^^^ e))) = .corrected p e := by
    refine wordState_corrected hp he fun k hk => ?_
    rw [syndrome_positions, gfEval_set_xor k _ (by omega), syndrome_wordSymbols hk, Nat.zero_xor]
  have hundo : ∀ x : Byte, ((wordSymbols data).set p x).getD p 0 = x := fun x => by simp [hsyms, hp]
  refine ⟨?_, ?_⟩
  · simp only [decodeWord, hclean, hdrop]
  · have hback : (wordSymbols data).getD p 0 ^^^ e ^^^ e = (wordSymbols data)[p]'(by omega) := by
      rw [BitVec.xor_assoc, BitVec.xor_self, BitVec.xor_zero, List.getD_eq_getElem]
    simp only [decodeWord, hcorrected, hundo, List.set_set, hback, List.set_getElem_self, hdrop]

end Sys2Proof.Machine
end

section
/-! SUPPORT. Device memory (R420, R421, R434, R437): what a byte of a cell list reads as after a write, the read of whole words without an error, and O53 assembled from it. -/
namespace Sys2Proof.Machine

/-! ### Bytes of a cell list -/

/-- An address that no cell of a list has reads as 0. -/
theorem cellGet_eq_zero {cs : List Host.Cell} {b : Nat} (h : ∀ c ∈ cs, c.1 ≠ b) : cellGet cs b = 0 := by
  induction cs with
  | nil => rfl
  | cons c cs ih => rw [cellGet, if_neg (h c List.mem_cons_self), ih fun x hx => h x (List.mem_cons_of_mem c hx)]

/-- A part of a list that keeps every cell of an address reads there as the whole. -/
theorem cellGet_filter {q : Nat → Bool} {b : Nat} (cs : List Host.Cell) (h : q b = true) : cellGet (cs.filter (fun c => q c.1)) b = cellGet cs b := by
  induction cs with
  | nil => rfl
  | cons c cs ih =>
    by_cases hc : q c.1 = true
    · rw [List.filter_cons_of_pos (p := fun c : Host.Cell => q c.1) hc, cellGet, cellGet, ih]
    · have hne : c.1 ≠ b := fun heq => hc (heq ▸ h)
      rw [List.filter_cons_of_neg (p := fun c : Host.Cell => q c.1) hc, cellGet, if_neg hne, ih]

theorem cellGet_append_of_left {cs ds : List Host.Cell} {b : Nat} (h : ∀ c ∈ cs, c.1 ≠ b) : cellGet (cs ++ ds) b = cellGet ds b := by
  induction cs with
  | nil => rfl
  | cons c cs ih => rw [List.cons_append, cellGet, if_neg (h c List.mem_cons_self), ih fun x hx => h x (List.mem_cons_of_mem c hx)]

theorem cellGet_append_of_right {cs ds : List Host.Cell} {b : Nat} (h : ∀ c ∈ ds, c.1 ≠ b) : cellGet (cs ++ ds) b = cellGet cs b := by
  induction cs with
  | nil => exact cellGet_eq_zero h
  | cons c cs ih => rw [List.cons_append, cellGet, cellGet, ih]

/-- The cells of a run of bytes read as those bytes. -/
theorem cellGet_cellsOf (a : Nat) (bs : List Byte) {i : Nat} (h : i < bs.length) : cellGet (cellsOf a bs) (a + i) = bs[i] := by
  induction bs generalizing a i with
  | nil => simp at h
  | cons x bs ih =>
    have hrest : ∀ c ∈ cellsOf (a + 1) bs, c.1 ≠ a := fun c hc => by have := (mem_cellsOf hc).1; omega
    cases i with
    | zero =>
      rw [cellsOf]
      split
      · next hx => simpa [hx] using cellGet_eq_zero hrest
      · simp [cellGet]
    | succ i =>
      have hi := ih (a + 1) (i := i) (by simpa using h)
      rw [Nat.add_right_comm, Nat.add_assoc] at hi
      rw [cellsOf]
      split
      · exact hi
      · rw [cellGet, if_neg (by omega)]
        exact hi

/-- A write leaves the bytes outside its run as they were. -/
theorem cellGet_cellWrite_outside (cs : List Host.Cell) {a b : Nat} {bs : List Byte} (h : b < a ∨ a + bs.length ≤ b) : cellGet (cellWrite cs a bs) b = cellGet cs b := by
  have hmid : ∀ c ∈ cellsOf a bs, c.1 ≠ b := fun c hc => by
    obtain ⟨hlo, hhi, -⟩ := mem_cellsOf hc
    omega
  rcases h with h | h
  · have hhigh : ∀ c ∈ cs.filter (fun c => decide (a + bs.length ≤ c.1)), c.1 ≠ b := fun c hc => by
      have := (List.mem_filter.mp hc).2
      simp only [decide_eq_true_eq] at this
      omega
    rw [cellWrite, cellGet_append_of_right hhigh, cellGet_append_of_right hmid, cellGet_filter (q := fun k => decide (k < a)) cs (by simpa using h)]
  · have hlow : ∀ c ∈ cs.filter (fun c => decide (c.1 < a)) ++ cellsOf a bs, c.1 ≠ b := fun c hc => by
      rcases List.mem_append.mp hc with hc | hc
      · have := (List.mem_filter.mp hc).2
        simp only [decide_eq_true_eq] at this
        omega
      · exact hmid c hc
    rw [cellWrite, cellGet_append_of_left hlow, cellGet_filter (q := fun k => decide (a + bs.length ≤ k)) cs (by simpa using h)]

/-- A write's own run reads as what was written. -/
theorem cellGet_cellWrite_inside (cs : List Host.Cell) (a : Nat) {bs : List Byte} {i : Nat} (h : i < bs.length) : cellGet (cellWrite cs a bs) (a + i) = bs[i] := by
  have hlow : ∀ c ∈ cs.filter (fun c => decide (c.1 < a)), c.1 ≠ a + i := fun c hc => by
    have := (List.mem_filter.mp hc).2
    simp only [decide_eq_true_eq] at this
    omega
  have hhigh : ∀ c ∈ cs.filter (fun c => decide (a + bs.length ≤ c.1)), c.1 ≠ a + i := fun c hc => by
    have := (List.mem_filter.mp hc).2
    simp only [decide_eq_true_eq] at this
    omega
  rw [cellWrite, cellGet_append_of_right hhigh, cellGet_append_of_left hlow, cellGet_cellsOf a bs h]

/-- A read of a run of addresses gives the byte of each. -/
theorem cellRead_eq (cs : List Host.Cell) (a n : Nat) : cellRead cs a n = (List.range n).map (fun i => cellGet cs (a + i)) := by
  refine List.map_congr_left fun i hi => ?_
  have hi := List.mem_range.mp hi
  exact cellGet_filter (q := fun k => decide (a ≤ k) && decide (k < a + n)) cs (by simp [hi])

/-- A run of bytes written is read back. -/
theorem cellRead_cellWrite (cs : List Host.Cell) (a : Nat) (bs : List Byte) : cellRead (cellWrite cs a bs) a bs.length = bs := by
  rw [cellRead_eq]
  refine List.ext_getElem (by simp) fun i hi hi' => ?_
  simp [cellGet_cellWrite_inside cs a hi']

/-! ### Runs of a list -/

theorem flatten_chunksFuel {α : Type} {n : Nat} (hn : 0 < n) (f : Nat) (xs : List α) (h : xs.length < f) : (chunksFuel f n xs).flatten = xs := by
  induction f generalizing xs with
  | zero => omega
  | succ f ih =>
    rw [chunksFuel]
    split
    · next hnil => simpa using hnil.symm
    · next hne =>
      have hpos : 0 < xs.length := List.length_pos_iff.mpr (by simpa using hne)
      rw [List.flatten_cons, ih _ (by rw [List.length_drop]; omega), List.take_append_drop]

/-- The runs of a list are the list. -/
theorem flatten_chunks {α : Type} (n : Nat) (xs : List α) : (chunks n xs).flatten = xs := flatten_chunksFuel (by omega) _ xs (by omega)

/-- A run begins within the list. -/
theorem mul_lt_of_lt_length_chunksFuel {α : Type} {n : Nat} (f : Nat) (xs : List α) {i : Nat} (h : i < (chunksFuel f n xs).length) : n * i < xs.length := by
  induction f generalizing xs i with
  | zero => simp [chunksFuel] at h
  | succ f ih =>
    rw [chunksFuel] at h
    split at h
    · simp at h
    · next hne =>
      have hpos : 0 < xs.length := List.length_pos_iff.mpr (by simpa using hne)
      cases i with
      | zero => simpa using hpos
      | succ i =>
        have := ih (xs.drop n) (i := i) (by simpa using h)
        rw [List.length_drop] at this
        rw [Nat.mul_succ]
        omega

/-! ### Whole words without an error -/

/-- A word that the list of errors does not name is clean. -/
theorem Memory.readWord_clean {m : Memory} {wa : Nat} (h : ∀ e ∈ m.errs, e.1 ≠ wa) (raw : List Byte) : m.readWord wa raw = (.clean, raw) := by
  have hnone : m.errs.find? (fun e => e.1 == wa) = none := List.find?_eq_none.mpr fun e he => by simpa using h e he
  simp only [Memory.readWord, hnone]

/-- Whole words in which no error lies are read clean. -/
theorem Memory.readWords_clean {m : Memory} {a n : Nat} (ha : a % 32 = 0) (hn : n % 32 = 0) (h : ∀ e ∈ m.errs, e.1 < a ∨ a + n ≤ e.1) :
    m.readWords a n = ((chunks 32 (cellRead m.cells a n)).zipIdx).map (fun x => (a + 32 * x.2, .clean, x.1)) := by
  have hfirst : a / 32 * 32 = a := by omega
  have hlen : 32 * (if n = 0 then 0 else (a + n + 31) / 32 - a / 32) = n := by split <;> omega
  simp only [Memory.readWords, hfirst, hlen]
  refine List.map_congr_left fun x hx => ?_
  have hi : 32 * x.2 < n := by
    have hlt := mul_lt_of_lt_length_chunksFuel (n := 32) _ _ (List.snd_lt_of_mem_zipIdx hx)
    simpa [cellRead] using hlt
  rw [Memory.readWord_clean fun e he => ?_]
  have := h e he
  omega

/-- So is their data, and none of them is corrected or uncorrectable. -/
theorem Memory.read_clean {m : Memory} {a n : Nat} (ha : a % 32 = 0) (hn : n % 32 = 0) (h : ∀ e ∈ m.errs, e.1 < a ∨ a + n ≤ e.1) :
    (m.read a n).data = cellRead m.cells a n ∧ (m.read a n).uncorr = [] ∧ (m.read a n).corrected = [] := by
  have hdata : ((chunks 32 (cellRead m.cells a n)).zipIdx).flatMap (fun x => x.1) = cellRead m.cells a n := by
    rw [List.flatMap_def, List.zipIdx_map_fst, flatten_chunks]
  have htake : (cellRead m.cells a n).take n = cellRead m.cells a n := List.take_of_length_le (by simp [cellRead])
  simp only [Memory.read, Memory.readWords_clean ha hn h, List.flatMap_map, List.filter_map]
  refine ⟨?_, ?_, ?_⟩
  · rw [ha, List.drop_zero, hdata, htake]
  · simp [WordState.isBad, Function.comp_def]
  · simp [WordState.isFixed, Function.comp_def]

/-! ### Whole words written -/

/-- A write of whole words is one of words alone, that meets nothing. -/
theorem Memory.write_words (m : Memory) {a : Nat} {bs : List Byte} (ha : a % 32 = 0) (hlen : bs.length % 32 = 0) (hne : bs ≠ []) : m.write a bs = (m.putWords a bs, .none) := by
  have hbody : bs.take (bs.length / 32 * 32) = bs := List.take_of_length_le (by omega)
  simp [Memory.write, ha, hne, hbody, WriteRes.append, WriteRes.none]

/-- A write of whole words leaves no error in them. -/
theorem Memory.write_words_errs (m : Memory) {a : Nat} {bs : List Byte} (ha : a % 32 = 0) (hlen : bs.length % 32 = 0) : ∀ e ∈ (m.write a bs).1.errs, e.1 < a ∨ a + bs.length ≤ e.1 := by
  intro e he
  by_cases hne : bs = []
  · subst hne
    simp only [List.length_nil]
    omega
  · rw [m.write_words ha hlen hne] at he
    simpa using (List.mem_filter.mp he).2

/-- A write of whole words writes its bytes into the cells. -/
theorem Memory.write_words_cells (m : Memory) {a : Nat} {bs : List Byte} (ha : a % 32 = 0) (hlen : bs.length % 32 = 0) (b : Nat) :
    cellGet (m.write a bs).1.cells b = cellGet (cellWrite m.cells a bs) b := by
  by_cases hne : bs = []
  · subst hne
    rw [cellGet_cellWrite_outside _ (by simp only [List.length_nil]; omega)]
    rfl
  · rw [m.write_words ha hlen hne]
    rfl

/-- Settles O53: a write of whole words is one of the cell list (`Memory.write_words`), and whole words without an error are read as they lie there (`Memory.read_clean`). -/
theorem wholeWordsReadBack : Obligations.WholeWordsReadBack := by
  intro m a bs ha hlen
  obtain ⟨hdata, huncorr, hcorrected⟩ := Memory.read_clean ha hlen (m.write_words_errs ha hlen)
  refine ⟨?_, huncorr, hcorrected, fun b hb => ?_⟩
  · rw [hdata, cellRead_eq, List.map_congr_left fun i _ => m.write_words_cells ha hlen (a + i), ← cellRead_eq, cellRead_cellWrite]
  · rw [m.write_words_cells ha hlen, cellGet_cellWrite_outside _ hb]

end Sys2Proof.Machine
end

section
/-! SUPPORT. The MEM settings, copies and atomics, and the events of the memory system. -/
namespace Sys2Proof.Machine

/-! ### Ports -/

/-- A port's record after an update that keeps its number and its presence. -/
theorem State.memPort?_updMemPort {s : State} {p : Nat} {m : MemPort} {f : MemPort → MemPort} (hnum : ∀ x, (f x).num = x.num) (hpresent : ∀ x, (f x).present = x.present)
    (h : s.memPort? p = some m) : (s.updMemPort p f).memPort? p = some (f m) := by
  have hp : m.num = p := by have := List.find?_some h; simp_all
  have hkey : (fun x : MemPort => x.num == p && x.present) ∘ (fun x => if x.num == p then f x else x) = fun x => x.num == p && x.present := by
    funext x
    simp only [Function.comp]
    split <;> simp [hnum, hpresent]
  show List.find? _ (mapWhere _ f s.gddr.ports) = _
  rw [mapWhere, List.find?_map, hkey]
  rw [State.memPort?] at h
  simp [h, hp]

/-- A port that is not retraining begins its retrain. -/
theorem State.startRetrain_begins {s : State} {p cause : Nat} {m : MemPort} (h : s.memPort? p = some m) (hm : m.retraining = false) :
    s.startRetrain p cause = (s.updMemPort p (fun m => { m with retraining := true, retrainPending := false })).decision 2 p [marginWord m.trainedMargin, marginWord m.measuredMargin] 0 cause := by
  simp [State.startRetrain, h, hm]

/-- A port that is retraining is left as it is. -/
theorem State.startRetrain_retraining {s : State} {p cause : Nat} {m : MemPort} (h : s.memPort? p = some m) (hm : m.retraining = true) : s.startRetrain p cause = s := by
  simp [State.startRetrain, h, hm]

/-! ### Settings and reports (R406, R417, R433, R585) -/

/-- MEM.POLICY compares each present port's rate with the one before. -/
theorem effectMemPolicy_eq (s : State) (c : Ctx) : effectMemPolicy s c =
    (s.presentPorts.foldl (fun u p => u.refreshLogged ((s.memPort? p).elim 0 s.refreshOf) p 1)
      { s with gddr := { s.gddr with minRefresh := c.f 32 1, threshold := if c.f 33 1 = 0 then 8 else c.f 33 1, pinRemap := bitAt (c.f 34 1) 0, scrubPeriod := c.f 36 4 } }, some resOK) := by
  simp only [effectMemPolicy, List.foldl_map]
  refine Prod.ext (congrArg (List.foldl · _ _) (funext₂ fun u p => ?_)) rfl
  cases s.memPort? p <;> rfl

/-- MEM.REMAP_READ writes the table of the port it names. -/
theorem effectMemRemapRead_present {s : State} {c : Ctx} {m : MemPort} (h : s.memPort? (c.f 32 1) = some m) :
    effectMemRemapRead s c = ((s.storeAt c 4 (c.f 40 8) m.remapBytes).1, some ((writeStatus (s.storeAt c 4 (c.f 40 8) m.remapBytes).2).getD resOK)) := by
  simp only [effectMemRemapRead, h, storedResult]

/-- Settles O22: each setting by the equation of its effect; MEM.RETRAIN by whether the port is retraining already. -/
theorem memSettingsComplete : Obligations.MemSettingsComplete := by
  rintro s _ id c rfl
  refine ⟨?info, ?share, ?policy, ?remapRead, ?retrain, ?cacheSplit, ?cacheFlush, ?stackArea⟩
  case info =>
    rintro _ h rfl
    exact h.ends rfl rfl
  case share => exact fun h => h.ends rfl rfl
  case policy =>
    rintro _ _ h rfl rfl
    exact h.ends rfl (effectMemPolicy_eq _ _)
  case remapRead =>
    rintro m _ h hm rfl
    exact h.ends rfl (effectMemRemapRead_present (by simpa using hm))
  case retrain =>
    intro m h hm
    have hm' : (s.begun id).memPort? (c.f 32 1) = some m := by simpa using hm
    exact ⟨fun hr => h.ends rfl (by rw [effectMemRetrain, State.startRetrain_begins hm' hr]), fun hr => h.ends rfl (by rw [effectMemRetrain, State.startRetrain_retraining hm' hr])⟩
  case cacheSplit => exact fun h => h.ends rfl rfl
  case cacheFlush => exact fun h => h.ends rfl rfl
  case stackArea => exact fun h => h.ends rfl rfl

/-! ### Copies, fills and atomics (R429, R434, R435) -/

/-- A copy that meets no uncorrectable word moves its whole range. -/
theorem effectMemCopy_whole {s : State} {c : Ctx} (h : (s.readAt c (c.f 40 8) (c.f 56 8)).uncorr = []) : effectMemCopy s c =
    (((s.noteReadAt c 4 (c.f 40 8) (c.f 56 8)).storeAt c 4 (c.f 48 8) ((s.readAt c (c.f 40 8) (c.f 56 8)).data.take (c.f 56 8))).1, some resOK) := by
  have hmin : min (c.f 56 8) (c.f 56 8 + 32) = c.f 56 8 := by omega
  simp only [effectMemCopy, h, hmin, List.isEmpty_nil, if_true]

/-- A copy moves the words before its first uncorrectable one. -/
theorem effectMemCopy_cut {s : State} {c : Ctx} {w : Nat} {ws : List Nat} (h : (s.readAt c (c.f 40 8) (c.f 56 8)).uncorr = w :: ws) : effectMemCopy s c =
    (((s.noteReadAt c 4 (c.f 40 8) (min (c.f 56 8) (w - c.f 40 8 + 32))).storeAt c 4 (c.f 48 8) ((s.readAt c (c.f 40 8) (c.f 56 8)).data.take (w - c.f 40 8))).1, some (resStatus stUncorrected)) := by
  simp [effectMemCopy, h]

/-- An atomic without a RESULT address. -/
theorem effectMemAtomic_noResult {s u : State} {c : Ctx} {old : Nat} (h : s.memAtomicAt c.pkt = (u, .inr old)) (hres : c.f 64 8 = 0) : effectMemAtomic s c = (u, some resOK) := by
  have hres' : atResult c.pkt = 0 := hres
  simp only [effectMemAtomic, h, hres', if_true]

/-- An atomic writes the old value at its RESULT address. -/
theorem effectMemAtomic_result {s u : State} {c : Ctx} {old : Nat} (h : s.memAtomicAt c.pkt = (u, .inr old)) (hres : c.f 64 8 ≠ 0) : effectMemAtomic s c =
    ((u.storeAt c 4 (c.f 64 8) (toLE (tyBytes (atTy c.pkt)) old)).1, some ((writeStatus (u.storeAt c 4 (c.f 64 8) (toLE (tyBytes (atTy c.pkt)) old)).2).getD resOK)) := by
  have hres' : atResult c.pkt ≠ 0 := hres
  simp only [effectMemAtomic, h, if_neg hres', storedResult]
  rfl

/-- An atomic other than an add that reads its element whole: `fresh` says that it made a non-finite value of finite ones. -/
theorem State.memAtomicAt_slice {s : State} {p : List Byte} {a n v new : Nat} {fresh : Bool} (ha : a = field p 40 8) (hn : n = tyBytes (atTy p)) (hv : v = field p 48 8 % 256 ^ n)
    (hgood : (s.read a n).good = true) (hop : atOp p ≠ .add) (hnew : new = atomValue (atOp p) (atTy p) (leNat (s.read a n).data) v (field p 56 8 % 256 ^ n))
    (hfresh : fresh = true ↔ atTy p = .fp32 ∧ (atOp p = .min ∨ atOp p = .max) ∧ f32Finite (BitVec.ofNat 32 new) = false ∧ f32Finite (BitVec.ofNat 32 (leNat (s.read a n).data)) = true ∧ f32Finite (BitVec.ofNat 32 v) = true) :
    s.memAtomicAt p = (((if fresh then (s.noteRead 0 a n).countNonfinite 1 else s.noteRead 0 a n).store 0 a (toLE n new)).1, .inr (leNat (s.read a n).data)) := by
  subst ha hn hv hnew
  have hst : readStatus (s.read (field p 40 8) (tyBytes (atTy p))) = none := readStatus_good hgood
  simp only [State.memAtomicAt, if_neg hop, State.sliceAtomic, hst, atAddr, Bool.not_eq_true', ← hfresh]

/-- An add that its port makes. -/
theorem State.memAtomicAt_add {s : State} {p : List Byte} {a n : Nat} {q : State × Option Byte} (ha : a = field p 40 8) (hn : n = tyBytes (atTy p)) (hop : atOp p = .add)
    (hq : q = s.memoryAdd (oneAdd a (addTy (atTy p)) (field p 48 8 % 256 ^ n))) (hok : q.2 = none) : s.memAtomicAt p = (q.1, .inr (leNat (s.read a n).data)) := by
  subst ha hn hq
  simp only [State.memAtomicAt, if_pos hop, atAddr] at hok ⊢
  rw [hok]

/-- Settles O23: a copy by whether it meets an uncorrectable word; an atomic at its slice or at its port, with and without a RESULT address. -/
theorem memDataComplete : Obligations.MemDataComplete := by
  rintro s _ id c rfl
  refine ⟨?copyWhole, ?copyCut, ?fill, ?atSlice, ?atPort⟩
  case copyWhole =>
    rintro _ _ h rfl hu rfl
    exact h.ends rfl (effectMemCopy_whole hu)
  case copyCut =>
    rintro _ w ws _ h rfl hu rfl
    exact h.ends rfl (effectMemCopy_cut hu)
  case fill => exact fun h => h.ends rfl rfl
  case atSlice =>
    rintro a n v new _ _ fresh h ha hn hv rfl hgood hop hnew hfresh rfl
    have hat := State.memAtomicAt_slice (s := s.begun id) ha hn hv hgood hop hnew hfresh
    subst hn
    refine ⟨fun hres => h.ends rfl (effectMemAtomic_noResult hat hres), ?_⟩
    rintro _ hres rfl
    exact h.ends rfl (effectMemAtomic_result hat hres)
  case atPort =>
    intro a n q k h ha hn hop hq hok
    have hat := State.memAtomicAt_add ha hn hop hq hok
    subst hn
    refine ⟨fun hres => h.ends rfl (effectMemAtomic_noResult hat hres), ?_⟩
    rintro hres rfl
    exact h.ends rfl (effectMemAtomic_result hat hres)

end Sys2Proof.Machine
end

section
/-! SUPPORT. The events of the memory system (R398 to R414, R473, R474). -/
namespace Sys2Proof.Machine

/-! ### Timing samples and retrains (R401) -/

section
variable {s : State} {p : Nat} {q : Rat} {m : MemPort} (h : s.memPort? p = some m)
include h

/-- A sample of at least half the trained margin is kept alone. -/
theorem memTimingSample_kept (hm : m.retraining = false) (hq : m.trainedMargin / 2 ≤ q) : Runs (.memTimingSample p q) s (s.updMemPort p (fun m => { m with measuredMargin := q })) := by
  show execMemTimingSample p q s = _
  simp [execMemTimingSample, h, hm, hq]

/-- A sample below a quarter of the trained margin, or below half with no step, begins the retrain. -/
theorem memTimingSample_retrains (hm : m.retraining = false) (hq : q < m.trainedMargin / 2) (hnow : q < m.trainedMargin / 4 ∨ s.stepRunning = false) :
    Runs (.memTimingSample p q) s (((s.updMemPort p (fun m => { m with measuredMargin := q })).updMemPort p (fun m => { m with retraining := true, retrainPending := false })).decision 2 p
      [marginWord m.trainedMargin, marginWord q] 0 0) := by
  have hu : (s.updMemPort p (fun m => { m with measuredMargin := q })).memPort? p = some { m with measuredMargin := q } := State.memPort?_updMemPort (fun _ => rfl) (fun _ => rfl) h
  have hnow' : q < m.trainedMargin / 4 ∨ (!s.stepRunning) = true := by simpa using hnow
  show execMemTimingSample p q s = _
  simp only [execMemTimingSample, h, hm, Bool.false_eq_true, if_false, if_neg (not_le.mpr hq), if_pos hnow', State.startRetrain_begins hu hm]

/-- Any other sample below half leaves the retrain to the boundary. -/
theorem memTimingSample_pends (hm : m.retraining = false) (hq : q < m.trainedMargin / 2) (h4 : m.trainedMargin / 4 ≤ q) (hstep : s.stepRunning = true) :
    Runs (.memTimingSample p q) s ((s.updMemPort p (fun m => { m with measuredMargin := q })).updMemPort p (fun m => { m with retrainPending := true })) := by
  show execMemTimingSample p q s = _
  simp [execMemTimingSample, h, hm, not_le.mpr hq, not_lt.mpr h4, hstep]

/-- A retrain that succeeds trains the port to its new margin. -/
theorem memPortRetrainDone_ok (hm : m.retraining = true) :
    Runs (.memPortRetrainDone p true q) s ((s.updMemPort p (fun m => { m with retraining := false, measuredMargin := q, trainedMargin := q })).memEvent p (fun g => { g with evRetrain := true })) := by
  show execMemPortRetrainDone p true q s = _
  simp [execMemPortRetrainDone, h, hm]

/-- A retrain that fails is logged and raises the wave. -/
theorem memPortRetrainDone_fails (hm : m.retraining = true) : Runs (.memPortRetrainDone p false q) s
    (((s.updMemPort p (fun m => { m with retraining := false, measuredMargin := q })).decision 2 p [marginWord m.trainedMargin, marginWord q] 2 3).raiseWave 0x0F 0) := by
  show execMemPortRetrainDone p false q s = _
  simp [execMemPortRetrainDone, h, hm]

end

/-! ### Temperature readings (R407, R408) -/

/-- What a plausible reading leaves in the record of a port without SENSOR_FAULT. -/
theorem MemPort.take_plausible {m : MemPort} {t : Rat} (hf : m.sensorFault = false) (hp : plausibleTemp (-40) 140 m.lastTemp (some t) = true) :
    (m.take (some t)).sensorFault = false ∧ (m.take (some t)).implausible = 0 ∧ (m.take (some t)).temp = t := by
  simp [MemPort.take, hp, hf, MemPort.temp]

section
variable {s : State} {p : Nat} {t : Rat} {m : MemPort} (h : s.memPort? p = some m) (hf : m.sensorFault = false)
include h hf

/-- A plausible reading, with what the two readings ask for still to be judged. -/
theorem memTempRead_plausible {u v : State} (hi : m.implausible = 0) (hp : plausibleTemp (-40) 140 m.lastTemp (some t) = true) (hu : u = (s.updMemPort p (fun _ => m.take (some t))).refreshLogged (s.refreshOf m) p 0)
    (hv : v = if m.lastTemp.isSome && decide (105 ≤ min m.temp t) then u.decision 1 p [s.refreshOf m, u.refreshOf (m.take (some t)), ratWord t] 0 0 else u) :
    Runs (.memTempRead p (some t)) s (if m.lastTemp.isSome && decide (110 ≤ min m.temp t) then v.raiseWave 0x0E 0 else v) := by
  obtain ⟨hfault, himplausible, htemp⟩ := MemPort.take_plausible hf hp
  subst hu hv
  show execMemTempRead p (some t) s = _
  simp only [execMemTempRead, h, hi, hfault, himplausible, htemp, Bool.false_and, Bool.false_eq_true, if_false, decide_true, Bool.true_and]

/-- The third implausible reading begins SENSOR_FAULT. -/
theorem memTempRead_faults (hi : m.implausible = 2) : Runs (.memTempRead p none) s
    (((s.updMemPort p (fun _ => { m with implausible := 3, plausible := 0, sensorFault := true })).memEvent p (fun g => { g with evSensor := true })).refreshLogged (s.refreshOf m) p 3) := by
  have htake : m.take none = { m with implausible := 3, plausible := 0, sensorFault := true } := by simp [MemPort.take, plausibleTemp, hi]
  show execMemTempRead p none s = _
  simp [execMemTempRead, h, htake, hf, hi]

end

/-! ### Row remapping (R411, R412) -/

section
variable {s : State} {p ch row : Nat} {m : MemPort} {rest : List (Nat × Nat)} (h : s.memPort? p = some m) (hq : m.remapQueue = (ch, row) :: rest) (hpin : s.gddr.pinRemap = false)
  (huse : s.rowInUse m ch row = true)
include h hq hpin huse

/-- A chosen row is remapped to the nearest free spare. -/
theorem rowRemap_remaps {sp : Nat} (hroom : m.remaps.length < 4096 ∨ m.origin ch row ≠ row) (hsp : m.nearestSpare ch s.physRows row = some sp) :
    Runs (.rowRemap p) s ((s.updMemPort p (fun m => { m with remapQueue := rest })).remapTo p ch row sp m) := by
  have hfull : ¬ (4096 ≤ m.remaps.length ∧ m.origin ch row = row) := fun ⟨h1, h2⟩ => hroom.elim (fun h => absurd h (by omega)) (fun h => h h2)
  show execRowRemap p s = _
  simp [execRowRemap, h, hq, hpin, huse, hfull, hsp]

/-- A chosen row with no entry or no spare left for it stays. -/
theorem rowRemap_full (hnone : (4096 ≤ m.remaps.length ∧ m.origin ch row = row) ∨ m.nearestSpare ch s.physRows row = none) :
    Runs (.rowRemap p) s ((((s.updMemPort p (fun m => { m with remapQueue := rest })).updMemPort p (fun m => { m with remapFull := true })).memEvent p (fun g => { g with evRemapFull := true })).decision 3 p
      [row, 0, assocGet m.counts (ch, row) 0] 2 0) := by
  have hsp : (if 4096 ≤ m.remaps.length ∧ m.origin ch row = row then none else m.nearestSpare ch s.physRows row) = none := by
    split
    · rfl
    · next hroom => exact hnone.resolve_left hroom
  show execRowRemap p s = _
  simp only [execRowRemap, h, hq, hpin, huse, hsp, Bool.false_eq_true, if_false, Bool.not_true]

end

/-! ### Patrols (R414, R473) -/

/-- Check bursts do not touch what a word decodes to. -/
theorem State.useBursts_readWord (s : State) (ls : List Nat) (wa : Nat) (raw : List Byte) : (s.useBursts ls).mem.readWord wa raw = s.mem.readWord wa raw := by
  simp only [Memory.readWord, State.useBursts_errs]

/-- What a scrub of a row does with one word in error. -/
def State.scrubWord (s : State) (wa : Nat) : State :=
  match (s.mem.readWord wa (cellRead s.mem.cells wa 32)).1 with
  | .corrected _ _ => ({ s with mem := s.mem.repair wa }).noteCorrected wa
  | .uncorrectable => s.noteUncorr wa
  | .clean => s

/-- A corrected word is repaired and counted. -/
theorem State.scrubWord_corrected {s : State} {wa x : Nat} {y : Byte} (h : (s.mem.readWord wa (cellRead s.mem.cells wa 32)).1 = .corrected x y) :
    s.scrubWord wa = ({ s with mem := s.mem.repair wa } : State).noteCorrected wa := by
  simp only [State.scrubWord, h]

/-- An uncorrectable word is counted. -/
theorem State.scrubWord_uncorrectable {s : State} {wa : Nat} (h : (s.mem.readWord wa (cellRead s.mem.cells wa 32)).1 = .uncorrectable) : s.scrubWord wa = s.noteUncorr wa := by
  simp only [State.scrubWord, h]

/-- A scrub of a row in use takes its words in error one after another; the port's counts clear with its last row. -/
theorem gddrScrub_words {s : State} {p ch row : Nat} {m : MemPort} (h : s.memPort? p = some m) (hm : m.retraining = false) (hch : ch < 4) (huse : s.rowInUse m ch row = true) :
    Runs (.gddrScrub p ch row) s (if ch = 3 ∧ row = s.lastScrubbed m then ((s.rowErrs p ch row).foldl State.scrubWord (s.useBursts (s.rowLines m ch row))).updMemPort p (fun m => { m with counts := [] })
      else (s.rowErrs p ch row).foldl State.scrubWord (s.useBursts (s.rowLines m ch row))) := by
  have hskip : ¬ (m.retraining = true ∨ 4 ≤ ch ∨ (!s.rowInUse m ch row) = true) := by simp [hm, huse, hch]
  show execGddrScrub p ch row s = _
  simp only [execGddrScrub, h, if_neg hskip]
  rfl

/-- A scrub of a row with one word in error, not the last of its port. -/
theorem gddrScrub_word {s : State} {p ch row wa : Nat} {m : MemPort} (h : s.memPort? p = some m) (hm : m.retraining = false) (hch : ch < 4) (huse : s.rowInUse m ch row = true)
    (herr : s.rowErrs p ch row = [wa]) (hlast : ch ≠ 3 ∨ row ≠ s.lastScrubbed m) : Runs (.gddrScrub p ch row) s ((s.useBursts (s.rowLines m ch row)).scrubWord wa) := by
  have hruns := gddrScrub_words h hm hch huse
  rwa [herr, if_neg (by tauto)] at hruns

/-- A patrol of a word of scratch that is not the ridge's last. -/
theorem scratchPatrol_word {s : State} {r w : Nat} (hr : r ∈ s.enabled) (hw : w + 1 < scratchWords) :
    Runs (.scratchPatrol r w) s (s.patrolWord (scratchBase + s.logical r * 0x2000000 + 32 * w)) := by
  have hskip : ¬ ((!s.enabled.contains r) = true ∨ scratchWords ≤ w) := by simp [hr]; omega
  show execScratchPatrol r w s = _
  simp only [execScratchPatrol, if_neg hskip, if_neg (Nat.ne_of_lt hw)]

/-- A patrol of a word of the direct region. -/
theorem cachePatrol_word {s : State} {sl w : Nat} (hsl : sl < 8) (hw : 32 * w < s.mem.direct * 2 ^ 20) : Runs (.cachePatrol sl w) s (s.patrolWord (directAddr sl w)) := by
  have hskip : ¬ (8 ≤ sl ∨ s.mem.direct * 2 ^ 20 ≤ 32 * w) := by omega
  show execCachePatrol sl w s = _
  simp only [execCachePatrol, if_neg hskip]

/-- Settles O24: timing samples by how far they fall, readings by their plausibility, a chosen row by whether a spare is free, a patrol by what its word decodes to. -/
theorem memEventsComplete : Obligations.MemEventsComplete := by
  intro s
  refine ⟨?timing, ?retrainDone, ?plausible, ?sensorFault, ?remap, ?pinned, ?remapFlash, ?scrubClean, ?scrubWord, ?scratchPatrol, ?cachePatrol, ?copyDone, ?writeBatch⟩
  case timing =>
    rintro p q m _ h hm rfl
    exact ⟨memTimingSample_kept h hm, memTimingSample_retrains h hm, memTimingSample_pends h hm⟩
  case retrainDone => exact fun p q m h hm => ⟨memPortRetrainDone_ok h hm, memPortRetrainDone_fails h hm⟩
  case plausible =>
    rintro p t m _ _ h hf hi hp rfl rfl
    have hruns := memTempRead_plausible h hf hi hp rfl rfl
    constructor
    · intro hcold
      have hmin : min m.temp t < 105 := hcold.elim (fun h => min_lt_of_right_lt h) (fun h => min_lt_of_left_lt h)
      have h105 : ¬ 105 ≤ min m.temp t := not_le.mpr hmin
      have h110 : ¬ 110 ≤ min m.temp t := not_le.mpr (hmin.trans (by norm_num))
      rwa [decide_eq_false h105, decide_eq_false h110, Bool.and_false, if_neg Bool.false_ne_true, if_neg Bool.false_ne_true] at hruns
    · intro x hx h110x h110t
      have h110 : 110 ≤ min m.temp t := by rw [MemPort.temp, hx]; exact le_min h110x h110t
      have h105 : 105 ≤ min m.temp t := le_trans (by norm_num) h110
      rwa [decide_eq_true h105, decide_eq_true h110, hx, Option.isSome_some, Bool.and_true, if_pos rfl, if_pos rfl] at hruns
  case sensorFault => exact fun p m h hf hi => memTempRead_faults h hf hi
  case remap =>
    rintro p m ch row rest _ h hq hpin huse rfl
    exact ⟨fun sp => rowRemap_remaps h hq hpin huse, rowRemap_full h hq hpin huse⟩
  case pinned =>
    intro p m x rest h hq hpin
    show execRowRemap p s = _
    simp [execRowRemap, h, hq, hpin]
  case remapFlash =>
    intro e rest h
    show execRemapFlashWrite s = _
    simp only [execRemapFlashWrite, h]
  case scrubClean =>
    rintro p ch row m _ h hm hch huse herr rfl
    have hruns := gddrScrub_words h hm hch huse
    rwa [herr] at hruns
  case scrubWord =>
    rintro p ch row m wa _ h hm hch huse herr hlast rfl
    have hruns := gddrScrub_word h hm hch huse herr hlast
    have hword : ((s.useBursts (s.rowLines m ch row)).mem.readWord wa (cellRead (s.useBursts (s.rowLines m ch row)).mem.cells wa 32)) = s.mem.readWord wa (cellRead s.mem.cells wa 32) := by
      rw [State.useBursts_readWord, State.useBursts_cells]
    constructor
    · intro x y hx
      rwa [State.scrubWord_corrected (by rw [hword]; exact hx)] at hruns
    · intro hu
      rwa [State.scrubWord_uncorrectable (by rw [hword]; exact hu)] at hruns
  case scratchPatrol =>
    rintro r w _ hr hw rfl
    have hruns := scratchPatrol_word hr hw
    refine ⟨fun hc => ?_, fun x y hc => ?_, fun hc => ?_⟩ <;> simpa only [State.patrolWord, hc] using hruns
  case cachePatrol => exact fun sl w => cachePatrol_word
  case copyDone => exact rfl
  case writeBatch => exact fun ch => rfl

end Sys2Proof.Machine
end

section
/-! SUPPORT. The rows of the memory system keep device memory in canonical form (R420, R434). -/
namespace Sys2Proof.Machine

/-! ### The operations of the rows -/

/-- What follows a command keeps the form of memory that its effect left. -/
theorem State.settle_wf {s u : State} (hs : s.mem.wf = true) (hu : u.mem.wf = true) : (s.settle u).mem.wf = true := by
  rcases State.settle_cases s u with h | h
  · rw [h]; exact hs
  · rw [h]; exact (s.settled_keepsForm u).wf hu

/-- A command keeps the form when its effect does. -/
theorem State.runCmd_wf {s : State} {i : OpInfo} {id : Nat} {e : State → Ctx → State × Option Result} (hs : s.mem.wf = true)
    (he : ∀ (b : State) (c : Ctx), b.mem.wf = true → (e b c).1.mem.wf = true) : (s.runCmd i id e).mem.wf = true := by
  unfold State.runCmd
  split
  · exact hs
  · next c _ =>
    dsimp only
    split
    · exact hs
    · split
      · exact he (s.begun id) (s.ctxOf c) hs
      · exact he (s.begun id) (s.ctxOf c) hs

/-- A write at an address of a packet. -/
theorem State.storeAt_wf {s : State} (h : s.mem.wf = true) (c : Ctx) (cls a : Nat) (bs : List Byte) : (s.storeAt c cls a bs).1.mem.wf = true := by
  unfold State.storeAt
  split
  · exact h
  · exact State.store_wf h cls a bs

/-- The counts of a read at an address of a packet. -/
theorem State.noteReadAt_wf {s : State} (h : s.mem.wf = true) (c : Ctx) (cls a n : Nat) : (s.noteReadAt c cls a n).mem.wf = true := by
  unfold State.noteReadAt
  split
  · exact h
  · exact State.noteRead_wf h cls a n

/-- A wave. -/
theorem State.raiseWave_wf {s : State} (h : s.mem.wf = true) (cause status : Byte) : (s.raiseWave cause status).mem.wf = true := (s.raiseWave_keepsBanks cause status).wf h

theorem State.refreshLogged_wf {s : State} (h : s.mem.wf = true) (old p cause : Nat) : (s.refreshLogged old p cause).mem.wf = true := by
  unfold State.refreshLogged
  split
  · exact h
  · split
    · exact h
    · exact State.decision_wf h _ _ _ _ _

theorem State.startRetrain_wf {s : State} (h : s.mem.wf = true) (p cause : Nat) : (s.startRetrain p cause).mem.wf = true := by
  unfold State.startRetrain
  split
  · exact h
  · split
    · exact h
    · exact State.decision_wf (s := s.updMemPort p _) h _ _ _ _ _

theorem Memory.flush_wf {m : Memory} (h : m.wf = true) : m.flush.wf = true := by rw [Memory.wf, Memory.flush_cells]; exact h

theorem Memory.release_wf {m : Memory} (h : m.wf = true) (a : Nat) : (m.release a).wf = true := by
  unfold Memory.release
  split
  · split
    · exact h
    · rw [Memory.wf, Memory.evict_cells]; exact h
  · exact h

@[simp] theorem State.countAdds_mem (s : State) (k : Nat × Nat) : (s.countAdds k).mem = s.mem := by
  unfold State.countAdds
  split
  · exact s.countNonfinite_mem _
  · exact s.countNonfinite_mem _

/-- The write of an add whose line its port has released. -/
theorem State.addReleased_wf {s : State} (h : s.mem.wf = true) (a : Nat) (k : Nat × Nat) (bs : List Byte) :
    (((({ s with mem := s.mem.release a } : State).countAdds k).store 5 a bs).1.holdSector a).mem.wf = true :=
  State.store_wf (by rw [State.countAdds_mem]; exact Memory.release_wf h a) 5 a bs

/-- An add at its port, or in the line of a pinned accumulator. -/
theorem State.memoryAdd_wf {s : State} (h : s.mem.wf = true) (r : AddReq) : (s.memoryAdd r).1.mem.wf = true := by
  have hread : (({ s with mem := s.mem.release r.addr } : State).noteRead 0 r.addr 32).mem.wf = true := State.noteRead_wf (s := { s with mem := s.mem.release r.addr }) (Memory.release_wf h _) _ _ _
  unfold State.memoryAdd
  dsimp only
  generalize ({ s with mem := s.mem.release r.addr } : State).noteRead 0 r.addr 32 = s1 at hread
  split
  · exact hread
  · split
    · exact State.store_wf (by rw [State.countAdds_mem]; exact hread) _ _ _
    · exact State.addReleased_wf hread _ _ _

/-- An atomic at its slice. -/
theorem State.sliceAtomic_wf {s : State} (h : s.mem.wf = true) (r : AtomReq) : (s.sliceAtomic r).1.mem.wf = true := by
  unfold State.sliceAtomic
  dsimp only
  split
  · exact State.noteRead_wf h _ _ _
  · refine State.store_wf ?_ _ _ _
    split
    · rw [State.countNonfinite_mem]; exact State.noteRead_wf h _ _ _
    · exact State.noteRead_wf h _ _ _

theorem State.memAtomicAt_wf {s : State} (h : s.mem.wf = true) (p : List Byte) : (s.memAtomicAt p).1.mem.wf = true := by
  unfold State.memAtomicAt
  dsimp only
  split
  · exact State.memoryAdd_wf h _
  · exact State.sliceAtomic_wf h _

/-- A row moves to its spare word by word. -/
theorem State.remapTo_wf {s : State} (h : s.mem.wf = true) (port ch row spare : Nat) (m : MemPort) : (s.remapTo port ch row spare m).mem.wf = true := by
  have hcopy : ((s.rowErrs port ch row).foldl Memory.copyWord s.mem).wf = true := Memory.foldl_wf (fun m wa hm => Memory.copyWord_wf hm wa) _ h
  unfold State.remapTo
  dsimp only
  refine State.decision_wf ?_ _ _ _ _ _
  split
  · exact hcopy
  · exact hcopy

theorem State.patrolWord_wf {s : State} (h : s.mem.wf = true) (wa : Nat) : (s.patrolWord wa).mem.wf = true := by
  unfold State.patrolWord
  split
  · exact State.noteCorrected_wf (s := { s with mem := s.mem.repair wa }) (Memory.repair_wf h wa) wa
  · exact State.noteUncorr_wf (s := { s with mem := s.mem.putWords wa poisonWord }) (Memory.putWords_wf h wa _) wa
  · exact h

theorem State.scrubWord_wf {s : State} (h : s.mem.wf = true) (wa : Nat) : (s.scrubWord wa).mem.wf = true := by
  unfold State.scrubWord
  split
  · exact State.noteCorrected_wf (s := { s with mem := s.mem.repair wa }) (Memory.repair_wf h wa) wa
  · exact State.noteUncorr_wf h wa
  · exact h

theorem State.useBursts_wf {s : State} (h : s.mem.wf = true) (ls : List Nat) : (s.useBursts ls).mem.wf = true := by rw [Memory.wf, State.useBursts_cells]; exact h

/-! ### The effects of the commands -/

theorem effectMemRemapRead_wf {s : State} (h : s.mem.wf = true) (c : Ctx) : (effectMemRemapRead s c).1.mem.wf = true := by
  unfold effectMemRemapRead
  split
  · exact h
  · exact State.storeAt_wf h _ _ _ _

theorem effectMemPolicy_wf {s : State} (h : s.mem.wf = true) (c : Ctx) : (effectMemPolicy s c).1.mem.wf = true := by
  rw [effectMemPolicy_eq]
  exact foldl_wf (fun u p hu => State.refreshLogged_wf hu _ p 1) _ h

theorem effectMemAtomic_wf {s : State} (h : s.mem.wf = true) (c : Ctx) : (effectMemAtomic s c).1.mem.wf = true := by
  have hat := State.memAtomicAt_wf h c.pkt
  unfold effectMemAtomic
  dsimp only
  split
  · split
    · exact hat
    · exact State.poisonRanges_wf hat _ _
  · split
    · exact hat
    · exact State.storeAt_wf hat _ _ _ _

/-! ### The events -/

/-- A row whose effect keeps memory in canonical form. -/
def RowKeepsForm (i : Instr) (s : State) : Prop := ∃ u, Runs i s u ∧ u.mem.wf = true

/-- A command's row keeps the form when its effect does. -/
theorem RowKeepsForm.of_cmd {i : Instr} {s : State} {info : OpInfo} {id : Nat} {e : State → Ctx → State × Option Result} (hx : exec i s = .next (s.settle (s.runCmd info id e))) (hs : s.mem.wf = true)
    (he : ∀ (b : State) (c : Ctx), b.mem.wf = true → (e b c).1.mem.wf = true) : RowKeepsForm i s := ⟨_, hx, State.runCmd_wf hs he⟩

/-- What such a row leaves is in canonical form. -/
theorem RowKeepsForm.next {i : Instr} {s t : State} (h : RowKeepsForm i s) (hs : s.mem.wf = true) (hx : exec i s = .next t) : t.mem.wf = true := by
  obtain ⟨u, hu, hwf⟩ := h
  rw [hu] at hx
  cases hx
  exact State.settle_wf hs hwf

theorem memTimingSample_keepsForm {s : State} (h : s.mem.wf = true) (p : Nat) (q : Rat) : RowKeepsForm (.memTimingSample p q) s := by
  refine ⟨_, rfl, ?_⟩
  split
  · exact h
  · split
    · exact h
    · dsimp only
      split
      · exact h
      · split
        · exact State.startRetrain_wf (s := s.updMemPort p _) h p 0
        · exact h

theorem memPortRetrainDone_keepsForm {s : State} (h : s.mem.wf = true) (p : Nat) (ok : Bool) (q : Rat) : RowKeepsForm (.memPortRetrainDone p ok q) s := by
  refine ⟨_, rfl, ?_⟩
  split
  · exact h
  · split
    · exact h
    · dsimp only
      split
      · exact h
      · exact State.raiseWave_wf (State.decision_wf (s := s.updMemPort p _) h _ _ _ _ _) _ _

theorem memTempRead_keepsForm {s : State} (h : s.mem.wf = true) (p : Nat) (r : Option Rat) : RowKeepsForm (.memTempRead p r) s := by
  refine ⟨_, rfl, ?_⟩
  split
  · exact h
  · next m _ =>
    have hlog (u : State) (hu : u.mem = s.mem) (old cause : Nat) : (u.refreshLogged old p cause).mem.wf = true := State.refreshLogged_wf (by rw [hu]; exact h) _ _ _
    have hfault : (if (m.take r).sensorFault && !m.sensorFault then (s.updMemPort p (fun _ => m.take r)).memEvent p (fun g => { g with evSensor := true }) else s.updMemPort p (fun _ => m.take r)).mem = s.mem := by
      split <;> rfl
    dsimp only
    split
    · refine State.raiseWave_wf ?_ _ _
      split
      · exact State.decision_wf (hlog _ hfault _ _) _ _ _ _ _
      · exact hlog _ hfault _ _
    · split
      · exact State.decision_wf (hlog _ hfault _ _) _ _ _ _ _
      · exact hlog _ hfault _ _

theorem rowRemap_keepsForm {s : State} (h : s.mem.wf = true) (p : Nat) : RowKeepsForm (.rowRemap p) s := by
  refine ⟨_, rfl, ?_⟩
  split
  · exact h
  · split
    · exact h
    · dsimp only
      split
      · exact h
      · split
        · exact h
        · split
          · exact State.remapTo_wf (s := s.updMemPort p _) h _ _ _ _ _
          · refine State.decision_wf ?_ _ _ _ _ _
            exact h

theorem remapFlashWrite_keepsForm {s : State} (h : s.mem.wf = true) : RowKeepsForm .remapFlashWrite s := by
  refine ⟨_, rfl, ?_⟩
  split <;> exact h

theorem gddrScrub_keepsForm {s : State} (h : s.mem.wf = true) (p ch row : Nat) : RowKeepsForm (.gddrScrub p ch row) s := by
  refine ⟨_, rfl, ?_⟩
  have hwords (ls ws : List Nat) : (ws.foldl State.scrubWord (s.useBursts ls)).mem.wf = true := foldl_wf (fun s wa hs => State.scrubWord_wf hs wa) _ (State.useBursts_wf h ls)
  split
  · exact h
  · split
    · exact h
    · dsimp only
      split
      · exact hwords _ _
      · exact hwords _ _

theorem scratchPatrol_keepsForm {s : State} (h : s.mem.wf = true) (r w : Nat) : RowKeepsForm (.scratchPatrol r w) s := by
  refine ⟨_, rfl, ?_⟩
  split
  · exact h
  · dsimp only
    split
    · exact State.patrolWord_wf h _
    · exact State.patrolWord_wf h _

theorem cachePatrol_keepsForm {s : State} (h : s.mem.wf = true) (l w : Nat) : RowKeepsForm (.cachePatrol l w) s := by
  refine ⟨_, rfl, ?_⟩
  split
  · exact h
  · exact State.patrolWord_wf h _

theorem tripPowerOff_keepsForm {s : State} (h : s.mem.wf = true) : RowKeepsForm .tripPowerOff s := by
  refine ⟨_, rfl, ?_⟩
  split
  · exact h
  · exact Memory.powerLost_wf h

/-- Settles O54: each row's effect is made of operations that keep memory in canonical form, and so is what follows every command (`State.settle_wf`). -/
theorem memoryRowsKeepItsForm : Obligations.MemoryRowsKeepItsForm := by
  intro i s t hrow hs hx
  refine RowKeepsForm.next ?_ hs hx
  rcases hrow with ⟨id, rfl⟩ | ⟨id, rfl⟩ | ⟨id, rfl⟩ | ⟨id, rfl⟩ | ⟨id, rfl⟩ | ⟨id, rfl⟩ | ⟨id, rfl⟩ | ⟨id, rfl⟩ | ⟨id, rfl⟩ | ⟨id, rfl⟩ | ⟨id, rfl⟩ | ⟨p, q, rfl⟩ | ⟨p, ok, q, rfl⟩ | ⟨p, r, rfl⟩ | ⟨p, rfl⟩ | rfl | ⟨p, ch, row, rfl⟩ |
    ⟨r, w, rfl⟩ | ⟨l, w, rfl⟩ | rfl | ⟨ch, rfl⟩ | rfl
  · exact .of_cmd rfl hs fun _ c hb => State.storeAt_wf hb c _ _ _
  · exact .of_cmd rfl hs fun _ _ hb => hb
  · exact .of_cmd rfl hs fun _ c hb => effectMemPolicy_wf hb c
  · exact .of_cmd rfl hs fun _ c hb => effectMemRemapRead_wf hb c
  · exact .of_cmd rfl hs fun _ _ hb => State.startRetrain_wf hb _ _
  · exact .of_cmd rfl hs fun _ _ hb => Memory.split_wf hb _
  · exact .of_cmd rfl hs fun _ _ hb => Memory.flush_wf hb
  · exact .of_cmd rfl hs fun _ _ hb => hb
  · exact .of_cmd rfl hs fun _ c hb => State.storeAt_wf (State.noteReadAt_wf hb c _ _ _) c _ _ _
  · exact .of_cmd rfl hs fun _ c hb => State.storeAt_wf hb c _ _ _
  · exact .of_cmd rfl hs fun _ c hb => effectMemAtomic_wf hb c
  · exact memTimingSample_keepsForm hs p q
  · exact memPortRetrainDone_keepsForm hs p ok q
  · exact memTempRead_keepsForm hs p r
  · exact rowRemap_keepsForm hs p
  · exact remapFlashWrite_keepsForm hs
  · exact gddrScrub_keepsForm hs p ch row
  · exact scratchPatrol_keepsForm hs r w
  · exact cachePatrol_keepsForm hs l w
  · exact ⟨_, rfl, hs⟩
  · exact ⟨_, rfl, State.useBursts_wf (s := { s with mem := { s.mem with held := s.mem.held.filter (fun a => decide (s.channelOf a ≠ ch)) } }) hs _⟩
  · exact tripPowerOff_keepsForm hs

end Sys2Proof.Machine
end

section
/-! SUPPORT. MEM.FILL on a calm chip (R434). -/
namespace Sys2Proof.Machine

/-! ### Accesses leave the banks alone -/

/-- The banks of a memory: those flagged and those in quarantine. -/
def Memory.banks (m : Memory) : List (Nat × Nat) × List (Option (Nat × Nat)) := (m.flagged, m.quarantine)

@[simp] theorem Memory.hold_banks (m : Memory) (ws : List Nat) : (m.hold ws).banks = m.banks := by
  unfold Memory.hold
  split <;> rfl

@[simp] theorem Memory.evict_banks (m : Memory) (c : CLine) : (m.evict c).banks = m.banks := by
  unfold Memory.evict
  dsimp only
  split
  · rw [Memory.hold_banks]; rfl
  · rfl

@[simp] theorem Memory.touch_banks (m : Memory) (alloc write : Bool) (l : Nat) : (m.touch alloc write l).banks = m.banks := by
  unfold Memory.touch
  split
  · rfl
  · split
    · rfl
    · dsimp only
      split
      · rfl
      · exact m.evict_banks _

theorem Memory.foldl_touch_banks (alloc write : Bool) (ls : List Nat) (m : Memory) : (ls.foldl (fun m l => m.touch alloc write l) m).banks = m.banks := by
  induction ls generalizing m with
  | nil => rfl
  | cons l ls ih => rw [List.foldl_cons, ih, Memory.touch_banks]

@[simp] theorem Memory.access_banks (m : Memory) (cls : Nat) (w : Bool) (a n : Nat) : (m.access cls w a n).banks = m.banks := by
  unfold Memory.access
  dsimp only
  split
  · rw [Memory.hold_banks, Memory.foldl_touch_banks]
  · exact Memory.foldl_touch_banks _ _ _ m

theorem Memory.foldl_useBurst_banks (c : Nat) (ls : List Nat) (m : Memory) : (ls.foldl (Memory.useBurst c) m).banks = m.banks := by
  induction ls generalizing m with
  | nil => rfl
  | cons l ls ih => rw [List.foldl_cons, ih]; rfl

/-- An access is followed by the caching region and the check bursts, not by the banks. -/
@[simp] theorem State.access_banks (s : State) (cls : Nat) (w : Bool) (a n : Nat) : (s.access cls w a n).mem.banks = s.mem.banks := by
  unfold State.access State.useBursts
  dsimp only
  rw [Memory.foldl_useBurst_banks, Memory.access_banks]

/-- A read sees the cells and the errors alone. -/
theorem Memory.read_congr {m m' : Memory} (hcells : m.cells = m'.cells) (herrs : m.errs = m'.errs) (a n : Nat) : m.read a n = m'.read a n := by
  simp only [Memory.read, Memory.readWords, Memory.readWord, hcells, herrs]

/-! ### Whole words stored -/

/-- A store of whole words meets nothing, so that no count follows it. -/
theorem State.store_words (s : State) {cls a : Nat} {bs : List Byte} (ha : a % 32 = 0) (hlen : bs.length % 32 = 0) :
    s.store cls a bs = (({ s with mem := (s.mem.write a bs).1 } : State).access cls true a bs.length, .none) := by
  have hnone : (s.mem.write a bs).2 = .none := by
    by_cases hne : bs = []
    · rw [hne]; rfl
    · rw [s.mem.write_words ha hlen hne]
  simp [State.store, hnone, WriteRes.none]

/-- A write of whole words leaves the banks alone. -/
theorem Memory.write_words_banks (m : Memory) {a : Nat} {bs : List Byte} (ha : a % 32 = 0) (hlen : bs.length % 32 = 0) : (m.write a bs).1.banks = m.banks := by
  by_cases hne : bs = []
  · rw [hne]; rfl
  · rw [m.write_words ha hlen hne]; rfl

/-! ### Calm chips -/

/-- A chip is calm by its banks, ridges, tests, plans, ports and records, and no more. -/
theorem State.calm.of_eq {s u : State} (h : s.calm) (hbanks : u.mem.banks = s.mem.banks) (hridges : u.ridges = s.ridges) (hhealth : u.health = s.health) (hplans : u.plans = s.plans)
    (hhost : u.host = s.host) (hlink : u.link = s.link) (hout : u.out = s.out) : u.calm := by
  obtain ⟨hflagged, hquarantine⟩ := Prod.mk.inj hbanks
  have hmode (r : Ridge) : u.normalRidge r = s.normalRidge r := by
    unfold State.normalRidge State.physical State.enabled
    rw [hquarantine, hridges, hhealth]
  exact
    { noFlag := hflagged.trans h.noFlag
      modes := fun r hr => (hmode r).trans (h.modes r (hridges ▸ hr))
      noStep := hplans ▸ h.noStep
      noBarrier := hplans ▸ h.noBarrier
      noPark := hhost ▸ h.noPark
      auths := hlink ▸ h.auths
      posted := by rw [hout, hlink]; exact h.posted
      slots := hlink ▸ h.slots }

/-- A command that has stored whole words leaves a calm chip calm. -/
theorem State.calm.wordsStored {s : State} (h : s.calm) {id cls a : Nat} {bs : List Byte} {r : Result} (ha : a % 32 = 0) (hlen : bs.length % 32 = 0) :
    ((({ s.begun id with mem := (s.mem.write a bs).1 } : State).access cls true a bs.length).endCmd id r).calm := by
  refine h.of_eq ?_ rfl rfl rfl rfl rfl rfl
  rw [State.endCmd_mem, State.access_banks]
  exact s.mem.write_words_banks ha hlen

/-! ### MEM.FILL -/

/-- A fill that passes its check names whole words. -/
theorem memFill_aligned {s : State} {id : Nat} {c : Ctx} (h : Ready s memFillInfo id c) : c.f 40 8 % 32 = 0 ∧ c.f 48 8 % 32 = 0 := by
  obtain ⟨_, _, _, hcheck⟩ := h
  have hnone := filter_fails_of_firstBreach hcheck
  simp only [List.filter_append, List.append_eq_nil_iff] at hnone
  obtain ⟨⟨_, hstatic⟩, _⟩ := hnone
  have hpass := List.filter_eq_nil_iff.mp hstatic
  constructor
  · simpa [bAlign] using hpass (bAlign (decide (c.f 40 8 % 32 ≠ 0)) 40) List.mem_cons_self
  · simpa [bAlign] using hpass (bAlign (decide (c.f 48 8 % 32 ≠ 0)) 48) (List.mem_cons_of_mem _ List.mem_cons_self)

/-- What a fill writes has its length. -/
theorem length_fillPattern (n : Nat) (pat : List Byte) : ((List.replicate n (padTo 32 pat)).flatten).length = 32 * n := by
  have hpad : (padTo 32 pat).length = 32 := by simp [padTo, zeros]; omega
  simp [hpad, Nat.mul_comm]

/-- Settles O55: whole words stored meet nothing, so the chip stays calm and nothing that follows touches memory; they read back as O53 says. -/
theorem fillWritesItsRange : Obligations.FillWritesItsRange := by
  intro s t id c bs hcalm hlive h hdevice hbs hx
  obtain ⟨ha, hn⟩ := memFill_aligned h
  have hbytes : bs.length = c.f 48 8 := by rw [hbs, length_fillPattern]; omega
  have hlen : bs.length % 32 = 0 := by rw [hbytes]; exact hn
  have heffect : effectMemFill (s.begun id) c = (({ s.begun id with mem := (s.mem.write (c.f 40 8) bs).1 } : State).access 4 true (c.f 40 8) bs.length, some resOK) := by
    rw [effectMemFill, State.storeAt, hdevice, ← hbs]
    dsimp only
    rw [State.store_words _ ha hlen, State.begun_mem]
  have hends : exec (.memFill id) s = .next (s.settle _) := h.ends rfl heffect
  rw [hends, State.settle_live hlive, (hcalm.wordsStored ha hlen).settled] at hx
  cases hx
  obtain ⟨hdata, _, _, hother⟩ := wholeWordsReadBack s.mem (c.f 40 8) bs ha hlen
  have hcells := State.access_cells ({ s.begun id with mem := (s.mem.write (c.f 40 8) bs).1 } : State) 4 true (c.f 40 8) bs.length
  have herrs := State.access_errs ({ s.begun id with mem := (s.mem.write (c.f 40 8) bs).1 } : State) 4 true (c.f 40 8) bs.length
  refine ⟨?_, fun b hb => ?_⟩
  · rw [← hbytes]
    exact (congrArg ReadRes.data (Memory.read_congr hcells herrs _ _)).trans hdata
  · exact (congrArg (cellGet · b) hcells).trans (hother b (hbytes ▸ hb))

end Sys2Proof.Machine
end

section
/-! SUPPORT. The fault wave (R386, R388, R391, R488). -/
namespace Sys2Proof.Machine

/-- A halted chip takes no second wave. -/
theorem State.raiseWave_halted {s : State} (h : s.halt.halted = true) (cause status : Byte) : s.raiseWave cause status = s := by
  rw [State.raiseWave, if_pos h]

/-- A row that raises the wave of a fault of its own chip. -/
theorem raisesWave {s : State} {i : Instr} {cause : Byte}
    (hi : (i = .coreFault ∧ cause = 0x0B) ∨ (i = .railFault ∧ cause = 0x12) ∨ (i = .refclkLoss ∧ cause = 0x14) ∨ (i = .stewardHeartbeatTimeout ∧ cause = 0x11) ∨ (i = .hstHaltReq 1 ∧ cause = 0x09 ∧ s.host.d3hot = false)) :
    Runs i s (s.raiseWave cause 0) := by
  rcases hi with ⟨rfl, rfl⟩ | ⟨rfl, rfl⟩ | ⟨rfl, rfl⟩ | ⟨rfl, rfl⟩ | ⟨rfl, rfl, hd⟩
  · rfl
  · rfl
  · rfl
  · rfl
  · exact .of_bar hd rfl rfl

/-- Settles O21: five rows raise the wave of their own chip (`raisesWave`); a cell is judged by its port and by whether the chip has halted. -/
theorem faultWaveSpreads : Obligations.FaultWaveSpreads := by
  intro s
  refine ⟨?origin, ?notRank, ?halted, ?spreads⟩
  case origin =>
    intro i cause hi
    constructor
    · intro hhalt
      have hwave := raisesWave hi
      rwa [State.raiseWave_halted hhalt] at hwave
    · rintro _ hlive rfl
      have hwave := raisesWave hi
      rw [State.raiseWave, if_neg (by simp [hlive])] at hwave
      exact hwave
  case notRank =>
    intro port c hp
    show execHaltCellReceive port c s = _
    simp [execHaltCellReceive, hp]
  case halted =>
    intro port c hp hhalt
    show execHaltCellReceive port c s = _
    simp [execHaltCellReceive, hp, hhalt]
  case spreads =>
    rintro port c _ hp hlive rfl
    show execHaltCellReceive port c s = _
    simp only [execHaltCellReceive, List.contains_iff_mem.mpr hp, hlive, Bool.not_true, Bool.false_eq_true, if_false]

end Sys2Proof.Machine
end

section
/-! SUPPORT. The commands of collectives and of power and clock, and the events of power and clock (R376, R450 to R464). -/
namespace Sys2Proof.Machine

/-! ### Collectives (R366, R376, R378) -/

/-- A collective that is not behind an earlier one of its queue runs in the frame of every command. -/
theorem State.runColl_front {s : State} {id : Nat} (h : s.collBehind id = false) (code : Nat) (e : State → Ctx → State × Option Result) : s.runColl code id e = s.runCmd (collInfo code) id e := by
  rw [State.runColl, h, if_neg Bool.false_ne_true]

/-- Settles O19: the four collectives share one effect, which queues them. -/
theorem collectiveCommandsComplete : Obligations.CollectiveCommandsComplete := by
  rintro s _ id c rfl
  refine ⟨?config, ?queued⟩
  case config => exact fun h => h.ends rfl rfl
  case queued =>
    intro i op hi h hfront
    have hexec : exec i s = .next (s.settle (s.runCmd (collInfo op) id State.queueColl)) := by
      rw [← State.runColl_front hfront]
      rcases hi with ⟨rfl, rfl⟩ | ⟨rfl, rfl⟩ | ⟨rfl, rfl⟩ | ⟨rfl, rfl⟩ <;> rfl
    exact h.runs hexec rfl

/-! ### Commands of power (R454, R458, R464) -/

/-- Settles O25: each command sets what it names. -/
theorem powerCommandsComplete : Obligations.PowerCommandsComplete := by
  rintro s _ id c rfl
  exact ⟨fun h => h.ends rfl rfl, fun h => h.ends rfl rfl, fun h => h.ends rfl rfl⟩

/-! ### The estimator and its calibration (R451, R452, R455) -/

/-- A good reading outside the fallback moves the gain, unless it was disturbed. -/
theorem calibrationTick_good {s : State} {amps volts w : Rat} {dis : Bool} (hgood : s.power.ampsBad amps true = false) (hf : s.power.calFallback = false) :
    Runs (.calibrationTick amps volts w true dis) s { s with power := { s.power with
      lastReadings := (amps :: s.power.lastReadings).take 3, calBad := 0, calGood := min (s.power.calGood + 1) 100, lastAmps := some amps, lastEst := s.power.pEst, measured := amps * volts,
      overAmps := (if (s.power.icc : Rat) < amps then (amps - s.power.icc) * volts else 0), gain := (if dis then s.power.gain else nextGain s.power.gain (amps * volts) w) } } := by
  show execCalibrationTick amps volts w true dis s = _
  simp [execCalibrationTick, hgood, hf]

/-- A reading that is not ok is a bad one. -/
theorem Power.ampsBad_notOk (p : Power) (amps : Rat) : p.ampsBad amps false = true := rfl

/-- A bad reading before the third counts towards the fallback. -/
theorem calibrationTick_bad {s : State} {amps volts w : Rat} {dis : Bool} (hbad : s.power.calBad < 2) :
    Runs (.calibrationTick amps volts w false dis) s { s with power := { s.power with lastReadings := (amps :: s.power.lastReadings).take 3, calBad := s.power.calBad + 1, calGood := 0 } } := by
  have hcount : min (s.power.calBad + 1) 3 = s.power.calBad + 1 := by omega
  have hthird : ¬ s.power.calBad + 1 = 3 := by omega
  show execCalibrationTick amps volts w false dis s = _
  simp only [execCalibrationTick, Power.ampsBad_notOk, if_true, hcount, hthird, false_and, if_false]

/-- The third bad reading begins the fallback. -/
theorem calibrationTick_fallsBack {s : State} {amps volts w : Rat} {dis : Bool} (hf : s.power.calFallback = false) (hbad : s.power.calBad = 2) :
    Runs (.calibrationTick amps volts w false dis) s
      (({ s with power := { s.power with lastReadings := (amps :: s.power.lastReadings).take 3, calBad := 3, calGood := 0, calFallback := true, gain := max s.power.gain (110 / 100), evCal := true } } : State).decision 7 0
        (((amps :: s.power.lastReadings).take 3).map ampWord) 0 0) := by
  have hcount : min (s.power.calBad + 1) 3 = 3 := by omega
  show execCalibrationTick amps volts w false dis s = _
  simp only [execCalibrationTick, Power.ampsBad_notOk, if_true, hcount, hf, Bool.not_false, and_self]

/-! ### The governor (R458, R459) -/

/-- The state of a governor's tick before it moves the clock or the rail. -/
def State.governed (s : State) (cc : Nat) : State :=
  { s with power := { s.power with target := s.power.targetCode cc, raiseTo := none, railReported := false, cause := s.power.clockCause cc } }

section
variable {s : State} {cc : Nat} (hh : s.power.hints = []) (hcc : cc = s.power.capCode s.power.pUnb s.power.ridgeDyn)
include hh hcc

/-- At its target the clock stays and the rail is set for it. -/
theorem governorTick_stays (ht : s.power.targetCode cc = s.power.freq) :
    Runs .governorTick s { s.governed cc with power := { (s.governed cc).power with rail := (s.governed cc).power.setPoint s.power.freq } } := by
  subst hcc
  show execGovernorTick s = _
  simp only [execGovernorTick, hh, List.isEmpty_nil, if_true, ht, lt_irrefl, if_false, State.governed]

/-- Above its target the clock is lowered, by at most 8 codes, and the rail with it. -/
theorem governorTick_lowers {s2 : State} (ht : s.power.targetCode cc < s.power.freq) (hs2 : s2 = (s.governed cc).clockTo (max (s.power.targetCode cc) (s.power.freq - 8))) :
    Runs .governorTick s { s2 with power := { s2.power with rail := s2.power.setPoint (max (s.power.targetCode cc) (s.power.freq - 8)) } } := by
  subst hcc hs2
  show execGovernorTick s = _
  simp only [execGovernorTick, hh, List.isEmpty_nil, if_true, ht, State.governed]

/-- Below its target the rail is raised, and the clock waits for it. -/
theorem governorTick_raises (ht : s.power.freq < s.power.targetCode cc) :
    Runs .governorTick s { s.governed cc with power := { (s.governed cc).power with
      raiseTo := some (min (s.power.targetCode cc) (s.power.freq + 2)), rail := (s.governed cc).power.setPoint (min (s.power.targetCode cc) (s.power.freq + 2)) } } := by
  subst hcc
  show execGovernorTick s = _
  simp only [execGovernorTick, hh, List.isEmpty_nil, if_true, ht, not_lt.mpr ht.le, if_false, State.governed]

end

/-- A raise that waits is made. -/
theorem State.raiseClock_waiting {s : State} {k : Nat} (h : s.power.raiseTo = some k) :
    s.raiseClock = ({ s with power := { s.power with raiseTo := none, railReported := false } } : State).clockTo k := by
  simp only [State.raiseClock, h]

/-- A settled rail whose raise waits for a droop to clear. -/
theorem railSettled_waits {s : State} {k : Nat} (h : s.power.raiseTo = some k) (hd : s.power.droop = true) : Runs .railSettled s { s with power := { s.power with railReported := true } } := by
  show execRailSettled s = _
  simp [execRailSettled, h, hd]

/-- A settled rail makes the raise. -/
theorem railSettled_raises {s : State} {k : Nat} (h : s.power.raiseTo = some k) (hd : s.power.droop = false) :
    Runs .railSettled s (({ s with power := { s.power with raiseTo := none, railReported := false } } : State).clockTo k) := by
  rw [← State.raiseClock_waiting h]
  show execRailSettled s = _
  simp [execRailSettled, h, hd]

/-- A droop that has cleared makes the raise that waited for it. -/
theorem droopCleared_raises {s : State} {k : Nat} (h : s.power.raiseTo = some k) (hs : s.stretching = false) (hr : s.power.railReported = true) :
    Runs .droopCleared s (({ s with power := { s.power with droop := false, raiseTo := none, railReported := false } } : State).clockTo k) := by
  show execDroopCleared s = _
  simp [execDroopCleared, hs, hr, State.raiseClock, h]

/-! ### Droop and guard (R461 to R463) -/

/-- The guard after a window. -/
theorem guardWindow_moves {s : State} {long : Bool} {share : Rat} {n : Nat} (hpin : s.power.pinGuard = false)
    (hn : (long = false ∧ 1 / 100 < share ∧ n = min 25 (s.power.guard + 5)) ∨ (long = true ∧ share ≤ 1 / 1000 ∧ n = s.power.guard - 5)) (hmoved : n ≠ s.power.guard) :
    Runs (.guardWindow long share) s (({ s with power := { s.power with guard := n, evGuard := true, rail := ({ s.power with guard := n, evGuard := true } : Power).setPoint s.power.freq } } : State).decision 6 0
      [s.power.guard, n, ratClamp (share * 10000) 0 10000] 0 0) := by
  show execGuardWindow long share s = _
  rcases hn with ⟨rfl, hshare, rfl⟩ | ⟨rfl, hshare, rfl⟩
  · simp only [execGuardWindow, hpin, Bool.false_eq_true, if_false, Bool.not_false, Bool.true_and, decide_eq_true hshare, if_true, if_neg hmoved]
  · simp only [execGuardWindow, hpin, Bool.false_eq_true, if_false, Bool.not_true, Bool.false_and, Bool.true_and, decide_eq_true hshare, if_true, if_neg hmoved]

/-- Settles O26: the estimator and the calibration by the reading's plausibility, the governor by where the target lies, a raise by whether a droop is in force. -/
theorem powerEventsComplete : Obligations.PowerEventsComplete := by
  rintro s _ rfl
  refine ⟨?estimator, ?calGood, ?calBad, ?calFallback, ?governor, ?raise, ?noRaise, ?cleared, ?stretching, ?droop, ?stretchEnd, ?guard, ?guardPinned⟩
  case estimator =>
    rintro listed _ _ _ _ rfl rfl rfl rfl
    show execEstimatorTick listed s = _
    simp [execEstimatorTick, Bool.and_assoc]
  case calGood => exact fun amps volts w dis => calibrationTick_good
  case calBad => exact fun amps volts w dis _ => calibrationTick_bad
  case calFallback => exact fun amps volts w dis => calibrationTick_fallsBack
  case governor =>
    rintro cc _ _ hh hcc rfl rfl
    exact ⟨governorTick_stays hh hcc, fun s2 => governorTick_lowers hh hcc, governorTick_raises hh hcc⟩
  case raise => exact fun k h => ⟨railSettled_waits h, railSettled_raises h, droopCleared_raises h⟩
  case noRaise =>
    intro h
    show execRailSettled s = _
    simp [execRailSettled, h]
  case cleared =>
    intro hs hr
    show execDroopCleared s = _
    simp [execDroopCleared, hs, hr]
  case stretching =>
    intro hs
    show execDroopCleared s = _
    simp [execDroopCleared, hs]
  case droop =>
    intro r x hx
    refine ⟨fun hs he => ?_, fun hskip => ?_⟩
    · show execDroopDetect r s = _
      simp [execDroopDetect, hx, hs, he]
    · show execDroopDetect r s = _
      simp only [execDroopDetect, hx]
      rw [if_pos (by simpa using hskip)]
  case stretchEnd => exact fun r => rfl
  case guard => exact fun long share n => guardWindow_moves
  case guardPinned =>
    intro long share hpin
    show execGuardWindow long share s = _
    simp [execGuardWindow, hpin]

end Sys2Proof.Machine
end

section
/-! SUPPORT. Inter-island queues (R442 to R445), D3hot (R551), the management bus (R561 to R564), the service button and the LEDs (R567 to R570). -/
namespace Sys2Proof.Machine

/-! ### Inter-island queues -/

section
variable {s : State} {n : Nat} {q : Iiq} (h : s.mem.iiqs.find? (fun q => q.num == n) = some q)
include h

/-- A read of an empty queue gives nothing. -/
theorem iiqRead_empty (he : q.empty = true) : Runs (.iiqRead n) s (s.updIiq n (fun q => { q with lastRead := none, uncorrected := false })) := by
  show execIiqRead n s = _
  simp only [execIiqRead, h, he, if_true]

variable {w : QWord} {ws : List QWord} (he : q.empty = false) (hw : q.store = w :: ws)
include he hw

/-- A clean word is passed on. -/
theorem iiqRead_clean (hd : (decodeWord w.symbols).1 = .clean) : Runs (.iiqRead n) s (s.updIiq n (fun q => q.pop w false)) := by
  show execIiqRead n s = _
  simp only [execIiqRead, h, he, hw, List.head?_cons, Bool.false_eq_true, if_false, hd]

/-- A corrected word is passed on corrected, and counted. -/
theorem iiqRead_corrected {x : Nat} {y : Byte} (hd : (decodeWord w.symbols).1 = .corrected x y) : Runs (.iiqRead n) s
    (({ s with mem := { s.mem with queueCorr := satAdd32 s.mem.queueCorr 1 } } : State).updIiq n (fun q => q.pop { w with symbols := wordSymbols (decodeWord w.symbols).2 } false)) := by
  show execIiqRead n s = _
  simp only [execIiqRead, h, he, hw, List.head?_cons, Bool.false_eq_true, if_false, hd]

/-- An uncorrectable word that no unit produced as data has its packet discarded and raises the wave; a data word of the producing unit is passed on as it is. -/
theorem iiqRead_uncorrectable (hd : (decodeWord w.symbols).1 = .uncorrectable) {u : State}
    (hu : u = { s with mem := { s.mem with queueUncorr := satAdd16 s.mem.queueUncorr 1, lastIsland := BitVec.ofNat 8 q.island } }) :
    Runs (.iiqRead n) s (if q.producerWords && !w.sop then u.updIiq n (fun q => q.pop w true)
      else (u.updIiq n (fun q => { q.dropPacket with lastRead := none, uncorrected := false })).raiseWave 0x0C 0) := by
  subst hu
  show execIiqRead n s = _
  simp only [execIiqRead, h, he, hw, List.head?_cons, Bool.false_eq_true, if_false, hd]

end

/-- Settles O35: a read by whether the queue is empty and by what its word decodes to; every other row changes the queue's record as the model's own function says. -/
theorem queueWordsComplete : Obligations.QueueWordsComplete := by
  intro s
  refine ⟨?write, ?read, ?flush, ?syncReader, ?syncWriter⟩
  case write => exact fun n data sop eop => rfl
  case read =>
    intro n q h
    refine ⟨iiqRead_empty h, fun w ws he hw => ⟨iiqRead_clean h he hw, fun x y => iiqRead_corrected h he hw, fun u hd hu => ?_⟩⟩
    have hruns := iiqRead_uncorrectable h he hw hd hu
    constructor
    · intro hp hs
      rwa [hp, hs, if_pos (by rfl)] at hruns
    · intro hother
      have hfalse : (q.producerWords && !w.sop) = false := by rcases hother with hp | hs <;> simp [*]
      rwa [hfalse, if_neg Bool.false_ne_true] at hruns
  case flush => exact fun n => rfl
  case syncReader => exact fun n => rfl
  case syncWriter => exact fun n => rfl

/-! ### D3hot -/

/-- A memory request in D3hot is completed with Unsupported Request. -/
theorem Runs.of_d3hot {i : Instr} {s : State} {f : State → State} (hd : s.host.d3hot = true) (hx : exec i s = .next (s.settle (s.bar f))) :
    Runs i s { s with host := { s.host with resp := ⟨[], false, true, false⟩ } } := .of_settle hx (by rw [State.bar, if_pos hd])

/-- Settles O37: every memory request of the host stands behind the same bar (`Runs.of_d3hot`). -/
theorem d3hotRefusesRequests : Obligations.D3hotRefusesRequests := by
  intro s hd
  refine ⟨?refused, rfl⟩
  case refused =>
    rintro i (⟨q, v, rfl⟩ | ⟨q, o, n, rfl⟩ | ⟨o, n, rfl⟩ | ⟨o, d, rfl⟩ | ⟨o, n, rfl⟩ | ⟨o, d, rfl⟩ | ⟨v, rfl⟩ | ⟨b, rfl⟩ | rfl | ⟨v, rfl⟩ | ⟨v, rfl⟩ | ⟨v, rfl⟩)
    all_goals exact .of_d3hot hd rfl

/-! ### The management bus -/

/-- Settles O38: each read is one answer. -/
theorem managementReadsComplete : Obligations.ManagementReadsComplete := by
  rintro s _ rfl
  refine ⟨rfl, rfl, rfl, rfl, fun v p => rfl, fun v p => rfl, fun v p => rfl, fun v p => rfl, rfl, ?cairnLast, rfl⟩
  case cairnLast =>
    rintro _ rfl
    rfl

/-- The state in which a write with a good PEC acts. -/
def State.mgtAcked (s : State) : State := { s with mgt := { s.mgt with answer := none, acked := true } }

/-- The state that a write with a bad PEC leaves. -/
def State.mgtNacked (s : State) : State := { s with mgt := { s.mgt with answer := none, acked := false } }

/-- A write that is acknowledged acts. -/
theorem Runs.of_mgtWrite {i : Instr} {s u : State} {ok : Bool} {f : State → State} (hx : exec i s = .next (s.settle (s.mgtWrite ok f))) (hok : ok = true) (h : f s.mgtAcked = u) : Runs i s u :=
  .of_settle hx (by rw [State.mgtWrite, if_pos hok]; exact h)

/-- A write that is not does nothing. -/
theorem Runs.of_mgtBad {i : Instr} {s : State} {ok : Bool} {f : State → State} (hx : exec i s = .next (s.settle (s.mgtWrite ok f))) (hok : ok = false) : Runs i s s.mgtNacked :=
  .of_settle hx (by rw [State.mgtWrite, hok, if_neg Bool.false_ne_true]; rfl)

/-- A register of the bus that is read and written: a write that is acknowledged acts. -/
theorem Runs.of_mgtRegister {i : Instr} {s u : State} {ok : Bool} {f : State → State} {bs : List Byte} (hx : exec i s = .next (s.settle (if (!true) = true then s.mgtAnswer bs else s.mgtWrite ok f)))
    (hok : ok = true) (h : f s.mgtAcked = u) : Runs i s u := .of_mgtWrite hx hok h

/-- One that is not does nothing. -/
theorem Runs.of_mgtRegisterBad {i : Instr} {s : State} {ok : Bool} {f : State → State} {bs : List Byte} (hx : exec i s = .next (s.settle (if (!true) = true then s.mgtAnswer bs else s.mgtWrite ok f)))
    (hok : ok = false) : Runs i s s.mgtNacked := .of_mgtBad hx hok

/-- The board cap within its limits, or 0 for none. -/
theorem mgtBoardCap_ok {s : State} {v : W16} (h : v = 0 ∨ (450 ≤ v.toNat ∧ v.toNat ≤ 1200)) :
    Runs (.mgtBoardCap true v true) s { s.mgtAcked with power := { s.power with boardCap := if v.toNat = 0 then none else some v.toNat } } := by
  have hok : (true && (decide (v.toNat = 0) || (decide (450 ≤ v.toNat) && decide (v.toNat ≤ 1200)))) = true := by
    rcases h with rfl | ⟨h1, h2⟩
    · rfl
    · simp [h1, h2]
  exact .of_mgtRegister rfl hok rfl

/-- A board cap outside its limits is not acknowledged. -/
theorem mgtBoardCap_bad {s : State} {v : W16} (h0 : v ≠ 0) (h : v.toNat < 450 ∨ 1200 < v.toNat) : Runs (.mgtBoardCap true v true) s s.mgtNacked := by
  have h0' : v.toNat ≠ 0 := fun hv => h0 (BitVec.eq_of_toNat_eq hv)
  have hbad : (true && (decide (v.toNat = 0) || (decide (450 ≤ v.toNat) && decide (v.toNat ≤ 1200)))) = false := by simp; omega
  exact .of_mgtRegisterBad rfl hbad

/-- ATTENTION and PARK are cleared by the bits of a write. -/
theorem mgtAttn_writes (s : State) (v : Byte) : Runs (.mgtAttn true v true) s { s.mgtAcked with host := { s.host with
    attention := s.host.attention && !v.getLsbD 0, park := s.host.park && !v.getLsbD 1, parked := s.host.parked && !v.getLsbD 1 } } := by
  refine .of_mgtRegister rfl rfl ?_
  cases v.getLsbD 0 <;> cases v.getLsbD 1 <;> simp [cancelPark, State.hostErr, State.mgtAcked]

/-- MGT_BOOT_CLEAR with fields within their limits. -/
theorem mgtBootClear_clears {s : State} {d : List Byte} (hlen : d.length = 3) (hmask : field d 0 2 ≤ 1023) (hflags : field d 2 1 ≤ 7) :
    Runs (.mgtBootClear d true) s (s.mgtAcked.bootClear (field d 0 2) (field d 2 1)) := by
  have hok : (bootClearBad (field d 0 2) (field d 2 1)).any (·.fails) = false := by
    simp [bootClearBad, bParam]
    omega
  refine .of_mgtWrite rfl (by simp [hlen]) ?_
  rw [hok, if_neg Bool.false_ne_true]

/-- MGT_STAEZ_DATA of a whole unit. -/
theorem mgtStaezData_stages {s : State} {u : Byte} {d : List Byte} (hu : u.toNat < 32) (hlen : d.length = 16) :
    Runs (.mgtStaezData u d true) s { s.mgtAcked with mgt := { s.mgtAcked.mgt with staging := splice s.mgt.staging (16 * u.toNat) d } } :=
  .of_mgtWrite rfl (by simp [hu, hlen]) rfl

/-- A commit of a good image begins its write. -/
theorem mgtStaezCommit_begins {s : State} (hfree : s.mgt.stagingWrite = none) (hgood : staezFields false s.mgt.staging = true) :
    Runs (.mgtStaezCommit 1 true) s { s.mgtAcked with mgt := { s.mgtAcked.mgt with stagingState := 1, stagingReason := 0, stagingWrite := some s.mgt.staging } } := by
  refine .of_mgtWrite rfl rfl ?_
  simp [State.commitStaez, State.mgtAcked, hfree, hgood]

/-- A commit of a bad image is refused. -/
theorem mgtStaezCommit_refuses {s : State} (hfree : s.mgt.stagingWrite = none) (hbad : staezFields false s.mgt.staging = false) :
    Runs (.mgtStaezCommit 1 true) s { s.mgtAcked with mgt := { s.mgtAcked.mgt with stagingState := 3, stagingReason := 0x38 } } := by
  refine .of_mgtWrite rfl rfl ?_
  simp [State.commitStaez, State.mgtAcked, hfree, hbad]

/-- Settles O39: a write acts by its PEC alone (`Runs.of_mgtWrite`, `Runs.of_mgtBad`), and by its value as its own branch says. -/
theorem managementWritesComplete : Obligations.ManagementWritesComplete := by
  rintro s _ _ rfl rfl
  refine ⟨?badPec, ?boardCap, ?estop, ?reset, ?resetKey, ?locate, ?attn, ?attnMask, ?bootClear, ?staezData, ?commit, ?commitBad, ?writeDone, ?alertRelease, ?alertHeld, rfl⟩
  case badPec =>
    rintro i (⟨v, rfl⟩ | ⟨v, rfl⟩ | ⟨v, rfl⟩ | ⟨v, rfl⟩ | ⟨v, rfl⟩ | ⟨v, rfl⟩ | ⟨d, rfl⟩ | ⟨u, d, rfl⟩ | ⟨v, rfl⟩)
    · exact .of_mgtRegisterBad rfl rfl
    · exact .of_mgtBad rfl rfl
    · exact .of_mgtBad rfl rfl
    · exact .of_mgtRegisterBad rfl rfl
    · exact .of_mgtRegisterBad rfl rfl
    · exact .of_mgtRegisterBad rfl rfl
    · exact .of_mgtBad rfl rfl
    · exact .of_mgtBad rfl rfl
    · exact .of_mgtBad rfl rfl
  case boardCap =>
    refine fun v => ⟨?_, fun hlo hhi => ?_, mgtBoardCap_bad⟩
    · rintro rfl
      exact mgtBoardCap_ok (.inl rfl)
    · have hruns := mgtBoardCap_ok (s := s) (.inr ⟨hlo, hhi⟩)
      rwa [if_neg (by omega)] at hruns
  case estop => exact .of_mgtWrite rfl rfl rfl
  case reset => exact .of_mgtWrite rfl rfl rfl
  case resetKey =>
    intro v hv
    refine .of_mgtWrite rfl rfl ?_
    rw [if_neg hv]
    rfl
  case locate => exact fun v => .of_mgtRegister rfl rfl rfl
  case attn => exact mgtAttn_writes s
  case attnMask => exact fun v => .of_mgtRegister rfl rfl rfl
  case bootClear => exact fun d => mgtBootClear_clears
  case staezData => exact fun u d => mgtStaezData_stages
  case commit => exact mgtStaezCommit_begins
  case commitBad => exact mgtStaezCommit_refuses
  case writeDone =>
    rintro img _ himg rfl
    show execMgtStaezWriteDone s = _
    simp only [execMgtStaezWriteDone, himg]
  case alertRelease => exact fun h => .of_settle rfl (by rw [if_neg (by simp [h])])
  case alertHeld => exact fun h => .of_settle rfl (by rw [if_pos h])

/-! ### The service button and the LEDs -/

/-- A release of a button that is down ends the press. -/
theorem buttonRelease_ends {s : State} {ms : Nat} (h : s.host.button = true) : exec (.buttonRelease ms) s = .next (s.settled { s with host := { s.host with
    button := false, buttonIgnored := false, buttonHeld := false
    locate := if s.host.buttonIgnored || s.host.buttonHeld || decide (5000 < ms) then s.host.locate else !s.host.locate } }) := by
  show execButtonRelease ms s = _
  simp [execButtonRelease, h, State.hostErr]

/-- Settles O40: a press is taken when the button was up, a release when it was down. -/
theorem buttonAndLedsComplete : Obligations.ButtonAndLedsComplete := by
  intro s
  refine ⟨?press, ?pressed, ?released, ?toggles, ?ends, ?hold, rfl⟩
  case press =>
    intro h
    show execButtonPress s = _
    simp [execButtonPress, h, State.hostErr]
  case pressed =>
    intro h
    show execButtonPress s = _
    simp [execButtonPress, h]
  case released =>
    intro ms h
    show execButtonRelease ms s = _
    simp [execButtonRelease, h]
  case toggles =>
    intro ms h hi hh hms
    have hends := buttonRelease_ends (ms := ms) h
    rwa [hi, hh, decide_eq_false (not_lt.mpr hms), if_neg (by decide)] at hends
  case ends =>
    intro ms h hlong
    have hends := buttonRelease_ends (ms := ms) h
    rwa [if_pos (by simpa [or_assoc] using hlong)] at hends
  case hold =>
    intro h hi hh
    show execButtonHold s = _
    simp [execButtonHold, h, hi, hh, State.hostErr]

end Sys2Proof.Machine
end

section
/-! SUPPORT. Events of health, the CTX commands, the boot codes of CFG and the SEC commands. -/
namespace Sys2Proof.Machine

/-! ### Undefined bytes -/

theorem length_flatMap_words (f : Nat → List Byte) (hf : ∀ i, (f i).length = 4) (n : Nat) : ((List.range n).flatMap f).length = 4 * n := by
  simp [List.length_flatMap, hf, Nat.mul_comm]

/-- Undefined contents have the length asked for. -/
theorem length_freeBytes (draw n : Nat) : (freeBytes draw n).length = n := by
  rw [freeBytes, List.length_take, length_flatMap_words _ (fun i => by simp [toLE])]
  simp only [ceilDiv]
  omega

/-! ### Events of health (R478, R479, R518, R533) -/

/-- What a finished test leaves before its consequences. -/
def State.testEnded (s : State) (id code : Nat) (fs : List TestFailure) : State :=
  ((({ s with health := { s.health with testing := s.health.testing.filter (fun t => t.1 != id), testFail := s.health.testFail || !fs.isEmpty } } : State)).endCmd id (testResult fs)).telem 5 66 0 0 (testBody code fs)

section
variable {s : State} {id t code : Nat} {rs : List Nat} (h : s.health.testing.find? (fun t => t.1 == id) = some (t, code, rs)) (hrun : (s.runningCtx id).isSome = true)
include h hrun

/-- A test that passes. -/
theorem selfTestDone_passes : Runs (.selfTestDone id []) s (s.testEnded id code []) := by
  show execSelfTestDone id [] s = _
  simp only [execSelfTestDone, h, hrun, if_true, List.foldl_nil, State.testEnded]

/-- A test with one failing unit whose consequence raises no wave. -/
theorem selfTestDone_silent {f : TestFailure} (hf : ((s.testEnded id code [f]).testFailure code f).2 = none) : Runs (.selfTestDone id [f]) s ((s.testEnded id code [f]).testFailure code f).1 := by
  rw [State.testEnded] at hf ⊢
  show execSelfTestDone id [f] s = _
  simp only [execSelfTestDone, h, hrun, if_true, List.foldl_cons, List.foldl_nil, Option.none_or, hf]

/-- A test with one failing unit whose consequence raises the wave. -/
theorem selfTestDone_raises {f : TestFailure} {cause : Byte} (hf : ((s.testEnded id code [f]).testFailure code f).2 = some cause) :
    Runs (.selfTestDone id [f]) s (((s.testEnded id code [f]).testFailure code f).1.raiseWave cause 0) := by
  rw [State.testEnded] at hf ⊢
  show execSelfTestDone id [f] s = _
  simp only [execSelfTestDone, h, hrun, if_true, List.foldl_cons, List.foldl_nil, Option.none_or, hf]

end

/-- Settles O29: a test by its failures, an image write by how it ended. -/
theorem healthEventsComplete : Obligations.HealthEventsComplete := by
  intro s
  refine ⟨?selfTest, ?imageDone, ?imageActivated, ?imageFailed, ?erased, ?tail⟩
  case selfTest =>
    rintro id t code rs fs _ h hrun rfl
    refine ⟨?_, ?_, ?_⟩
    · rintro rfl
      exact selfTestDone_passes h hrun
    · rintro f rfl hf
      exact selfTestDone_silent h hrun hf
    · rintro f cause rfl hf
      exact selfTestDone_raises h hrun hf
  case imageDone =>
    rintro img _ himg rfl
    show execImageWriteDone true s = _
    simp only [execImageWriteDone, himg, if_true, Bool.false_eq_true, if_false]
  case imageActivated =>
    rintro img _ himg rfl
    show execImageWriteDone true s = _
    simp only [execImageWriteDone, himg, if_true]
  case imageFailed =>
    intro img act himg
    refine ⟨freeBytes s.free img.length, min img.length (Config.freeWord s.free 0).toNat, length_freeBytes _ _, Nat.min_le_left _ _, ?_⟩
    show execImageWriteDone false s = _
    simp only [execImageWriteDone, himg, Bool.false_eq_true, if_false]
    rfl
  case erased =>
    rintro _ rfl
    rfl
  case tail => exact fun v hd => .of_bar hd rfl rfl

/-! ### CTX (R493 to R499) -/

/-- A save whose image cannot be read ends there; one to device memory writes the image. -/
theorem effectCtxSave_memory {s : State} {c : Ctx} (hread : (s.readAll s.imageReads).uncorr = []) (htarget : c.f 32 1 = 0) : effectCtxSave s c =
    (((s.noteReads 4 s.imageReads).storeAt c 4 (c.f 40 8) s.image).1, some ((writeStatus ((s.noteReads 4 s.imageReads).storeAt c 4 (c.f 40 8) s.image).2).getD (savedResult s.image))) := by
  have htarget' : cxTarget c.pkt = 0 := htarget
  simp only [effectCtxSave, hread, List.isEmpty_nil, Bool.not_true, Bool.false_eq_true, if_false, htarget', if_true]
  rfl

/-- A save to the gateway sends the first window of the image. -/
theorem effectCtxSave_gateway {s u : State} {c : Ctx} {x : Stream} (hread : (s.readAll s.imageReads).uncorr = []) (htarget : c.f 32 1 ≠ 0) (hu : u = s.noteReads 4 s.imageReads)
    (hx : x = ⟨c.id, true, c.f 34 2, c.f 36 4, s.image, 0⟩) : effectCtxSave s c = (({ u with streams := u.streams ++ [x] } : State).sendImage x 0 (min s.image.length gatewayWindow), none) := by
  subst hu hx
  have htarget' : cxTarget c.pkt ≠ 0 := htarget
  simp only [effectCtxSave, hread, List.isEmpty_nil, Bool.not_true, Bool.false_eq_true, if_false, htarget']
  rfl

/-- A restore of an image in device memory. -/
theorem effectCtxRestore_memory {s : State} {c : Ctx} {r : ReadRes} {k : State × Result} (htarget : c.f 32 1 = 0) (hr : r = s.readAt c (c.f 40 8) (c.f 48 8)) (hread : r.uncorr = [])
    (hk : k = (s.noteReadAt c 4 (c.f 40 8) (c.f 48 8)).restoreImage r.data (c.f 48 8)) : effectCtxRestore s c = (k.1, some k.2) := by
  subst hr hk
  have htarget' : cxTarget c.pkt = 0 := htarget
  have hread' : (s.readAt c (cxAddr c.pkt) (cxBytes c.pkt)).uncorr = [] := hread
  simp only [effectCtxRestore, htarget', if_true, hread', List.isEmpty_nil, Bool.not_true, Bool.false_eq_true, if_false]
  rfl

/-- A restore from the gateway asks for the image. -/
theorem effectCtxRestore_gateway {s : State} {c : Ctx} (htarget : c.f 32 1 ≠ 0) : effectCtxRestore s c =
    (({ s with streams := s.streams ++ [⟨c.id, false, c.f 34 2, c.f 36 4, [], gatewayWindow⟩] } : State).send (.gatewayRead (c.f 34 2) (c.f 36 4) 0 64), none) := by
  have htarget' : cxTarget c.pkt ≠ 0 := htarget
  simp only [effectCtxRestore, htarget', if_false]
  rfl

section
variable {s : State} {chip tag off : Nat} {x : Stream} (hlive : s.isHalted = false)
include hlive

/-- An ERROR of the gateway ends a save. -/
theorem gatewayAck_error (h : s.stream? true chip tag = some x) : Ends (.gatewayAck chip tag off true) s x.cmd (resStatus stNoResource) (s.dropStream x) :=
  .of_arrives hlive rfl (by simp [h])

/-- The acknowledgement that covers the image ends a save. -/
theorem gatewayAck_completes (h : s.stream? true chip tag = some x) (hall : x.image.length ≤ max x.acked (32 * off)) :
    Ends (.gatewayAck chip tag off false) s x.cmd (savedResult x.image) (s.dropStream x) := .of_arrives hlive rfl (by simp only [h, Bool.false_eq_true, if_false, if_pos hall])

/-- Any other acknowledgement lets the next data go. -/
theorem gatewayAck_sends (h : s.stream? true chip tag = some x) {a : Nat} (ha : a = max x.acked (32 * off)) (hmore : a < x.image.length) : Runs (.gatewayAck chip tag off false) s
    (({ s with streams := mapWhere (fun y => y.cmd == x.cmd) (fun y => { y with acked := a }) s.streams } : State).sendImage x (min x.image.length (x.acked + gatewayWindow)) (min x.image.length (a + gatewayWindow))) := by
  subst ha
  exact .of_arrives hlive rfl (by simp only [h, Bool.false_eq_true, if_false, if_neg (not_le.mpr hmore)])

variable {last : Bool} {data : List Byte}

/-- An ERROR of the gateway ends a restore. -/
theorem gatewayReadData_error (h : s.stream? false chip tag = some x) : Ends (.gatewayReadData chip tag off last true data) s x.cmd (resStatus stNoResource) (s.dropStream x) :=
  .of_arrives hlive rfl (by simp [h])

/-- The last data lets the restore happen. -/
theorem gatewayReadData_restores (h : s.stream? false chip tag = some x) {k : State × Result} (hoff : 32 * off = x.image.length) (hk : k = (s.dropStream x).restoreImage (x.image ++ data) (x.image ++ data).length) :
    Ends (.gatewayReadData chip tag off true false data) s x.cmd k.2 k.1 := by
  subst hk
  exact .of_arrives hlive rfl (by simp only [h, Bool.false_eq_true, if_false, hoff, ne_eq, not_true_eq_false, if_true])

/-- Data within the window joins the image. -/
theorem gatewayReadData_joins (h : s.stream? false chip tag = some x) (hoff : 32 * off = x.image.length) (hwindow : (x.image ++ data).length < x.acked) :
    Runs (.gatewayReadData chip tag off false false data) s { s with streams := mapWhere (fun y => y.cmd == x.cmd) (fun y => { y with image := x.image ++ data, acked := x.acked }) s.streams } := by
  have hmore : decide (x.acked ≤ (x.image ++ data).length) = false := decide_eq_false (not_le.mpr hwindow)
  exact .of_arrives hlive rfl (by simp only [h, Bool.false_eq_true, if_false, hoff, ne_eq, not_true_eq_false, hmore])

end

/-- Settles O30: a save and a restore by their TARGET, a message of the gateway by what it says of the stream. -/
theorem ctxCommandsComplete : Obligations.CtxCommandsComplete := by
  rintro s _ id c rfl
  refine ⟨?size, ?saveMemory, ?saveGateway, ?restoreMemory, ?restoreGateway, ?ack, ?readData⟩
  case size =>
    rintro _ h rfl
    exact h.ends rfl rfl
  case saveMemory =>
    rintro _ h hread htarget rfl
    exact h.ends rfl (effectCtxSave_memory hread htarget)
  case saveGateway =>
    rintro _ _ h hread htarget rfl rfl
    exact h.runs rfl (effectCtxSave_gateway hread htarget rfl rfl)
  case restoreMemory =>
    intro r k h htarget hr hread hk
    exact h.ends rfl (effectCtxRestore_memory htarget hr hread hk)
  case restoreGateway =>
    intro h htarget
    exact h.runs rfl (effectCtxRestore_gateway htarget)
  case ack => exact fun chip tag off x hlive h => ⟨gatewayAck_error hlive h, gatewayAck_completes hlive h, fun a => gatewayAck_sends hlive h⟩
  case readData =>
    refine fun chip tag off last data x hlive h => ⟨gatewayReadData_error hlive h, ?_, ?_⟩
    · rintro k hoff rfl hk
      exact gatewayReadData_restores hlive h hoff hk
    · rintro hoff rfl hwindow
      exact gatewayReadData_joins hlive h hoff hwindow

/-! ### The boot codes of CFG (R525) -/

/-- CFG.STAEZ_READ writes the copy it names. -/
theorem effectCfgStaezRead_names {s : State} {c : Ctx} {x : List Byte} (hx : (c.f 32 1 = 0 ∧ x = s.flash.staez0) ∨ (c.f 32 1 = 1 ∧ x = s.flash.staez1) ∨ (c.f 32 1 = 2 ∧ x = s.boot.staez)) :
    effectCfgStaezRead s c = ((s.storeAt c 4 (c.f 40 8) (padTo 512 x)).1, some ((writeStatus (s.storeAt c 4 (c.f 40 8) (padTo 512 x)).2).getD resOK)) := by
  rcases hx with ⟨hc, rfl⟩ | ⟨hc, rfl⟩ | ⟨hc, rfl⟩
  · simp only [effectCfgStaezRead, hc, storedResult]
  · simp only [effectCfgStaezRead, hc, storedResult]
  · simp only [effectCfgStaezRead, hc, storedResult]

/-- CFG.STAEZ_WRITE of an image that can be read. -/
theorem effectCfgStaezWrite_reads {s : State} {c : Ctx} (hgood : (s.readAt c (c.f 40 8) 512).good = true) : effectCfgStaezWrite s c =
    if staezFields false (s.readAt c (c.f 40 8) 512).data then ((s.noteReadAt c 4 (c.f 40 8) 512).writeStaez (s.readAt c (c.f 40 8) 512).data, some resOK)
    else (s.noteReadAt c 4 (c.f 40 8) 512, some (badParam 0x38 40)) := by
  simp only [effectCfgStaezWrite, readStatus_good hgood]

/-- Settles O31: a read by the copy it names, a write by whether the image keeps its limits. -/
theorem bootSettingsComplete : Obligations.BootSettingsComplete := by
  rintro s _ id c rfl
  refine ⟨?staezRead, ?staezWrite, ?cairnRead, ?bootClear⟩
  case staezRead =>
    rintro x _ h hx rfl
    exact h.ends rfl (effectCfgStaezRead_names hx)
  case staezWrite =>
    rintro _ h rfl hgood
    have heffect : effectCfgStaezWrite (s.begun id) c = _ := effectCfgStaezWrite_reads hgood
    exact ⟨fun hok => h.ends rfl (heffect.trans (if_pos hok)), fun hbad => h.ends rfl (heffect.trans (if_neg (Bool.eq_false_iff.mp hbad)))⟩
  case cairnRead =>
    rintro _ _ h rfl rfl
    exact h.ends rfl rfl
  case bootClear => exact fun h => h.ends rfl rfl

end Sys2Proof.Machine
end

section
/-! SUPPORT. The SEC commands and the JTAG unlock (R529 to R541). -/
namespace Sys2Proof.Machine

/-! ### Quotes and images -/

/-- A quote without an identity key. -/
theorem effectSecQuote_erased {s : State} {c : Ctx} (h : s.sec.keyReady = false) : effectSecQuote s c = (s, some (resStatus stAuthFail)) := by
  simp only [effectSecQuote, h, Bool.not_false, if_true]

/-- A quote holds its body and the signature under the identity seed. -/
theorem effectSecQuote_signs {s : State} {c : Ctx} {body : List Byte} {w : State × WriteRes} (h : s.sec.keyReady = true) (hbody : body = s.quoteBody (c.f 32 1) ((c.pkt.drop 64).take 32))
    (hw : w = ({ s with free := s.free + 1 } : State).storeAt c 4 (c.f 40 8) (body ++ padTo 2420 (Config.mldsaSign s.free s.fuses.idSeed body) ++ zeros 28)) :
    effectSecQuote s c = (w.1, some ((writeStatus w.2).getD resOK)) := by
  subst hbody hw
  simp only [effectSecQuote, h, Bool.not_true, Bool.false_eq_true, if_false]
  rfl

/-- An image write of what can be read: a valid image begins to be written, any other is refused. -/
theorem effectSecImageWrite_reads {s : State} {c : Ctx} {r : ReadRes} {u : State} (hr : r = s.readAt c (c.f 40 8) (c.f 48 4)) (hgood : r.good = true) (hu : u = s.noteReadAt c 4 (c.f 40 8) (c.f 48 4)) :
    effectSecImageWrite s c = if s.imageValid r.data then ({ u with sec := { u.sec with image := .writing r.data (bitAt (c.f 32 1) 0) } }, some resOK) else (u, some (resStatus stAuthFail)) := by
  subst hr hu
  simp only [effectSecImageWrite, readStatus_good hgood]
  cases s.imageValid (s.readAt c (c.f 40 8) (c.f 48 4)).data <;> rfl

/-! ### Inputs that cannot be read -/

section
variable {s : State} {c : Ctx} {x : Result}

theorem effectSecImageWrite_unread (h : readStatus (s.readAt c (c.f 40 8) (c.f 48 4)) = some x) : effectSecImageWrite s c = (s.noteReadAt c 4 (c.f 40 8) (c.f 48 4), some x) := by
  simp only [effectSecImageWrite, h]

theorem effectSecCustomerKey_unread (h : readStatus (s.readAt c (c.f 40 8) 1312) = some x) : effectSecCustomerKey s c = (s.noteReadAt c 4 (c.f 40 8) 1312, some x) := by
  simp only [effectSecCustomerKey, h]

theorem effectSecDebugUnlock_unread (h : readStatus (s.readAt c (c.f 40 8) 2496) = some x) : effectSecDebugUnlock s c = (s.noteReadAt c 4 (c.f 40 8) 2496, some x) := by
  simp only [effectSecDebugUnlock, h]

end

/-! ### Fuses -/

/-- A commit that the fuses already hold. -/
theorem effectSecFuseCommit_held {s : State} {c : Ctx} (h : s.boot.imageSvn ≤ s.fuses.svn) : effectSecFuseCommit s c = (s, some resOK) := by
  rw [effectSecFuseCommit, if_pos h]

/-- A commit blows the bits up to the image's SVN, each logged. -/
theorem effectSecFuseCommit_blows {s u : State} {c : Ctx} (h : s.fuses.svn < s.boot.imageSvn)
    (hu : u = (List.range (s.boot.imageSvn - s.fuses.svn)).foldl (fun (t : State) i => t.decision 0 (t.fuses.svn + i) [] 0 1) s) :
    effectSecFuseCommit s c = ({ u with fuses := { u.fuses with svn := s.boot.imageSvn } }, some resOK) := by
  subst hu
  rw [effectSecFuseCommit, if_neg (not_le.mpr h)]

/-- The customer's key record is fused and kept. -/
theorem effectSecCustomerKey_fuses {s u : State} {c : Ctx} {r : ReadRes} (hr : r = s.readAt c (c.f 40 8) 1312) (hgood : r.good = true) (hu : u = s.noteReadAt c 4 (c.f 40 8) 1312) :
    effectSecCustomerKey s c = ({ u with
      flash := { u.flash with certs := u.flash.certs.filter (fun k => k.1 != 5) ++ [(5, r.data)] }, fuses := { u.fuses with custKeyHash := sha3 r.data, custRequired := bitAt (c.f 32 1) 0 } }, some resOK) := by
  subst hr hu
  simp only [effectSecCustomerKey, readStatus_good hgood]

/-! ### Debug unlock -/

/-- A token that is refused consumes the challenge alone. -/
theorem State.unlock_refused {s : State} {t : List Byte} (h : s.tokenOk t = false) : s.unlock t = ({ s with sec := { s.sec with challenge := none } }, false) := by
  rw [State.unlock, h, if_neg Bool.false_ne_true]

/-- An accepted token sets the level, extends slot 4 and erases the identity key. -/
theorem State.unlock_accepted {s v : State} {t : List Byte} (h : s.tokenOk t = true) (hv : v = ({ s with sec := { s.sec with challenge := none } } : State).extendSlot 4 t) :
    s.unlock t = ({ v with sec := { v.sec with level := field t 4 1, keyReady := false } }, true) := by
  subst hv
  rw [State.unlock, if_pos h]

/-- SEC.DEBUG_UNLOCK submits the token that it reads. -/
theorem effectSecDebugUnlock_submits {s u : State} {c : Ctx} {r : ReadRes} (hr : r = s.readAt c (c.f 40 8) 2496) (hgood : r.good = true) (hu : u = s.noteReadAt c 4 (c.f 40 8) 2496) :
    effectSecDebugUnlock s c = ((u.unlock r.data).1, some (if (u.unlock r.data).2 then resOK else resStatus stAuthFail)) := by
  subst hr hu
  simp only [effectSecDebugUnlock, readStatus_good hgood]

/-- Settles O32: a command by whether its input can be read (`readStatus`), an image write by the image's validity, an unlock by whether the token is accepted. -/
theorem secCommandsComplete : Obligations.SecCommandsComplete := by
  rintro s _ id c rfl
  refine ⟨?certRead, ?quoteErased, ?quote, ?extend, ?unread, ?imageWrite, ?imageStatus, ?fuseCommit, ?customerKey, ?challenge, ?unlock, ?jtag⟩
  case certRead =>
    rintro _ h rfl
    exact h.ends rfl rfl
  case quoteErased => exact fun h hkey => h.ends rfl (effectSecQuote_erased hkey)
  case quote =>
    intro body w h hkey hbody hw
    exact h.ends rfl (effectSecQuote_signs hkey hbody hw)
  case extend => exact fun h => h.ends rfl rfl
  case unread =>
    exact fun x => ⟨fun h hx => h.ends rfl (effectSecImageWrite_unread hx), fun h hx => h.ends rfl (effectSecCustomerKey_unread hx), fun h hx => h.ends rfl (effectSecDebugUnlock_unread hx)⟩
  case imageWrite =>
    intro r u h hr hgood hu
    have heffect : effectSecImageWrite (s.begun id) c = _ := effectSecImageWrite_reads hr hgood hu
    exact ⟨fun hok => h.ends rfl (heffect.trans (if_pos hok)), fun hbad => h.ends rfl (heffect.trans (if_neg (Bool.eq_false_iff.mp hbad)))⟩
  case imageStatus =>
    refine fun h => ⟨fun hi => h.ends rfl ?_, fun n hi => h.ends rfl ?_, fun n hi => h.ends rfl ?_, fun img act hi => h.ends rfl ?_⟩
    · simp only [effectSecImageStatus, State.begun_sec, hi]
    · simp only [effectSecImageStatus, State.begun_sec, hi]
    · simp only [effectSecImageStatus, State.begun_sec, hi]
    · simp only [effectSecImageStatus, State.begun_sec, hi]
      rfl
  case fuseCommit => exact fun h => ⟨fun hheld => h.ends rfl (effectSecFuseCommit_held hheld), fun u hlt hu => h.ends rfl (effectSecFuseCommit_blows hlt hu)⟩
  case customerKey =>
    intro r u h hr hgood hu
    exact h.ends rfl (effectSecCustomerKey_fuses hr hgood hu)
  case challenge =>
    rintro _ _ h rfl rfl
    exact h.ends rfl rfl
  case unlock =>
    intro r u h hr hgood hu
    have heffect : effectSecDebugUnlock (s.begun id) c = _ := effectSecDebugUnlock_submits hr hgood hu
    refine ⟨fun hbad => h.ends rfl ?_, fun v hok hv => h.ends rfl ?_⟩
    · rw [heffect, State.unlock_refused hbad]
      rfl
    · rw [heffect, State.unlock_accepted hok hv]
      rfl
  case jtag =>
    refine fun t => ⟨fun hbad => .of_settle rfl ?_, fun v hok hv => .of_settle rfl ?_⟩
    · rw [State.unlock_refused hbad]
    · rw [State.unlock_accepted hok hv]

end Sys2Proof.Machine
end

section
/-! SUPPORT. The link settings, and the training and authentication of ports (R333 to R341, R353 to R363). -/
namespace Sys2Proof.Machine

/-! ### Ports -/

/-- A port's record after an update that keeps its number. -/
theorem State.port?_updPort {s : State} {p : Nat} {x : Port} {f : Port → Port} (hnum : ∀ y, (f y).num = y.num) (h : s.port? p = some x) : (s.updPort p f).port? p = some (f x) := by
  have hp : x.num = p := by simpa using List.find?_some h
  have hkey : (fun y : Port => y.num == p) ∘ (fun y => if y.num == p then f y else y) = fun y => y.num == p := by
    funext y
    simp only [Function.comp]
    split <;> simp [hnum]
  show List.find? _ (mapWhere _ f s.link.ports) = _
  rw [mapWhere, List.find?_map, hkey]
  rw [State.port?] at h
  simp [h, hp]

/-- Two updates of a port, the first of which keeps its number, are one. -/
theorem mapWhere_mapWhere {α : Type} {q : α → Bool} {f : α → α} (hf : ∀ x, q (f x) = q x) (g : α → α) (xs : List α) : mapWhere q g (mapWhere q f xs) = mapWhere q (g ∘ f) xs := by
  simp only [mapWhere, List.map_map]
  refine List.map_congr_left fun x _ => ?_
  by_cases hx : q x = true
  · simp [hx, hf]
  · simp [hx]

/-! ### Settings (R334, R335, R339, R353, R363) -/

/-- What CFG.LINK_ROUTE makes of a list of routes. -/
def putRoutes (rs : List (Nat × W32)) (first n : Nat) (es : List (Nat × W32)) : List (Nat × W32) := rs.filter (fun r => !(decide (first ≤ r.1) && decide (r.1 < first + n))) ++ es

section
variable {s s1 : State} {c : Ctx} {es : List (Nat × W32)} (hgood : (s.read (c.f 40 8) (4 * c.f 36 4)).good = true) (hs1 : s1 = s.noteRead 4 (c.f 40 8) (4 * c.f 36 4))
  (hes : es = ((s.routeWords (c.f 40 8) (c.f 36 4)).zipIdx).map (fun (w, i) => (c.f 32 2 + i, w)))
include hgood hs1 hes

/-- Routes apply at once when no step runs. -/
theorem effectCfgLinkRoute_now (hstep : s1.stepRunning = false) : effectCfgLinkRoute s c = ({ s1 with link := { s1.link with routes := putRoutes s1.link.routes (c.f 32 2) (c.f 36 4) es } }, some resOK) := by
  subst hs1 hes
  simp only [effectCfgLinkRoute, readStatus_good hgood, hstep, Bool.false_eq_true, if_false]
  rfl

/-- They wait for the boundary while one does. -/
theorem effectCfgLinkRoute_waits (hstep : s1.stepRunning = true) :
    effectCfgLinkRoute s c = ({ s1 with link := { s1.link with pendingRoutes := putRoutes s1.link.pendingRoutes (c.f 32 2) (c.f 36 4) es } }, some resOK) := by
  subst hs1 hes
  simp only [effectCfgLinkRoute, readStatus_good hgood, hstep, if_true]
  rfl

end

/-- CFG.LINK_RANKS of a table that can be read. -/
theorem effectCfgLinkRanks_takes {s s1 : State} {c : Ctx} (hgood : (s.read (c.f 40 8) (2 * s.jobN)).good = true) (hs1 : s1 = s.noteRead 4 (c.f 40 8) (2 * s.jobN)) :
    effectCfgLinkRanks s c = ({ s1 with graph := { s1.graph with ranks := some (s.chipIds (c.f 40 8) s.jobN) } }, some resOK) := by
  subst hs1
  simp only [effectCfgLinkRanks, readStatus_good hgood]

/-- Settles O15: a setting that a running step holds back by whether one runs; the others apply at once. -/
theorem linkSettingsComplete : Obligations.LinkSettingsComplete := by
  rintro s _ id c rfl
  refine ⟨?ports, ?route, ?ranks, ?policyNow, ?policyWaits, ?retrain⟩
  case ports => exact fun h => h.ends rfl rfl
  case route =>
    intro s1 es h hgood hs1 hes
    exact ⟨fun hstep => h.ends rfl (effectCfgLinkRoute_now hgood hs1 hes hstep), fun hstep => h.ends rfl (effectCfgLinkRoute_waits hgood hs1 hes hstep)⟩
  case ranks =>
    intro s1 h hgood hs1
    exact h.ends rfl (effectCfgLinkRanks_takes hgood hs1)
  case policyNow =>
    intro h hstep
    have hstep' : (s.begun id).stepRunning = false := hstep
    exact h.ends rfl (by rw [effectCfgLinkPolicy, hstep', if_neg Bool.false_ne_true]; rfl)
  case policyWaits =>
    intro h hstep
    have hstep' : (s.begun id).stepRunning = true := hstep
    exact h.ends rfl (by rw [effectCfgLinkPolicy, hstep', if_pos rfl]; rfl)
  case retrain => exact fun h => h.ends rfl rfl

/-! ### Training (R337 to R339) -/

section
variable {s : State} {p : Nat} {x : Port} (h : s.port? p = some x)
include h

/-- The first attempt of a port that was asked to train. -/
theorem trainingAttempt_begins (hst : x.state = .training) (ha : x.attempts = 0) (hp : s.portPresent x = true) : Runs (.trainingAttempt p) s (s.beginAttempt p) := by
  show execTrainingAttempt p s = _
  simp [execTrainingAttempt, h, hst, ha, hp]

/-- The next attempt once a retry is due. -/
theorem trainingRetryTimer_begins (hst : x.state = .training) (ht : x.trying = false) (h1 : 1 ≤ x.attempts) (h3 : x.attempts < 3) (hp : s.portPresent x = true) :
    Runs (.trainingRetryTimer p) s (s.beginAttempt p) := by
  show execTrainingRetryTimer p s = _
  simp [execTrainingRetryTimer, h, hst, ht, h1, h3, hp]

/-- An attempt that misses its deadline fails. -/
theorem trainingDeadline_fails (ht : x.trying = true) : Runs (.trainingDeadline p) s (s.failAttempt x 5) := by
  show execTrainingDeadline p s = _
  simp [execTrainingDeadline, h, ht]

/-- An attempt without a lane fit at both ends fails. -/
theorem trainingComplete_fails {r : TrainResult} (ht : x.trying = true) (hl : alignedBlock x.configured (widthLanes r.peerWidth) (TrainResult.bothFit r x.num) = []) :
    Runs (.trainingComplete p r) s ((s.sendHandshake x).failAttempt x 6) := by
  show execTrainingComplete p r s = _
  simp [execTrainingComplete, h, ht, hl]

/-- The state of a complete attempt before its port is UP or in AUTH. -/
def State.handshakeDone (s : State) (p : Nat) (x : Port) (r : TrainResult) : State :=
  let s2 := ((s.sendHandshake x).updPort p (fun y => y.trained r (alignedBlock x.configured (widthLanes r.peerWidth) (TrainResult.bothFit r x.num)))).linkDecision p p 1 0 x.cause
  { s2 with link := { s2.link with lanes := mapWhere (fun l => x.configured.contains l.num) (fun l => l.trained r x.num) s2.link.lanes } }

/-- A complete attempt takes its lanes. -/
theorem trainingComplete_trains {r : TrainResult} (ht : x.trying = true) (hl : alignedBlock x.configured (widthLanes r.peerWidth) (TrainResult.bothFit r x.num) ≠ []) :
    Runs (.trainingComplete p r) s (if x.authMode = 0 then (s.handshakeDone p x r).portUp p false else (s.handshakeDone p x r).updPort p (fun y => { y with state := .auth })) := by
  show execTrainingComplete p r s = _
  have hne : (alignedBlock x.configured (widthLanes r.peerWidth) (TrainResult.bothFit r x.num)).isEmpty = false := by simpa using hl
  simp only [execTrainingComplete, h, ht, hne, Bool.not_true, Bool.false_eq_true, if_false, State.handshakeDone]

/-! ### Authentication (R357, R358) -/

/-- An exchange that has not completed in time fails. -/
theorem authTimeout_fails (hst : x.state = .auth) : Runs (.authTimeout p) s (s.authFails x) := by
  show execAuthTimeout p s = _
  simp [execAuthTimeout, h, hst]

/-- A nonce that comes before the port has sent its own is kept. -/
theorem authMessageReceive_keeps {n : List Byte} (hst : x.state = .auth) (hkey : s.sec.keyReady = true) (hn : x.nonce = []) :
    Runs (.authMessageReceive p (.nonce n)) s (s.updPort p (fun y => { y with peerNonce := n })) := by
  show execAuthMessageReceive p (.nonce n) s = _
  simp [execAuthMessageReceive, h, hst, hkey, hn]

/-- The proof that a port sends of itself once it has its peer's nonce. -/
theorem State.proveSelf_nonce {n : List Byte} : (s.updPort p (fun y => { y with peerNonce := n })).proveSelf p =
    (({ s with free := s.free + 1 } : State).updPort p (fun y => { y with peerNonce := n, provedSelf := true })).send (.auth p (.proof
      (Config.mldsaSign s.free s.fuses.idSeed (linkStatement s.chipId.toNat x.peer.toNat x.nonce n x.num x.lanes)) (Config.mldsaPublic s.fuses.idSeed) (s.certOf 1) (s.certOf 2) (s.certOf 3))) := by
  have hport : (s.updPort p (fun y => { y with peerNonce := n })).port? p = some { x with peerNonce := n } := State.port?_updPort (fun _ => rfl) h
  have hports : mapWhere (fun y => y.num == p) (fun y : Port => { y with provedSelf := true }) (mapWhere (fun y => y.num == p) (fun y : Port => { y with peerNonce := n }) s.link.ports) =
      mapWhere (fun y => y.num == p) (fun y : Port => { y with peerNonce := n, provedSelf := true }) s.link.ports :=
    mapWhere_mapWhere (q := fun y : Port => y.num == p) (f := fun y => { y with peerNonce := n }) (fun _ => rfl) _ _
  rw [State.proveSelf, hport]
  dsimp only [State.updPort, State.draw]
  rw [hports]
  rfl

/-- A nonce is answered with a proof once the port has sent its own. -/
theorem authMessageReceive_proves {n : List Byte} (hst : x.state = .auth) (hkey : s.sec.keyReady = true) (hn : x.nonce ≠ []) :
    Runs (.authMessageReceive p (.nonce n)) s (((s.updPort p (fun y => { y with peerNonce := n })).proveSelf p).authDone p) := by
  have hne : x.nonce.isEmpty = false := by simpa using hn
  show execAuthMessageReceive p (.nonce n) s = _
  simp [execAuthMessageReceive, h, hst, hkey, hne]

/-- A nonce that a chip without an identity key cannot answer. -/
theorem authMessageReceive_keyless {n : List Byte} (hst : x.state = .auth) (hkey : s.sec.keyReady = false) : Runs (.authMessageReceive p (.nonce n)) s (s.authFails x) := by
  show execAuthMessageReceive p (.nonce n) s = _
  simp [execAuthMessageReceive, h, hst, hkey]

/-- A proof is verified. -/
theorem authMessageReceive_proof {sig key cert inter root : List Byte} (hst : x.state = .auth) : Runs (.authMessageReceive p (.proof sig key cert inter root)) s
    (if s.peerOk x sig key cert inter root then (s.updPort p (fun y => { y with verifiedPeer := true })).authDone p else s.authFails x) := by
  show execAuthMessageReceive p (.proof sig key cert inter root) s = _
  simp [execAuthMessageReceive, h, hst]

end

/-- Settles O16: an attempt by the lanes fit at both ends, a complete one by the port's AUTH, a message by what the port has sent and the chip's key. -/
theorem linkTrainingComplete : Obligations.LinkTrainingComplete := by
  intro s
  refine ⟨?presence, ?attempt, ?retry, ?deadline, ?noLane, ?complete, ?timeoutFailed, ?timeoutUp, ?nonceKept, ?nonceAnswered, ?nonceKeyless, ?proofOk, ?proofBad⟩
  case presence => exact fun g present => rfl
  case attempt => exact fun p x => trainingAttempt_begins
  case retry => exact fun p x => trainingRetryTimer_begins
  case deadline => exact fun p x => trainingDeadline_fails
  case noLane => exact fun p r x h => trainingComplete_fails h
  case complete =>
    rintro p r x _ _ h ht rfl hl rfl
    have hruns := trainingComplete_trains h ht hl
    constructor
    · intro hauth
      rwa [if_pos hauth] at hruns
    · intro hauth
      rwa [if_neg hauth] at hruns
  case timeoutFailed =>
    intro p x h hst hauth
    have hruns := authTimeout_fails h hst
    rwa [State.authFails, if_pos hauth] at hruns
  case timeoutUp =>
    intro p x h hst hauth
    have hruns := authTimeout_fails h hst
    rwa [State.authFails, if_neg hauth] at hruns
  case nonceKept => exact fun p x n h => authMessageReceive_keeps h
  case nonceAnswered =>
    intro p x n h hst hkey hn
    have hruns := authMessageReceive_proves (n := n) h hst hkey hn
    rwa [State.proveSelf_nonce h] at hruns
  case nonceKeyless => exact fun p x n h => authMessageReceive_keyless h
  case proofOk =>
    intro p x sig key cert inter root h hst hok
    have hruns := authMessageReceive_proof (sig := sig) (key := key) (cert := cert) (inter := inter) (root := root) h hst
    rwa [if_pos hok] at hruns
  case proofBad =>
    intro p x sig key cert inter root h hst hbad
    have hruns := authMessageReceive_proof (sig := sig) (key := key) (cert := cert) (inter := inter) (root := root) h hst
    rwa [hbad, if_neg Bool.false_ne_true] at hruns

end Sys2Proof.Machine
end

section
/-! SUPPORT. Cells, control slots, lanes and packets of the links (R332, R342 to R361). -/
namespace Sys2Proof.Machine

/-! ### Cells (R332, R347) -/

section
variable {s : State} {l q : Nat} {w : List Byte} {p : Port} (h : s.laneOwner l = some p) (hl : l ∈ p.lanes) (hst : p.state = .up ∨ p.state = .auth)
include h hl hst

omit h in
/-- The lane and its port take cells. -/
theorem takesCells : (!(p.lanes.contains l) || !(p.state == .up || p.state == .auth)) = false := by
  rcases hst with hup | hauth
  · simp [hl, hup]
  · simp [hl, hauth]

/-- An uncorrectable cell is asked for again. -/
theorem cellReceive_uncorrectable (hd : (decodeWord w).1 = .uncorrectable) : Runs (.cellReceive l q w) s (s.nakCell p.num l (BitVec.ofNat 32 q)) := by
  show execCellReceive l q w s = _
  simp only [execCellReceive, h, takesCells hl hst, Bool.false_eq_true, if_false, hd]

/-- A clean cell while the port waits for none. -/
theorem cellReceive_clean (hd : (decodeWord w).1 = .clean) (hnak : p.nak = none) : Runs (.cellReceive l q w) s (s.placeCell p.num ⟨BitVec.ofNat 32 q, l, w⟩) := by
  show execCellReceive l q w s = _
  simp only [execCellReceive, h, takesCells hl hst, Bool.false_eq_true, if_false, hd, hnak, Option.any_none, WordState.isFixed, reduceCtorEq, correctedSymbols]

/-- A corrected cell is counted. -/
theorem cellReceive_corrected {i : Nat} {e : Byte} (hd : (decodeWord w).1 = .corrected i e) (hnak : p.nak = none) :
    Runs (.cellReceive l q w) s ((s.updLane l (fun x => { x with corr := satAdd32 x.corr 1 })).placeCell p.num ⟨BitVec.ofNat 32 q, l, w.set i (w.getD i 0 ^^^ e)⟩) := by
  show execCellReceive l q w s = _
  simp only [execCellReceive, h, takesCells hl hst, Bool.false_eq_true, if_false, hd, hnak, Option.any_none, WordState.isFixed, reduceCtorEq, correctedSymbols, if_true]

/-- A cell after one that the port waits for is discarded. -/
theorem cellReceive_discarded {m : W32} (hd : (decodeWord w).1 = .clean) (hnak : p.nak = some m) (hm : m ≠ BitVec.ofNat 32 q) (hafter : seqCovered m (BitVec.ofNat 32 q) = true) :
    Runs (.cellReceive l q w) s s := by
  have hskip : (m != BitVec.ofNat 32 q && seqCovered m (BitVec.ofNat 32 q)) = true := by simp [hm, hafter]
  show execCellReceive l q w s = _
  simp only [execCellReceive, h, takesCells hl hst, Bool.false_eq_true, if_false, hd, hnak, Option.any_some, hskip, WordState.isFixed, if_true]

/-- The cell that the port waits for ends the wait. -/
theorem cellReceive_awaited {m : W32} (hd : (decodeWord w).1 = .clean) (hnak : p.nak = some m) (hm : m = BitVec.ofNat 32 q) :
    Runs (.cellReceive l q w) s ((s.updPort p.num (fun x => { x with discarding := false, nak := none })).placeCell p.num ⟨BitVec.ofNat 32 q, l, w⟩) := by
  subst hm
  show execCellReceive l q w s = _
  simp only [execCellReceive, h, takesCells hl hst, Bool.false_eq_true, if_false, hd, hnak, Option.any_some, bne_self_eq_false, Bool.false_and, WordState.isFixed, if_true, correctedSymbols]

end

/-- A cell ahead of its turn waits for it. -/
theorem State.placeCell_waits {s : State} {p : Nat} {c : EarlyCell} {x : Port} (h : s.port? p = some x) (hahead : c.seq ≠ x.expectSeq) (hnew : seqCovered c.seq (x.expectSeq - 1) = false)
    (hfirst : ∀ d ∈ x.skew, d.seq ≠ c.seq) : s.placeCell p c = s.updPort p (fun y => { y with skew := y.skew ++ [c] }) := by
  have hany : x.skew.any (fun d => d.seq == c.seq) = false := by simpa using hfirst
  simp only [State.placeCell, h, if_neg hahead, hnew, hany, Bool.or_false, Bool.false_eq_true, if_false]

/-! ### Control slots, replays and widths (R342, R348, R359) -/

/-- A control slot with its marker acts on its port. -/
theorem controlSlotReceive_acts {s : State} {l : Nat} {c : CtlSlot} {p : Port} (h : s.laneOwner l = some p) (hst : p.state = .up ∨ p.state = .auth) (hm : c.marker = 0x48585653) :
    Runs (.controlSlotReceive l c) s (s.takeSlot p l c) := by
  show execControlSlotReceive l c s = _
  simp [execControlSlotReceive, h, hst, hm]

section
variable {s : State} {p : Nat} {x : Port} (h : s.port? p = some x)
include h

/-- The oldest cell past its time is replayed. -/
theorem replayTimer_replays {k : SentCell} {rest : List SentCell} (hbuf : x.replayBuf = k :: rest) (hp : x.paused = false) (hst : x.state = .up ∨ x.state = .auth) :
    Runs (.replayTimer p) s (s.replay p k.seq) := by
  show execReplayTimer p s = _
  simp [execReplayTimer, h, hbuf, hp, hst]

/-- At the named frame the port takes its new width. -/
theorem widthSwitch_takes {w : List Nat} (hw : x.narrowTo = some w) (hp : x.paused = true) :
    Runs (.widthSwitch p) s (s.updPort p (fun y => { y with lanes := w, narrowTo := none, removing := none, switchIn := 0, narrowAck := false, deal := 0, paused := true })) := by
  show execWidthSwitch p s = _
  simp [execWidthSwitch, h, hw, hp]

/-- Traffic resumes with a replay. -/
theorem restripeDone_resumes (hp : x.paused = true) (hw : x.narrowTo = none) : Runs (.restripeDone p) s
    ((if x.replayBuf = [] then s.updPort p (fun y => { y with paused := false }) else (s.updPort p (fun y => { y with paused := false })).replay p (x.ackSeq + 1)).drain p) := by
  show execRestripeDone p s = _
  simp [execRestripeDone, h, hp, hw]

end

/-! ### Lanes (R359 to R361) -/

/-- A lane that loses lock leaves its port. -/
theorem laneLossOfLock_leaves {s s1 : State} {l : Nat} {p : Port} (hs1 : s1 = s.updLane l (fun x => { x with lockLoss := if x.lockLoss = 0xFF then x.lockLoss else x.lockLoss + 1 })) (h : s1.laneOwner l = some p)
    (hst : p.state = .up ∨ p.state = .auth) (hl : l ∈ p.lanes) : Runs (.laneLossOfLock l) s (s1.removeLane p l 3) := by
  subst hs1
  show execLaneLossOfLock l s = _
  simp only [execLaneLossOfLock, h, if_pos (And.intro hst (List.contains_iff_mem.mpr hl))]

/-- A marginal lane leaves its port at the boundary, or at once when no step runs. -/
theorem laneMarginal_leaves {s : State} {l cells corr unc : Nat} {p : Port} (h : s.laneOwner l = some p) (hl : l ∈ p.lanes) (hst : p.state = .up) (hpin : s.link.policy.pinWidth = false)
    (hbad : f32ToRat s.link.policy.marginal * (cells : Rat) < (corr : Rat) ∨ s.link.policy.uncorrLimit < unc) :
    Runs (.laneMarginal l cells corr unc) s (if s.stepRunning then s.updLane l (fun x => { x with pendingRemove := true }) else s.removeLane p l 0) := by
  have hjudged : (decide (f32ToRat s.link.policy.marginal * (cells : Rat) < (corr : Rat)) || decide (s.link.policy.uncorrLimit < unc)) = true := by simpa using hbad
  show execLaneMarginal l cells corr unc s = _
  simp [execLaneMarginal, h, hjudged, hpin, hl, hst]

/-- A lane that is fit and clean again rejoins at the boundary. -/
theorem laneRejoin_pends {s : State} {l fixed cells corr : Nat} {p : Port} {x : Lane} (h : s.laneOwner l = some p) (hx : s.lane? l = some x) (hr : x.removed = true) (hst : p.state = .up)
    (hpin : s.link.policy.pinWidth = false) (hfit : fixed ≤ 100) (hclean : corr * 1000000 < cells) : Runs (.laneRejoin ⟨l, fixed, 0, cells, corr⟩) s (s.updLane l (fun y => { y with pendingRejoin := true })) := by
  show execLaneRejoin ⟨l, fixed, 0, cells, corr⟩ s = _
  simp [execLaneRejoin, h, hx, hr, hst, hpin, testFit, hfit, hclean]

/-- Settles O17: a cell by what it decodes to and by what the port waits for; the other rows by their port's and their lane's state. -/
theorem linkCellsComplete : Obligations.LinkCellsComplete := by
  intro s
  refine ⟨?uncorrectable, ?clean, ?ahead, ?corrected, ?waiting, ?slot, ?replay, ?lockLoss, ?widthSwitch, ?restripe, ?marginal, ?rejoin⟩
  case uncorrectable => exact fun l q w p => cellReceive_uncorrectable
  case clean => exact fun l q w p => cellReceive_clean
  case ahead =>
    intro l q w p x h hl hst hd hnak hx hahead hnew hfirst
    have hruns := cellReceive_clean (q := q) h hl hst hd hnak
    rwa [State.placeCell_waits (c := ⟨BitVec.ofNat 32 q, l, w⟩) hx hahead hnew hfirst] at hruns
  case corrected => exact fun l q w p i e h hl hst => cellReceive_corrected h hl hst
  case waiting => exact fun l q w p m h hl hst hd hnak => ⟨cellReceive_discarded h hl hst hd hnak, cellReceive_awaited h hl hst hd hnak⟩
  case slot => exact fun l c p => controlSlotReceive_acts
  case replay => exact fun p x k rest h => replayTimer_replays h
  case lockLoss => exact fun l s1 p => laneLossOfLock_leaves
  case widthSwitch => exact fun p x w h => widthSwitch_takes h
  case restripe => exact fun p x => restripeDone_resumes
  case marginal =>
    intro l cells corr unc p h hl hst hpin hbad
    have hruns := laneMarginal_leaves h hl hst hpin hbad
    constructor
    · intro hstep
      rwa [if_pos hstep] at hruns
    · intro hstep
      rwa [hstep, if_neg Bool.false_ne_true] at hruns
  case rejoin => exact fun l fixed cells corr p x => laneRejoin_pends

/-! ### Packets (R346, R352, R354, R356) -/

/-- A packet that a port has taken lies in its buffer. -/
def State.packetTaken (s : State) (q : Nat) (p : Packet) : State := (s.updPort q (fun y => { y with whole := y.whole.erase p })).holdCells q (Packet.buffer p) (packetCells p)

section
variable {s : State} {q : Nat} {p : Packet} {x : Port} (h : s.port? q = some x) (hc : x.carries p.vc = true) (ho : vcOpen s.isHalted p.vc = true)
include h hc ho

/-- A packet for this chip gives its cells back at once, and is kept for reassembly unless a row of its own takes it. -/
theorem packetReceive_own (hd : p.dest = s.chipId.toNat) : Runs (.packetReceive q p) s
    (if fixedVc p.vc then (s.packetTaken q p).freeCells q (Packet.buffer p) (packetCells p) else ((s.packetTaken q p).freeCells q (Packet.buffer p) (packetCells p)).keepPart p) := by
  show execPacketReceive q p s = _
  simp only [execPacketReceive, h, hc, ho, hd, Bool.not_true, Bool.or_false, Bool.false_eq_true, if_false, if_true, State.packetTaken]

/-- A packet for another chip goes on. -/
theorem packetReceive_onward (hd : p.dest ≠ s.chipId.toNat) : Runs (.packetReceive q p) s ((s.packetTaken q p).forwardPacket q p) := by
  show execPacketReceive q p s = _
  simp only [execPacketReceive, h, hc, ho, hd, Bool.not_true, Bool.or_false, Bool.false_eq_true, if_false, State.packetTaken]

end

/-- A packet without a hop left is discarded. -/
theorem State.forwardPacket_hopless {s : State} {q : Nat} {p : Packet} (h : s.link.policy.hopLimit ≤ p.hops) : s.forwardPacket q p = (s.freeCells q (Packet.buffer p) (packetCells p)).discardPacket false := by
  rw [State.forwardPacket, if_pos h]

/-- A packet without a path is discarded. -/
theorem State.forwardPacket_pathless {s : State} {q : Nat} {p : Packet} (h : p.hops < s.link.policy.hopLimit) (he : s.egressOf p = none) :
    s.forwardPacket q p = (s.freeCells q (Packet.buffer p) (packetCells p)).discardPacket true := by
  rw [State.forwardPacket, if_neg (not_le.mpr h), he]

/-- Any other waits at its egress, and holds its cells. -/
theorem State.forwardPacket_waits {s : State} {q e : Nat} {p : Packet} (h : p.hops < s.link.policy.hopLimit) (he : s.egressOf p = some e) :
    s.forwardPacket q p = s.enqueue e ⟨{ p with hops := p.hops + 1 }, Packet.credit p, some (q, Packet.buffer p), none⟩ := by
  rw [State.forwardPacket, if_neg (not_le.mpr h), he]

/-- A packet blocked for too long takes the escape channel. -/
theorem escapeWait_escapes {s : State} {q vc e : Nat} {x : Port} {w : Waiting} (h : s.port? q = some x) (hw : x.blocked vc = some w) (hf : fixedVc vc = false)
    (he : s.egressOf { w.pkt with escape := true } = some e) : Runs (.escapeWait q vc) s
      ((({ s with link := { s.link with escapes := assocSet s.link.escapes q (satAdd32 (assocGet s.link.escapes q 0) 1) } } : State).updPort q (fun y => { y with egress := y.egress.erase w })).enqueue e
        { w with pkt := { w.pkt with escape := true }, buffer := Packet.credit { w.pkt with escape := true } }) := by
  show execEscapeWait q vc s = _
  simp only [execEscapeWait, h, hw, hf, he, Bool.false_eq_true, if_false]

/-- Settles O18: a packet by its destination, its hops and its egress. -/
theorem linkPacketsComplete : Obligations.LinkPacketsComplete := by
  intro s
  refine ⟨?received, ?escape, ?reassembled⟩
  case received =>
    rintro q p x _ h hc ho rfl
    refine ⟨fun hd hf => ?_, fun hd hf => ?_, fun hd hhop => ?_, fun hd hhop he => ?_, fun e hd hhop he => ?_⟩
    · have hruns := packetReceive_own h hc ho hd
      rwa [if_pos hf] at hruns
    · have hruns := packetReceive_own h hc ho hd
      rwa [hf, if_neg Bool.false_ne_true] at hruns
    · have hruns := packetReceive_onward h hc ho hd
      rwa [State.forwardPacket_hopless (s := s.packetTaken q p) hhop] at hruns
    · have hruns := packetReceive_onward h hc ho hd
      rwa [State.forwardPacket_pathless (s := s.packetTaken q p) hhop he] at hruns
    · have hruns := packetReceive_onward h hc ho hd
      rwa [State.forwardPacket_waits (s := s.packetTaken q p) hhop he] at hruns
  case escape => exact fun q vc x w e => escapeWait_escapes
  case reassembled =>
    intro src vc tag r h
    show execBatchReassembled src vc tag s = _
    simp only [execBatchReassembled, h]

end Sys2Proof.Machine
end
